-- ==== Sys2Proof/Word.lean ====
section
/-! DEFINITION. The word types of the machine (spec/00 R5, spec/04 R54): a register of the X, Y, M, C and S files is a
`Word`, an instruction word a `Word32`, a vector register a `Vec`. -/

namespace Sys2Proof

/-- One byte of memory. -/
abbrev Byte := BitVec 8
/-- One instruction word, one accumulator element, one shape or pattern field (R35, R144, R171). -/
abbrev Word32 := BitVec 32
/-- One register of the X, Y, M, C and S files (R54). -/
abbrev Word := BitVec 64
/-- One vector register (R54). -/
abbrev Vec := BitVec 2048
/-- One mask register (R54). -/
abbrev Mask := BitVec 512
/-- One 32-byte sector (R1). -/
abbrev Sector := BitVec 256

end Sys2Proof
end

