-- ==== Sys2Proof/Config.lean ====
section
/-! DEFINITION. The free values: what the spec calls undefined while the machine goes on. Each is a constant without a
body, so that nothing can be proved of its value (log 3). -/

namespace Sys2Proof.Config

/-- A 64-bit value the spec leaves open (R9, R27, R87, R97): draw number `n`, place `i`. -/
opaque freeWord : (n i : Nat) → Word
/-- A vector register the spec leaves undefined (R9, R27). -/
opaque freeVec : (n i : Nat) → Vec
/-- A mask register the spec leaves undefined (R9, R27). -/
opaque freeMask : (n i : Nat) → Mask
/-- A predicate the spec leaves undefined (R9, R27). -/
opaque freeBit : (n i : Nat) → Bool
/-- A shape or pattern field the spec leaves undefined (R9, R27). -/
opaque freeField : (n i j : Nat) → Word32
/-- A byte whose contents the spec leaves undefined: read under another key, after an ARM with another matrix, or left
by an overlap within one copy (R184, R254, R261). -/
opaque freeByte : (n a : Nat) → Byte
/-- The set of a cache in which a line stands, which is not architectural (R147, R149, R210): L1 0, L2 1, instruction cache 2. -/
opaque cacheSet : (cache line : Nat) → Nat
/-- A choice among lines or entries to replace, which is not architectural (R147, R210, R248). -/
opaque freeNat : (n i : Nat) → Nat
/-- The bytes of a signature, digest or certificate, which follow from fused secrets (R317, R318). -/
opaque freeDigest : (n i : Nat) → Word

/-- What a margin test of a round finds (R310): the classes of an engine that pass, bit 0 for a bank or a channel. Round, unit. -/
opaque freeMargin : (round unit : Nat) → BitVec 5

end Sys2Proof.Config
end

