-- ==== Sys2Proof/Syntax.lean ====
section
/-! DEFINITION. The syntax: one constructor of `Instr` for each row of spec/opcode_table.json. The first 206 rows are
instruction words, the others events of the machine and of the agents around it (spec/95). Operand records follow the
formats of spec/03 R43; a record holds only the fields its instructions give a meaning. -/

namespace Sys2Proof

/-- The lane types of the V slot (R48). -/
inductive LaneType
  | b8 | i8 | n8 | i16 | n16 | i32 | n32 | i64 | n64 | f16 | bf16 | f32 | e4m3 | e5m2 | e2m1 | e8m0
  deriving DecidableEq, Repr

/-- The conditions of CMP and CMPI (R84). -/
inductive Cond | eq | ne | lt | ge | ltn | gen | le
  deriving DecidableEq, Repr

/-- The conditions of VCMP (R158). -/
inductive VCond | eq | ne | lt | ge | le | gt | unord
  deriving DecidableEq, Repr

/-- Rounding modes (R119). -/
inductive RMode | rne | rz | ru | rd | sr
  deriving DecidableEq, Repr

/-- The ordering field of an atomic (R104). -/
inductive AOrd | plain | acq | rel | acqrel
  deriving DecidableEq, Repr

/-- The operations of ATOM (R102). -/
inductive AtomOp | add | min | max | minn | maxn | and | or | xor
  deriving DecidableEq, Repr

/-- PHASE scopes (R106). -/
inductive Scope | core | cluster | die | package | fabric
  deriving DecidableEq, Repr

/-- FENCE kinds (R108). -/
inductive FenceKind | eng | port | all
  deriving DecidableEq, Repr

/-- PREF levels (R109). -/
inductive CacheLvl | l1 | l2 | ms
  deriving DecidableEq, Repr

/-- The fmt field of MMA (R49). -/
inductive MmaFmt | bf16 | f16 | e4m3 | e5m2 | e4m3e5m2 | e5m2e4m3 | mxfp4 | i8
  deriving DecidableEq, Repr

/-- The operations of CPYR (R175). -/
inductive RedOp
  | add32 | add64 | min32 | max32 | minn32 | maxn32 | min64 | max64 | minn64 | maxn64 | and | or | fmin | fmax
  | xsmerge | xsaddf
  deriving DecidableEq, Repr

/-- The index bases (R46). -/
inductive Base | xb | yb | vb | cb
  deriving DecidableEq, Repr

/-- The shape fields of HSET (R50). -/
inductive ShapeField | m | n | k | apitch | bpitch | scale | asb | bsb
  deriving DecidableEq, Repr

/-- The copy-pattern fields of GSET (R171). -/
inductive PatField | esize | n1 | n2 | ss1 | ss2 | ds1 | ds2 | opt
  deriving DecidableEq, Repr

/-- The bubble causes of PVBUB (R327). -/
inductive PvCause | input | dest | stash
  deriving DecidableEq, Repr

/-- The destination of XMOV and YMOV (R91, R101): the other scalar file, M, C, every lane of a vector register, one lane. -/
inductive MovDst
  | file (r : BitVec 5) | m (r : BitVec 4) | c (r : BitVec 4) | vb (r : BitVec 5) | vl (r lane : BitVec 5)
  deriving DecidableEq, Repr

/-- The destination of VEXT (R167). -/
inductive ExtDst | x (r : BitVec 5) | y (r : BitVec 5) | m (r : BitVec 4) | c (r : BitVec 4)
  deriving DecidableEq, Repr

/-- Format A with three registers. -/
structure Reg3 where (i : Bool) (g : BitVec 4) (d a b : BitVec 5)
  deriving DecidableEq, Repr
/-- Format A with d and a. -/
structure Reg2 where (i : Bool) (g : BitVec 4) (d a : BitVec 5)
  deriving DecidableEq, Repr
/-- Format A with a. -/
structure Reg1 where (i : Bool) (g : BitVec 4) (a : BitVec 5)
  deriving DecidableEq, Repr
/-- MFS (R75): destination and register number. -/
structure SysRead where (i : Bool) (g : BitVec 4) (d : BitVec 5) (n : BitVec 11)
  deriving DecidableEq, Repr
/-- MTS (R75): source and register number. -/
structure SysWrite where (i : Bool) (g : BitVec 4) (a : BitVec 5) (n : BitVec 11)
  deriving DecidableEq, Repr
/-- Format F (R81). -/
structure FieldOp where (i : Bool) (g : BitVec 4) (d a : BitVec 5) (pos : BitVec 6) (len : BitVec 5)
  deriving DecidableEq, Repr
/-- Format B (R82, R100). -/
structure RegImm where (i : Bool) (g : BitVec 4) (d a : BitVec 5) (imm : BitVec 11)
  deriving DecidableEq, Repr
/-- SHI (R82). -/
structure ShiftImm where (i : Bool) (g : BitVec 4) (d a : BitVec 5) (amt : BitVec 6)
  deriving DecidableEq, Repr
/-- Format C (R83). -/
structure Const16 where (i : Bool) (g : BitVec 4) (d : BitVec 5) (imm : BitVec 16)
  deriving DecidableEq, Repr
/-- CMP (R84). -/
structure CmpReg where (i : Bool) (g : BitVec 4) (d : BitVec 4) (a b : BitVec 5) (cc : Cond)
  deriving DecidableEq, Repr
/-- CMPI, format P (R84). -/
structure CmpImm where (g : BitVec 4) (d : BitVec 4) (cc : Cond) (a : BitVec 5) (imm : BitVec 9)
  deriving DecidableEq, Repr
/-- PLOG with three predicates (R85). -/
structure Pred3 where (g d a b : BitVec 4)
  deriving DecidableEq, Repr
/-- PNOT and PMOV (R85). -/
structure Pred2 where (g d a : BitVec 4)
  deriving DecidableEq, Repr
/-- SEL (R86). -/
structure SelOp where (i : Bool) (g : BitVec 4) (d a b : BitVec 5) (p : BitVec 4)
  deriving DecidableEq, Repr
/-- XMOV and YMOV (R91, R101). -/
structure MovOp where (i : Bool) (g : BitVec 4) (a : BitVec 5) (dst : MovDst)
  deriving DecidableEq, Repr
/-- SETIB (R92). -/
structure SetBase where (i : Bool) (g : BitVec 4) (base : Base) (a : BitVec 5) (imm : BitVec 11)
  deriving DecidableEq, Repr
/-- HSET (R93). -/
structure ShapeSet where (i : Bool) (g : BitVec 4) (d : BitVec 2) (a : BitVec 5) (field : ShapeField)
  deriving DecidableEq, Repr
/-- GSET (R93, R171). -/
structure PatSet where (i : Bool) (g : BitVec 4) (d : BitVec 3) (a : BitVec 5) (field : PatField)
  deriving DecidableEq, Repr
/-- LD (R98): `sz` is the log of the size, `sx` sign extension. -/
structure LoadOp where (i : Bool) (g : BitVec 4) (d a : BitVec 5) (sz : BitVec 2) (sx : Bool) (imm : BitVec 8)
  deriving DecidableEq, Repr
/-- ST (R98). -/
structure StoreOp where (i : Bool) (g : BitVec 4) (d a : BitVec 5) (sz : BitVec 2) (imm : BitVec 8)
  deriving DecidableEq, Repr
/-- LDX (R99). -/
structure LoadX where (i : Bool) (g : BitVec 4) (d a b : BitVec 5) (sc : BitVec 2) (sx : Bool) (sz : BitVec 2)
  deriving DecidableEq, Repr
/-- STX (R99). -/
structure StoreX where (i : Bool) (g : BitVec 4) (d a b : BitVec 5) (sc sz : BitVec 2)
  deriving DecidableEq, Repr
/-- ATOM, ASWP and ACAS (R102): `dbl` is the 8-byte form. -/
structure AtomArgs where (i : Bool) (g : BitVec 4) (d a b : BitVec 5) (ord : AOrd) (dbl : Bool)
  deriving DecidableEq, Repr
/-- VMEM (R110): `k` is the mask. -/
structure VMemOp where (i : Bool) (g : BitVec 4) (d a : BitVec 5) (k : BitVec 3)
  deriving DecidableEq, Repr
/-- Format E (R43): m operands, shape register, swap bit. -/
structure TileOp where (g a b : BitVec 4) (h : BitVec 2) (s : Bool)
  deriving DecidableEq, Repr
/-- Format CE (R43): c operands, copy pattern, channel. -/
structure CopyOp where (g a b : BitVec 4) (pat ch : BitVec 3)
  deriving DecidableEq, Repr
/-- Format VA with three fields (R152). -/
structure Vec3 where (i : Bool) (k : BitVec 3) (d a b : BitVec 5) (t : LaneType)
  deriving DecidableEq, Repr
/-- Format VA with d and a. -/
structure Vec2 where (i : Bool) (k : BitVec 3) (d a : BitVec 5) (t : LaneType)
  deriving DecidableEq, Repr
/-- VCMP (R158): d names a mask. -/
structure VCmpOp where (i : Bool) (k : BitVec 3) (d : BitVec 3) (a b : BitVec 5) (t : LaneType) (cc : VCond)
  deriving DecidableEq, Repr
/-- VCVT (R163). -/
structure CvtOp where (i : Bool) (k : BitVec 3) (d a : BitVec 5) (sat : Bool) (dst src : LaneType) (rm : RMode)
  deriving DecidableEq, Repr

/-- The answer of an owner die to a request (R245, R355): the bytes, or the check that failed and its SUB. -/
inductive Reply
  | data (bytes : List Byte) | failed (order sub : Nat)
  deriving DecidableEq, Repr

/-- A unit of a die that sends or receives (R355): logical die in the job's die map, cluster, core, context, port or channel. -/
structure UnitId where (ldie : BitVec 12) (cluster : BitVec 4) (core : BitVec 3) (ctx : BitVec 2) (port : BitVec 4)
  deriving DecidableEq, Repr

/-- A published sector arriving at its home (R272, R355 kind 1). `remote` says that it was counted as injected elsewhere, `poison` that its
bytes were lost to an error (R150). -/
structure StoreMsg where
  (src : UnitId) (remote : Bool) (job : BitVec 12) (vf : BitVec 6) (asid : BitVec 13) (off : Nat) (mask : BitVec 32)
  (data : Sector) (flush poison : Bool)
  deriving DecidableEq, Repr

/-- An atomic or one CPYR update arriving at its home (R262, R355 kind 2): `f` is the f field of the word, `axch` its op. -/
structure AtomicMsg where
  (src : UnitId) (remote : Bool) (job : BitVec 12) (vf : BitVec 6) (asid : BitVec 13) (off : Nat) (f : BitVec 6)
  (axch : Bool) (w e : Word) (tag : Nat)
  deriving DecidableEq, Repr

/-- A read request arriving at the owner die (R355 kind 7). -/
structure ReadMsg where
  (src : UnitId) (job : BitVec 12) (vf : BitVec 6) (asid : BitVec 13) (off len : Nat) (engine ws : Bool) (tag : Nat)
  deriving DecidableEq, Repr

/-- A copy row segment arriving at its home (R355 kind 3): `red` is the CPYR operation of a reducing copy. -/
structure CopyMsg where
  (src : UnitId) (remote : Bool) (job : BitVec 12) (vf : BitVec 6) (asid : BitVec 13) (off : Nat) (bytes : List Byte)
  (red : Option RedOp) (last : Bool) (serial : Nat)
  deriving DecidableEq, Repr

/-- A sub-launch as its die receives it (R294, R355 kind 13): the logical die of its home, the package and die
of the home where that is not this die, the launch, its die point, the taking queue's tenant, the record. -/
structure SubMsg where (src : BitVec 12) (home : Option (BitVec 16 × BitVec 2)) (id : Word) (d : Nat) (vf : BitVec 6) (record : List Word)
  deriving DecidableEq, Repr

/-- The four words of a fault queue entry (R299). -/
structure FaultWords where (w0 w1 w2 w3 : Word)
  deriving DecidableEq, Repr

/-- A Pavane output segment (R328, R355 kind 4): destination context and physical ring, place in the slot, bytes. -/
structure PvMsg where (job : BitVec 12) (ctx : Fin 4) (ring : Fin 32) (off : Nat) (bytes : List Byte) (last : Bool)
  deriving DecidableEq, Repr

/-- A port message (R343, R355 kind 0) with the sender's unit, for the credit. -/
structure PortMsg where (src : UnitId) (job : BitVec 12) (ctx : Fin 4) (port : Fin 16) (words : List Word)
  deriving DecidableEq, Repr

/-- A wave flit as it visits a die (R349, R355). -/
structure WaveMsg where
  (job : BitVec 12) (second : Bool) (act : Bool) (number : Nat) (sum1 sum : Int) (member : Nat) (die : BitVec 2)
  deriving DecidableEq, Repr

/-- A declaration of a quiet wave (R349). -/
structure DeclMsg where (job : BitVec 12) (quiet : Bool) (number : Nat) (jflags : Word)
  deriving DecidableEq, Repr

/-- Where a core storage error stands (R150). -/
inductive CorePlace | scratchpad | l1Clean | l1Dirty | accumulator | weight | icache | state
  deriving DecidableEq, Repr

/-- An engine of another cluster of the package, and the bitmap that Lantern installs there (R202, R313). -/
structure EngineAt where (die : BitVec 2) (cluster : BitVec 4) (engine : Fin 16) (bmap : BitVec 8)
  deriving DecidableEq, Repr

/-- Another core of the package. -/
structure CoreAt where (die : BitVec 2) (cluster : BitVec 4) (core : BitVec 3)
  deriving DecidableEq, Repr

/-- What a Pavane task on another core does that the unit sees (R326, R328): its PVSTASH of these bytes, its PVTAKE, its end by DONE or by a strand
fault. -/
inductive TaskStep | stash (bytes : List Byte) | take | done (fault : Bool)
  deriving DecidableEq, Repr

/-- A step of a unit elsewhere in the package: an engine's bitmap, a bank's next state, the next state of a channel, the retirement of a core (R138,
R202, R256, R311, R313); other cores hold `n` entries of a controller, of subscriptions or of drains (R308); a ring of another core has a new
configuration (R139); a QWAIT of a job waits elsewhere, or waits no longer (R349); the task of a table entry that runs on another core takes a step (R326, R328). -/
inductive UnitStep
  | qwait (job : BitVec 12) (on : Bool) | ring (fid : BitVec 16) (k : CoreAt) (n : Fin 32) (cfg : Word) | task (entry : Nat) (t : TaskStep)
  | engine (a : EngineAt) | bank (k : CoreAt) (b : Fin 24) | channel (die : BitVec 2) (ch : BitVec 6) (x : Nat)
  | core (k : CoreAt) | entries (ctrl : Fin 8) (subs : Bool) (n : Nat)
  deriving DecidableEq, Repr

/-- The native code of a kernel: the new KERNEL word and the bytes (R214). -/
structure NativeCode where (word : Word) (bytes : List Byte)
  deriving DecidableEq, Repr

/-- A unit with a ladder state in flash (R311). -/
inductive BootUnit | engine (e : Fin 16) | bank (b : Fin 24) | channel (c : BitVec 6)
  deriving DecidableEq, Repr

/-- What boot meets (R309, R311, R391): the failure code of stages 1 to 3, the units whose record cannot be read, the version of the Lantern
image, major × 256 + minor. -/
structure BootReport where (fail : Byte) (unread : List BootUnit) (firmware : Nat)
  deriving DecidableEq, Repr

/-- Who writes a register (R131, R242, R287, R306): the context itself by MTS, the service context by MTS, a service context
through the physical block, the hypervisor, Lantern, a virtual function's launch page. -/
inductive Writer | ctx (c : Fin 5) | service | block | hyper | lantern | page (vf : BitVec 6)
  deriving DecidableEq, Repr

/-- Instructions and events: one constructor for each row of the opcode table. -/
inductive Instr where
  /-- NOP (R71): Performs no operation. -/
  | nop (g : BitVec 4)
  /-- BRK (R72): Raises the precise BRK trap, CAUSE 6, with the code in SUB. -/
  | brk (g : BitVec 4) (n : BitVec 15)
  /-- TRAP (R72): Raises the precise TRAP trap, CAUSE 7, with the code in SUB. -/
  | trap (g : BitVec 4) (n : BitVec 15)
  /-- SVC (R72): Raises the precise SVC trap, CAUSE 8, with the code in SUB. -/
  | svc (g : BitVec 4) (n : BitVec 15)
  /-- HCALL (R72): Raises the precise HCALL trap, CAUSE 9, which the hypervisor takes through the service context. -/
  | hcall (g : BitVec 4) (n : BitVec 15)
  /-- ERET (R66): Returns from the context handler to TRAP_PC and keeps or drops the pending transfer. -/
  | eret (g : BitVec 4)
  /-- YIELD (R73): Closes the region as a core-scope PHASE and moves to the next iteration or to the epilogue. -/
  | yield (g : BitVec 4)
  /-- SUSP (R73): Closes the region as a core-scope PHASE and evicts the strand, queuing its record. -/
  | susp (g : BitVec 4)
  /-- DONE (R28): Closes the region as a die-scope PHASE, waits for every forked engine operation, then ends the strand. -/
  | done (g : BitVec 4)
  /-- MFS (R77): Reads a system register into an X register at latency 2. -/
  | mfs (f : SysRead)
  /-- MTS (R77): Writes an X register into a system register, performing any side effect once. -/
  | mts (f : SysWrite)
  /-- ADD (R78): Adds two X registers modulo 2^64. -/
  | add (f : Reg3)
  /-- SUB (R78): Subtracts two X registers modulo 2^64. -/
  | sub (f : Reg3)
  /-- AND (R78): Bitwise AND of two X registers. -/
  | and (f : Reg3)
  /-- OR (R78): Bitwise OR of two X registers. -/
  | or (f : Reg3)
  /-- XOR (R78): Bitwise XOR of two X registers. -/
  | xor (f : Reg3)
  /-- ANDN (R78): A AND NOT B of two X registers. -/
  | andn (f : Reg3)
  /-- ORN (R78): A OR NOT B of two X registers. -/
  | orn (f : Reg3)
  /-- SHL (R78): Shifts an X register left by the six low bits of B. -/
  | shl (f : Reg3)
  /-- SHR (R78): Shifts an X register right logically. -/
  | shr (f : Reg3)
  /-- SRA (R78): Shifts an X register right arithmetically. -/
  | sra (f : Reg3)
  /-- ROTL (R78): Rotates an X register left. -/
  | rotl (f : Reg3)
  /-- MIN (R78): Signed minimum of two X registers. -/
  | min (f : Reg3)
  /-- MAX (R78): Signed maximum of two X registers. -/
  | max (f : Reg3)
  /-- MINN (R78): Unsigned minimum of two X registers. -/
  | minn (f : Reg3)
  /-- MAXN (R78): Unsigned maximum of two X registers. -/
  | maxn (f : Reg3)
  /-- ABSD (R78): Exact absolute signed difference of two X registers. -/
  | absd (f : Reg3)
  /-- MUL (R79): Low 64 bits of the product, at latency 3. -/
  | mul (f : Reg3)
  /-- MULH (R79): High 64 bits of the signed product. -/
  | mulh (f : Reg3)
  /-- MULHN (R79): High 64 bits of the unsigned product. -/
  | mulhn (f : Reg3)
  /-- DIV (R79): Signed division truncating toward zero, all ones on division by zero. -/
  | div (f : Reg3)
  /-- DIVN (R79): Unsigned division, all ones on division by zero. -/
  | divn (f : Reg3)
  /-- REM (R79): Signed remainder with the sign of the dividend. -/
  | rem (f : Reg3)
  /-- REMN (R79): Unsigned remainder. -/
  | remn (f : Reg3)
  /-- CLZ (R80): Counts leading zero bits of an X register. -/
  | clz (f : Reg2)
  /-- CTZ (R80): Counts trailing zero bits of an X register. -/
  | ctz (f : Reg2)
  /-- POPC (R80): Counts one bits of an X register. -/
  | popc (f : Reg2)
  /-- BREV (R80): Reverses the bits of an X register. -/
  | brev (f : Reg2)
  /-- BSWAP (R80): Reverses the bytes of an X register. -/
  | bswap (f : Reg2)
  /-- SEXTB (R80): Sign-extends the low byte. -/
  | sextb (f : Reg2)
  /-- SEXTH (R80): Sign-extends the low half. -/
  | sexth (f : Reg2)
  /-- SEXTW (R80): Sign-extends the low word. -/
  | sextw (f : Reg2)
  /-- ZEXTW (R80): Zero-extends the low word. -/
  | zextw (f : Reg2)
  /-- EXTR (R81): Extracts a bit field zero-extended. -/
  | extr (f : FieldOp)
  /-- EXTRS (R81): Extracts a bit field sign-extended. -/
  | extrs (f : FieldOp)
  /-- INSR (R81): Inserts the low bits of A into a field of x[d]. -/
  | insr (f : FieldOp)
  /-- ADDI (R82): Adds a signed 11-bit immediate. -/
  | addi (f : RegImm)
  /-- ANDI (R82): ANDs a sign-extended immediate. -/
  | andi (f : RegImm)
  /-- ORI (R82): ORs a sign-extended immediate. -/
  | ori (f : RegImm)
  /-- XORI (R82): XORs a sign-extended immediate. -/
  | xori (f : RegImm)
  /-- SHLI (R82): Shifts left by an immediate amount. -/
  | shli (f : ShiftImm)
  /-- SHRI (R82): Shifts right logically by an immediate amount. -/
  | shri (f : ShiftImm)
  /-- SRAI (R82): Shifts right arithmetically by an immediate amount. -/
  | srai (f : ShiftImm)
  /-- ROTLI (R82): Rotates left by an immediate amount. -/
  | rotli (f : ShiftImm)
  /-- MOVI (R83): Loads a sign-extended 16-bit immediate. -/
  | movi (f : Const16)
  /-- MOVSH (R83): Shifts x[d] left by 16 and ORs in the immediate. -/
  | movsh (f : Const16)
  /-- CMP (R84): Compares two X registers into a predicate. -/
  | cmp (f : CmpReg)
  /-- CMPI (R84): Compares an X register with a 9-bit immediate into a predicate. -/
  | cmpi (f : CmpImm)
  /-- PAND (R85): ANDs two predicates. -/
  | pand (f : Pred3)
  /-- POR (R85): ORs two predicates. -/
  | por (f : Pred3)
  /-- PXOR (R85): XORs two predicates. -/
  | pxor (f : Pred3)
  /-- PANDN (R85): p[a] AND NOT p[b]. -/
  | pandn (f : Pred3)
  /-- PNOT (R85): Inverts a predicate. -/
  | pnot (f : Pred2)
  /-- PMOV (R85): Copies a predicate. -/
  | pmov (f : Pred2)
  /-- SEL (R86): Selects x[a] or x[b] by a predicate. -/
  | sel (f : SelOp)
  /-- BR (R87): Branches by a word displacement, with one delay bundle in native code. -/
  | br (g : BitVec 4) (disp : BitVec 22)
  /-- CALL (R87): Branches by a displacement and writes the link to x31. -/
  | call (g : BitVec 4) (disp : BitVec 22)
  /-- JMPR (R87): Jumps to the address in an X register. -/
  | jmpr (f : Reg1)
  /-- CALLR (R87): Jumps to a register target and writes the link to x[d]. -/
  | callr (f : Reg2)
  /-- RET (R87): Returns to a register target, marked as a return. -/
  | ret (f : Reg1)
  /-- LOOP (R90): Activates a hardware loop level with a count from an X register. -/
  | loop (g : BitVec 4) (a : BitVec 5) (disp : BitVec 17)
  /-- XMOV (R91): Copies an X register into a Y, M, C or V destination at latency 2. -/
  | xmov (f : MovOp)
  /-- SETIB (R92): Sets an index base from a register plus immediate. -/
  | setib (f : SetBase)
  /-- HSET (R93): Writes one field of the shadow copy of a shape register. -/
  | hset (f : ShapeSet)
  /-- GSET (R93): Writes one field of a copy-pattern register. -/
  | gset (f : PatSet)
  /-- QWAIT (R359): Holds until a quiet declaration of the job from a wave begun after issue. -/
  | qwait (g : BitVec 4)
  /-- JSET (R359): ORs flag bits into the job's JFLAGS at the leader; seals. -/
  | jset (f : Reg1)
  /-- RFLUSH (R359): Requests acknowledgements on every stream with unacknowledged sectors. -/
  | rflush (g : BitVec 4)
  /-- RWAIT (R359): Performs RFLUSH and holds until the outstanding count is zero. -/
  | rwait (g : BitVec 4)
  /-- QMARK (R359): Sends a job marker on each selected link after the job's queued flits; seals. -/
  | qmark (f : Reg1)
  /-- QSTAT (R359): Returns an item of the job's quiet-wave state or counters. -/
  | qstat (f : Reg2)
  /-- GRPQ (R359): Returns a word of the loaded group table or its sequence and index. -/
  | grpq (f : Reg2)
  /-- LSTAT (R359): Returns a status item of an optical link. -/
  | lstat (f : Reg2)
  /-- PVPOST (R328): Records a post of window bytes into the destination peer ring, performed at the close. -/
  | pvpost (f : Reg1)
  /-- PVSTASH (R328): Records a write of window bytes into the entry's stash slot, performed at the close. -/
  | pvstash (f : Reg1)
  /-- PVTAKE (R328): Records a copy of the stash slot into a ring, performed at the close. -/
  | pvtake (f : Reg1)
  /-- PVBUB (R328): Returns a Pavane bubble counter. -/
  | pvbub (i : Bool) (g : BitVec 4) (d : BitVec 5) (cause : PvCause)
  /-- PVSTAT (R328): Returns PV_STAT. -/
  | pvstat (i : Bool) (g : BitVec 4) (d : BitVec 5)
  /-- LD (R98): Loads 1 to 8 bytes into a Y register at latency 6. -/
  | ld (f : LoadOp)
  /-- ST (R98): Buffers a store of 1 to 8 bytes in the phase buffer after a translation probe. -/
  | st (f : StoreOp)
  /-- LDX (R99): Loads with a scaled register index. -/
  | ldx (f : LoadX)
  /-- STX (R99): Buffers a store with a scaled register index. -/
  | stx (f : StoreX)
  /-- YADD (R100): Adds two Y registers. -/
  | yadd (f : Reg3)
  /-- YSUB (R100): Subtracts two Y registers. -/
  | ysub (f : Reg3)
  /-- YSHL (R100): Shifts a Y register left. -/
  | yshl (f : Reg3)
  /-- YSHR (R100): Shifts a Y register right logically. -/
  | yshr (f : Reg3)
  /-- YAND (R100): ANDs two Y registers. -/
  | yand (f : Reg3)
  /-- YADDI (R100): Adds an 11-bit immediate to a Y register. -/
  | yaddi (f : RegImm)
  /-- ATOM (R102): Performs an arithmetic or logic atomic at the home slice and returns the old value; seals. -/
  | atom (f : AtomArgs) (op : AtomOp)
  /-- ASWP (R102): Atomically swaps a location with an operand; seals. -/
  | aswp (f : AtomArgs)
  /-- ACAS (R102): Atomic compare-and-swap; seals. -/
  | acas (f : AtomArgs)
  /-- ALD (R102): Atomic load at the home; seals. -/
  | ald (i : Bool) (g : BitVec 4) (d a : BitVec 5) (ord : AOrd) (dbl : Bool)
  /-- AST (R102): Atomic store at the home; seals. -/
  | ast (i : Bool) (g : BitVec 4) (a b : BitVec 5) (ord : AOrd) (dbl : Bool)
  /-- PHASE (R106): Closes the region: publishes the phase buffer at its scope, frees, sends, counts, refreshes and checkpoints. -/
  | phase (g : BitVec 4) (scope : Scope)
  /-- FENCE (R108): Holds until engine operations, port messages or remote acknowledgements are joined. -/
  | fence (g : BitVec 4) (kind : FenceKind)
  /-- PREF (R109): Prefetches a line into L1, L2 or the memory-side cache. -/
  | pref (f : Reg1) (lvl : CacheLvl)
  /-- FLSH (R109): Writes back and invalidates a line's dirty sectors in L1 and L2, holding until acknowledged. -/
  | flsh (f : Reg1)
  /-- INVL (R109): Invalidates a line's clean sectors in L1 or L1 and L2. -/
  | invl (f : Reg1) (both : Bool)
  /-- YMOV (R101): Copies a Y register into an X, M, C or V destination at latency 2. -/
  | ymov (f : MovOp)
  /-- VLD (R110): Loads 64 contiguous 4-byte elements under a mask. -/
  | vld (f : VMemOp)
  /-- VST (R110): Buffers 64 contiguous 4-byte element stores under a mask. -/
  | vst (f : VMemOp)
  /-- VLDS (R110): Strided vector load. -/
  | vlds (f : VMemOp) (b : BitVec 5)
  /-- VSTS (R110): Strided vector store. -/
  | vsts (f : VMemOp) (b : BitVec 5)
  /-- VGATH (R110): Gathers elements at vector offsets. -/
  | vgath (f : VMemOp) (b : BitVec 5)
  /-- VSCAT (R110): Scatters element stores at vector offsets. -/
  | vscat (f : VMemOp) (b : BitVec 5)
  /-- MMA (R226): Forks a matrix multiply-accumulate into an accumulator tile. -/
  | mma (f : TileOp) (fmt : MmaFmt)
  /-- TZERO (R229): Forks a core operation that zeroes all 64 rows of a tile. -/
  | tzero (g a : BitVec 4)
  /-- TLOAD (R230): Forks a load of a rectangle from memory into a tile. -/
  | tload (f : TileOp)
  /-- TSTORE (R231): Forks a store of a tile rectangle into the phase buffer. -/
  | tstore (f : TileOp)
  /-- TTRP (R232): Forks a transpose of a tile rectangle. -/
  | ttrp (f : TileOp)
  /-- TADD (R232): Forks an element-wise add of one tile into another. -/
  | tadd (f : TileOp) (i32 : Bool)
  /-- TWM (R233): Lands a tile's ACC_WM value in an m register. -/
  | twm (g a b : BitVec 4)
  /-- TWAIT (R233): Holds until a tile's operations retire or its first rows are final. -/
  | twait (g a b : BitVec 4) (rows : Bool)
  /-- TFENCE (R233): Holds until every tile operation the strand forked has retired. -/
  | tfence (g : BitVec 4)
  /-- CPY_MM (R174): Forks a memory-to-memory copy on a channel; seals. -/
  | cpyMm (f : CopyOp)
  /-- CPY_MR (R174): Forks a memory-to-ring copy claiming one slot per inner step. -/
  | cpyMr (f : CopyOp)
  /-- CPY_MS (R174): Forks a memory-to-scratchpad copy. -/
  | cpyMs (f : CopyOp)
  /-- CPY_SM (R174): Forks a scratchpad-to-memory copy; seals. -/
  | cpySm (f : CopyOp)
  /-- CPYR (R175): Forks a copy-reduce applying each source word at the destination's atomic unit; seals. -/
  | cpyr (f : CopyOp) (op : RedOp)
  /-- SUBS (R177): Installs a standing subscription at a base-die controller; seals. -/
  | subs (f : CopyOp)
  /-- SUBS_CANCEL (R177): Stops further claims of a standing subscription. -/
  | subsCancel (g : BitVec 4) (ch : BitVec 3)
  /-- DRN (R178): Forks a drain popping ring slots and writing them to memory; seals. -/
  | drn (f : CopyOp)
  /-- WLOAD (R179): Forks a raw weight load into the weight buffer through the decompressor. -/
  | wload (f : CopyOp)
  /-- WLOAD_ZB32 (R180): Forks a weight load decoding a ZB32 stream. -/
  | wloadZb32 (f : CopyOp)
  /-- CWAIT (R181): Holds until a channel is idle, then refreshes the view. -/
  | cwait (g : BitVec 4) (ch : BitVec 3)
  /-- CWAIT_WM (R181): Holds until a channel watermark reaches a bound, then refreshes. -/
  | cwaitWm (g a : BitVec 4) (ch : BitVec 3)
  /-- CSTAT (R182): Lands a channel's status word in a c register. -/
  | cstat (g a : BitVec 4) (ch : BitVec 3)
  /-- CSTAT_WM (R182): Lands a channel's watermark in a c register. -/
  | cstatWm (g a : BitVec 4) (ch : BitVec 3)
  /-- CFIX_RETRY (R187): Retries the faulting row of a stopped channel. -/
  | cfixRetry (g : BitVec 4) (ch : BitVec 3)
  /-- CFIX_SKIP (R187): Skips the faulting row of a stopped channel. -/
  | cfixSkip (g : BitVec 4) (ch : BitVec 3)
  /-- CFIX_PATCH (R187): Reruns the faulting row with source bytes from a patch address. -/
  | cfixPatch (g a : BitVec 4) (ch : BitVec 3)
  /-- SLD (R190): Loads eight scale bytes from the scratchpad window into an e register. -/
  | sld (g : BitVec 4) (d a : BitVec 5) (off : BitVec 10)
  /-- SSET_B (R190): Sets all eight bytes of an e register to an immediate. -/
  | ssetB (g : BitVec 4) (d : BitVec 5) (v : Byte)
  /-- SSET_SH (R190): Shifts an e register left a byte and ORs in an immediate. -/
  | ssetSh (g : BitVec 4) (d a : BitVec 5) (v : Byte)
  /-- SMOV (R190): Copies one e register to another. -/
  | smov (g : BitVec 4) (d a : BitVec 5)
  /-- VADD (R156): Lane-wise add. -/
  | vadd (f : Vec3)
  /-- VSUB (R156): Lane-wise subtract. -/
  | vsub (f : Vec3)
  /-- VMUL (R156): Lane-wise multiply. -/
  | vmul (f : Vec3)
  /-- VFMA (R156): Lane-wise fused multiply-add into v[d]. -/
  | vfma (f : Vec3)
  /-- VMIN (R156): Lane-wise minimum. -/
  | vmin (f : Vec3)
  /-- VMAX (R156): Lane-wise maximum. -/
  | vmax (f : Vec3)
  /-- VABSD (R156): Lane-wise absolute difference. -/
  | vabsd (f : Vec3)
  /-- VDIV (R156): Lane-wise floating-point divide. -/
  | vdiv (f : Vec3)
  /-- VSQRT (R156): Lane-wise square root. -/
  | vsqrt (f : Vec2)
  /-- VEXP2 (R156): Lane-wise 2 to the power A. -/
  | vexp2 (f : Vec2)
  /-- VLOG2 (R156): Lane-wise base-2 logarithm. -/
  | vlog2 (f : Vec2)
  /-- VNEG (R156): Lane-wise negate. -/
  | vneg (f : Vec2)
  /-- VABS (R156): Lane-wise absolute value. -/
  | vabs (f : Vec2)
  /-- VSCALE (R156): Lane-wise multiply by a power of two. -/
  | vscale (f : Vec3)
  /-- VMULH (R156): Lane-wise high half of the integer product. -/
  | vmulh (f : Vec3)
  /-- VADDS (R156): Lane-wise saturating integer add. -/
  | vadds (f : Vec3)
  /-- VAND (R157): Lane-wise AND. -/
  | vand (f : Vec3)
  /-- VOR (R157): Lane-wise OR. -/
  | vor (f : Vec3)
  /-- VXOR (R157): Lane-wise XOR. -/
  | vxor (f : Vec3)
  /-- VANDN (R157): Lane-wise A AND NOT B. -/
  | vandn (f : Vec3)
  /-- VSHL (R157): Lane-wise shift left. -/
  | vshl (f : Vec3)
  /-- VSHR (R157): Lane-wise logical shift right. -/
  | vshr (f : Vec3)
  /-- VSRA (R157): Lane-wise arithmetic shift right. -/
  | vsra (f : Vec3)
  /-- VROTL (R157): Lane-wise rotate left. -/
  | vrotl (f : Vec3)
  /-- VCMP (R158): Lane-wise compare into a mask register. -/
  | vcmp (f : VCmpOp)
  /-- VPERM (R159): Permutes lanes by an index vector. -/
  | vperm (f : Vec3)
  /-- VSLIDE (R159): Slides lanes up or down by a power of two. -/
  | vslide (f : Vec2) (down : Bool) (e : BitVec 4)
  /-- VBCAST (R159): Broadcasts one lane to all lanes. -/
  | vbcast (f : Vec2) (lane : BitVec 5)
  /-- VIOTA (R159): Writes each lane's index. -/
  | viota (i : Bool) (k : BitVec 3) (d : BitVec 5) (t : LaneType)
  /-- VCMPR (R159): Compresses enabled lanes to the low lanes. -/
  | vcmpr (f : Vec2)
  /-- VEXPD (R159): Expands low lanes into enabled lanes. -/
  | vexpd (f : Vec2)
  /-- VZIP (R159): Interleaves the low halves of two vectors. -/
  | vzip (f : Vec3)
  /-- VUNZIP (R159): De-interleaves even and odd lanes. -/
  | vunzip (f : Vec2)
  /-- VCLMUL (R160): Low 64 bits of a carry-less product per lane. -/
  | vclmul (f : Vec3)
  /-- VCLMULH (R160): High 64 bits of a carry-less product per lane. -/
  | vclmulh (f : Vec3)
  /-- VPOPC (R160): Lane-wise population count. -/
  | vpopc (f : Vec2)
  /-- VCLZ (R160): Lane-wise leading zero count. -/
  | vclz (f : Vec2)
  /-- VCTZ (R160): Lane-wise trailing zero count. -/
  | vctz (f : Vec2)
  /-- VSEL (R160): Selects lanes of A or B by a mask. -/
  | vsel (f : Vec3)
  /-- VMSB (R160): Packs lane sign bits under a mask into a bitmap. -/
  | vmsb (f : Vec2)
  /-- VKTOV (R160): Expands a mask into all-ones or zero lanes. -/
  | vktov (i : Bool) (d : BitVec 5) (a : BitVec 3) (t : LaneType)
  /-- VREDADD (R161): Reduces lanes by add over the fixed tree. -/
  | vredadd (f : Vec2)
  /-- VREDMIN (R161): Reduces lanes by minimum. -/
  | vredmin (f : Vec2)
  /-- VREDMAX (R161): Reduces lanes by maximum. -/
  | vredmax (f : Vec2)
  /-- VREDAND (R161): Reduces lanes by AND. -/
  | vredand (f : Vec2)
  /-- VREDOR (R161): Reduces lanes by OR. -/
  | vredor (f : Vec2)
  /-- VREDXOR (R161): Reduces lanes by XOR. -/
  | vredxor (f : Vec2)
  /-- VSUMX (R162): Adds enabled FP32 lanes exactly into an XS32 cell. -/
  | vsumx (i : Bool) (k : BitVec 3) (d a : BitVec 5)
  /-- VSUMXC (R162): Rounds an XS32 cell to FP32. -/
  | vsumxc (i : Bool) (d a : BitVec 5)
  /-- VCVT (R163): Converts lanes between types with a rounding mode and optional saturation. -/
  | vcvt (f : CvtOp)
  /-- VRAND (R164): Computes Reel-10 outputs from counter lanes and a key. -/
  | vrand (i : Bool) (k : BitVec 3) (d a b : BitVec 5)
  /-- KAND (R165): ANDs two masks. -/
  | kand (d a b : BitVec 3) (t : LaneType)
  /-- KOR (R165): ORs two masks. -/
  | kor (d a b : BitVec 3) (t : LaneType)
  /-- KXOR (R165): XORs two masks. -/
  | kxor (d a b : BitVec 3) (t : LaneType)
  /-- KNOT (R165): Inverts a mask. -/
  | knot (d a : BitVec 3) (t : LaneType)
  /-- KMOV (R165): Copies a mask. -/
  | kmov (d a : BitVec 3) (t : LaneType)
  /-- KPOPC (R165): Counts mask bits into lane 0 and sets a predicate. -/
  | kpopc (i : Bool) (d : BitVec 5) (a : BitVec 3) (p : BitVec 4) (t : LaneType)
  /-- KFIRST (R165): Finds the lowest set mask bit and sets a predicate. -/
  | kfirst (i : Bool) (d : BitVec 5) (a : BitVec 3) (p : BitVec 4) (t : LaneType)
  /-- VMOVI (R166): Sets enabled lanes to a sign-extended 10-bit immediate. -/
  | vmovi (i : Bool) (k : BitVec 3) (d : BitVec 5) (imm : BitVec 10) (t : LaneType)
  /-- VEXT (R167): Extracts a 64-bit lane into an X, Y, M or C register. -/
  | vext (i : Bool) (a lane : BitVec 5) (dst : ExtDst)
  /-- BNOP (R37): Issues an empty bundle that advances the context cycle by one. -/
  | bnop (rstart safe : Bool)
  /-- ASYNC_TRAP_ENTRY (R64): Takes a pending asynchronous trap (capability miss, copy fault, tile error) at a bundle boundary. -/
  | asyncTrapEntry (c : Fin 4)
  /-- LOAD_REPLY (R95): Memory returns a load value, filling a latch or releasing a held context. -/
  | loadReply (tag : Nat) (r : Reply)
  /-- STORE_PROBE_REPLY (R96): The owner die answers a store's translation probe, releasing or aborting the context. -/
  | storeProbeReply (tag : Nat) (r : Reply)
  /-- ATOMIC_REPLY (R102): An atomic's old value returns to the issuing context. -/
  | atomicReply (tag : Nat) (r : Reply)
  /-- INTERRUPT (R133): An interrupt for the service context forces a switch and holds the strand contexts. -/
  | interrupt
  /-- ISSUE_QUOTA_SWITCH (R33): A context that has issued 4096 bundles while another was ready is switched away. -/
  | issueQuotaSwitch
  /-- EVICTION_REQUEST (R31): A queued strand outranks a running one by 2 or more with no free context, requesting eviction. -/
  | evictionRequest (c : Fin 4)
  /-- EVICTION_TIMEOUT (R31): After 2^16 core cycles without a region close, an unsealed region is aborted for eviction. -/
  | evictionTimeout (c : Fin 4)
  /-- STRAND_START (R34): A queued strand record starts on a free eligible context by aged priority. -/
  | strandStart (c : Fin 4)
  /-- RESUME_WRITE (R67): The service context resumes a strand context held for cause 5 or 9. -/
  | resumeWrite (v : Word)
  /-- PARTITION_WRITE (R136): Writes a context's CTX_PARTA or CTX_PARTB, ignored unless idle and non-overlapping. -/
  | partitionWrite (c : Fin 4) (second : Bool) (v : Word)
  /-- RING_CONFIG_WRITE (R140): Writes RING_CFGn, enabling or disabling a ring after its checks. -/
  | ringConfigWrite (n : Fin 32) (v : Word)
  /-- RING_SLOT_COMPLETE (R142): A producer completes a claimed slot, which becomes filled in claim order. -/
  | ringSlotComplete (n : Fin 32) (slot : Nat)
  /-- TILE_DISPATCH (R199): The dispatcher steers unsteered tile records to eligible engines in a core cycle. -/
  | tileDispatch
  /-- TILE_ROW_FINAL (R200): An engine or the core finishes a destination row, raising the tile watermark. -/
  | tileRowFinal (op : Nat)
  /-- TILE_OP_RETIRE (R223): A tile operation retires, lowering INFL of its tiles. -/
  | tileOpRetire (op : Nat)
  /-- COPY_ROW_COMPLETE (R170): A channel row completes at its destination and the watermark advances over the prefix. -/
  | copyRowComplete (c : Fin 4) (ch : Fin 8) (row : Nat)
  /-- COPY_FAULT (R185): A channel row faults and the channel stops at it. -/
  | copyFault (c : Fin 4) (ch : Fin 8) (row kind : Nat) (addr : Word) (off : Nat)
  /-- SUBSCRIPTION_CLAIM (R177): A base-die controller claims and fills a ring slot for a standing subscription. -/
  | subscriptionClaim (c : Fin 4) (ch : Fin 8)
  /-- DRAIN_SLOT_POP (R178): A drain pops a filled slot and writes its rows, freeing it when complete. -/
  | drainSlotPop (c : Fin 4) (ch : Fin 8)
  /-- DECOMPRESSOR_GRANT (R212): The decompressor grants 256 bytes of output to a pending WLOAD in round robin. -/
  | decompressorGrant (c : Fin 4) (ch : Fin 8)
  /-- ICACHE_FILL (R213): An instruction fill delivers a line to every joined core. -/
  | icacheFill (line : Nat)
  /-- CACHE_WRITEBACK (R147): A dirty L1 or L2 sector is written back toward its home on eviction. -/
  | cacheWriteback (l2 : Bool) (asid : BitVec 13) (addr : Nat)
  /-- STORE_SECTOR (R272): A published sector arrives at its home and is performed. -/
  | storeSector (p : StoreMsg)
  /-- REMOTE_ACK (R272): A cumulative acknowledgement of a stream's sectors or a channel's rows arrives. -/
  | remoteAck (die : BitVec 12) (rows : Bool) (count serial : Nat)
  /-- ACK_TIMEOUT (R272): After 4096 die cycles without a new sector, the destination sends an acknowledgement. -/
  | ackTimeout (src : UnitId)
  /-- ATOMIC_PERFORM (R262): An atomic or CPYR update reaches the home atomic unit and is performed. -/
  | atomicPerform (p : AtomicMsg)
  /-- REMOTE_READ_REQUEST (R355): A read request packet arrives at the owner die. -/
  | remoteReadRequest (p : ReadMsg)
  /-- REMOTE_READ_REPLY (R355): A read reply packet returns data or a fault. -/
  | remoteReadReply (tag : Nat) (r : Reply)
  /-- COPY_ROW_SEGMENT (R355): A copy row segment packet arrives and is written or reduced at its home. -/
  | copyRowSegment (p : CopyMsg)
  /-- HBM_ECC_ERROR (R263): An ECC error is found on an HBM, cache or carve-out sector and is corrected or poisons the sector. -/
  | hbmEccError (pa : Nat) (fixed : Bool)
  /-- CORE_STORAGE_ERROR (R150): A core storage error is corrected or reported and counted in CORE_ERR. -/
  | coreStorageError (place : CorePlace) (idx : Nat) (fixed : Bool)
  /-- TLB_INVALIDATE (R248): DM_TLBINV starts invalidation of a range of memory-side TLB entries. -/
  | tlbInvalidate (v : Word)
  /-- TLB_INVALIDATE_DONE (R248): The invalidation completes once every access using removed entries is performed. -/
  | tlbInvalidateDone
  /-- ASID_SWEEP (R247): DM_SWEEP starts a sweep recycling an ASID. -/
  | asidSweep (v : Word)
  /-- ASID_SWEEP_DONE (R247): A sweep completes after every write-back is acknowledged; the entry becomes free. -/
  | asidSweepDone
  /-- CARVE_RESIZE (R251): DM_CARVE starts changing the carve-out way count. -/
  | carveResize (v : Word)
  /-- CARVE_RESIZE_DONE (R251): A carve-out change completes and BUSY clears. -/
  | carveResizeDone
  /-- FRAME_FREE (R259): DM_FRAME FREE marks a frame pending and queues its scrub. -/
  | frameFree (v : Word)
  /-- FRAME_QUERY (R259): DM_FRAME QUERY returns a frame's PEND and RET bits. -/
  | frameQuery (v : Word)
  /-- FRAME_SCRUB_DONE (R259): The scrubber tags a frame's sectors zero and clears PEND. -/
  | frameScrubDone (frame : BitVec 21)
  /-- KEY_GENERATE (R261): DM_KEY GENERATE makes an empty key slot live for a virtual function. -/
  | keyGenerate (v : Word)
  /-- KEY_DESTROY (R261): DM_KEY DESTROY starts sweeping a key slot. -/
  | keyDestroy (v : Word)
  /-- KEY_DESTROY_DONE (R261): A key destroy completes, dropping tagged sectors and emptying the slot. -/
  | keyDestroyDone
  /-- MAP_ARM (R254): DM_MAPCMD ARM checks a staging matrix and starts installing a region. -/
  | mapArm (v : Word)
  /-- MAP_WITHDRAW (R254): DM_MAPCMD WITHDRAW starts draining and withdrawing a region. -/
  | mapWithdraw (v : Word)
  /-- MAP_COMMAND_DONE (R254): An ARM or WITHDRAW completes after the region's drain and write-back. -/
  | mapCommandDone
  /-- MAP_READ (R254): DM_MAPCMD READ copies a region's installed matrix to the staging registers. -/
  | mapRead (v : Word)
  /-- LAUNCH_QUEUE_CONFIG (R288): Writes LQ_A to enable, configure or stop a launch queue. -/
  | launchQueueConfig (q : BitVec 9) (v : Word)
  /-- QUEUE_AREA_CONFIG (R291): Writes DL_QAREA while no queue is enabled. -/
  | queueAreaConfig (v : Word)
  /-- QUEUE_RING_SWAP (R291): The sequencer moves a queue ring between the carve-out area and its backing. -/
  | queueRingSwap (q : BitVec 9) (out : Bool)
  /-- LAUNCH_WINDOW_WRITE (R288): A host write through the launch window is routed to the queue ring. -/
  | launchWindowWrite (vf : BitVec 6) (off : Nat) (v : Word)
  /-- DOORBELL (R290): A doorbell sets a queue's tail or freezes it on an overrun. -/
  | doorbell (vf : BitVec 6) (q : BitVec 9) (v : Word)
  /-- DOORBELL_RESET (R290): A RESET doorbell unfreezes a drained queue at a new sequence number. -/
  | doorbellReset (vf : BitVec 6) (q : BitVec 9) (v : Word)
  /-- LAUNCH_TAKE (R289): The sequencer takes a launch record from a queue into the pool. -/
  | launchTake
  /-- LAUNCH_START (R294): A ready launch starts by aged priority and creates its sub-launches. -/
  | launchStart
  /-- SUBLAUNCH_CREATE (R294): A die receives a sub-launch, binds logical cores and queues its strands. -/
  | sublaunchCreate (p : SubMsg)
  /-- SUBLAUNCH_ENDED (R294): The home receives the end of a sub-launch with its status and fault count. -/
  | sublaunchEnded (id : Word) (d status faults : Nat)
  /-- LAUNCH_COMPLETE (R14): A launch completes and writes its completion word. -/
  | launchComplete (id : Word)
  /-- LAUNCH_RETIRE (R293): A complete launch retires once every earlier record of its queue has retired. -/
  | launchRetire (q : BitVec 9)
  /-- FAULT_ENTRY (R299): A fault queue entry arrives at the owner die's fault service. -/
  | faultEntry (e : FaultWords)
  /-- FAULT_RESUME (R299): DL_FRES resume queues the faulted record or reruns the row. -/
  | faultResume (n : BitVec 12)
  /-- FAULT_FAIL (R299): DL_FRES fail ends the strand or stops the row with a fault. -/
  | faultFail (n : BitVec 12)
  /-- SHOOT_DOWN (R300): DL_SHOOT starts a shoot-down of a range across the group's caches. -/
  | shootDown (v : Word)
  /-- SHOOT_DOWN_RANGE (R300): A die receives a shoot-down range and writes back and invalidates its caches. -/
  | shootDownRange (v : Word)
  /-- SHOOT_DOWN_ACK (R300): A cache controller acknowledgement arrives; the last sets DONE. -/
  | shootDownAck
  /-- FUNCTION_LEVEL_RESET (R303): DL_VFA.FLR or a PCIe FLR starts resetting a tenant on every die. -/
  | functionLevelReset (vf : BitVec 6)
  /-- FLR_COMPLETE (R303): A tenant reset completes after its jobs drain, logging KIND 4 and raising vector 2. -/
  | flrComplete (vf : BitVec 6)
  /-- MSI_SIGNAL (R306): A service-context write to PK_MSI raises a virtual function's MSI-X vector. -/
  | msiSignal (v : Word)
  /-- ATTEST_REQUEST (R318): A write to an attestation register builds and writes a signed report. -/
  | attestRequest (fn : Option (BitVec 6)) (v : Word)
  /-- PACKAGE_RESET (R309): Package reset starts Lantern's boot through its stages. -/
  | packageReset (r : BootReport)
  /-- DEVICE_RESET (R54): Device reset sets registers to their reset values. -/
  | deviceReset
  /-- MACHINE_CHECK (R314): A machine check halts the package and writes the dump. -/
  | machineCheck (cause : Byte) (unitId : BitVec 32)
  /-- THERMAL_THROTTLE (R319): Power or temperature beyond its limit changes the core clock by a step. -/
  | thermalThrottle (lower : Bool)
  /-- MARGIN_ROUND (R310): The margin period expires and Lantern starts a test round. -/
  | marginRound
  /-- ENGINE_MARGIN_TEST (R202): Lantern tests one engine at a narrowed margin and computes its new bitmap. -/
  | engineMarginTest (e : Fin 16) (pass : BitVec 5)
  /-- BITMAP_INSTALL (R202): A new engine bitmap is installed at a dispatch boundary once no Mirror service runs. -/
  | bitmapInstall
  /-- BANK_MARGIN_TEST (R310): Lantern tests a scratchpad bank and schedules its demotion on failure. -/
  | bankMarginTest (b : Fin 24) (pass : Bool)
  /-- BANK_DEMOTION_APPLY (R138): A pending bank demotion takes effect once no ring or window overlaps it. -/
  | bankDemotionApply (b : Fin 24)
  /-- CHANNEL_MARGIN_TEST (R310): Lantern tests an HBM channel and derates it or makes it retire pending. -/
  | channelMarginTest (ch : BitVec 6) (pass : Bool)
  /-- CHANNEL_RETIRE (R256): A retire-pending channel no region maps becomes retired. -/
  | channelRetire (ch : BitVec 6)
  /-- PRISM_TRANSLATE (R214): Prism translates a queued portable kernel and swaps the loop record's KERNEL word. -/
  | prismTranslate (lrec : Nat) (code : NativeCode)
  /-- PAVANE_TABLE_LOAD (R323): A PV_HEAD write loads and checks the schedule table. -/
  | pavaneTableLoad (v : Word)
  /-- PAVANE_DISABLE (R321): A PV_BASE write clearing EN stops the Pavane unit. -/
  | pavaneDisable (v : Word)
  /-- PAVANE_HEAD_EVAL (R325): Each core cycle the unit evaluates the head entry and starts its task or records why it waits. -/
  | pavaneHeadEval
  /-- PAVANE_OUTPUT (R328): A Pavane output segment arrives and is written into a claimed slot of the peer ring. -/
  | pavaneOutput (p : PvMsg)
  /-- PAVANE_CREDIT (R329): A Pavane credit arrives and raises DNC or UPC. -/
  | pavaneCredit (up : Bool)
  /-- PORT_BIND_WRITE (R340): Writes PORT_BINDn, accepted only for an idle context with an empty port. -/
  | portBindWrite (c : Fin 4) (n : Fin 16) (v : Word)
  /-- PORT_MESSAGE_ARRIVE (R343): A port message arrives in the peer's arrival queue, or is dropped and credited back. -/
  | portMessageArrive (p : PortMsg)
  /-- PORT_CREDIT (R343): Port credit arrives, raising CRED and letting waiting messages go. -/
  | portCredit (c : Fin 4) (n : Fin 16) (words : Nat)
  /-- GROUP_LOAD (R344): FI_GROUP with GO loads a group table, ending any wave in progress. -/
  | groupLoad (v : Word)
  /-- DARK_SET (R351): Setting DARK starts the dark interval, holding credits and cross-package messages. -/
  | darkSet
  /-- DARK_CLEAR (R352): Clearing DARK tests bindings, sending held messages or marking peers departed. -/
  | darkClear
  /-- JOB_COUNTER_CLEAR (R339): FI_JCLR zeroes a job's counters and activity bit on the die. -/
  | jobCounterClear (job : BitVec 12)
  /-- QUIET_WAVE_START (R349): The leader starts a job's quiet wave when its interval expires or a QWAIT waits. -/
  | quietWaveStart (job : BitVec 12)
  /-- QUIET_WAVE_VISIT (R349): A wave flit visits a die, adding its counters and reading or clearing ACT. -/
  | quietWaveVisit (p : WaveMsg)
  /-- QUIET_DECLARATION (R349): A wave's declaration with quiet and JFLAGS reaches a die. -/
  | quietDeclaration (p : DeclMsg)
  /-- JSET_ARRIVE (R360): A JSET packet reaches the leader's die 0 and is ORed into JFLAGS. -/
  | jsetArrive (job : BitVec 12) (bits : Word)
  /-- MARKER_ARRIVE (R359): A job marker flit arrives and its link's marker count rises. -/
  | markerArrive (job : BitVec 12) (link : Fin 16)
  /-- LINK_FLIT_RECEIVE (R356): A flit arrives, is delivered in order or dropped, with acknowledgement processing. -/
  | linkFlitReceive (link : Fin 16) (flit : BitVec 576)
  /-- REPLAY_REQUEST (R356): A replay request makes the sender resend from the named flit. -/
  | replayRequest (link : Fin 16) (seq : BitVec 14)
  /-- WAVELENGTH_DEAD (R357): 64 dark photodiode samples mark a wavelength dead; the fibre restripes and replays. -/
  | wavelengthDead (link : Fin 16) (fibre : Fin 4) (wave : Fin 16)
  /-- LINK_RELOCK (R362): Returning light or the Quadrille starts a relock of a link. -/
  | linkRelock (link : Fin 16)
  /-- RELOCK_DONE (R362): A relock completes, marking locked wavelengths live and resetting sequence spaces. -/
  | relockDone (link : Fin 16) (locked : BitVec 64)
  /-- REGISTER_WRITE (R242): A write to a register that has no behaviour of its own sets its writable fields. -/
  | registerWrite (by_ : Writer) (num : Nat) (v : Word)
  /-- ILLEGAL_INSTRUCTION (R51): Issue of a word whose op, function, field or register value R50 does not assign raises the precise illegal-instruction trap. -/
  | illegalInstruction (slot sub : Nat) (word : Word32)
  /-- ILLEGAL_BUNDLE (R38): Native execution reaching a framing error (reserved header bit, misplaced slot word, non-header where a bundle begins) raises the illegal-bundle trap. -/
  | illegalBundle (slot sub : Nat) (word : Word32)
  /-- FETCH_BOUND_TRAP (R37): A bundle with any word outside ARENA_BASE and ARENA_BOUND raises the fetch-bound trap without decoding any word. -/
  | fetchBoundTrap (sub : Nat) (word : Word32) (addr : Word)
  /-- NO_ROUTE_REACHES_MEMBER (R357): A member that no route reaches any longer, such as one halted by a machine check, is treated as departed. -/
  | noRouteReachesMember (fid : BitVec 16)
  /-- ACKNOWLEDGEMENT_REQUEST (R272): An acknowledgement request from RFLUSH, RWAIT, FENCE ALL or DONE arrives at the destination die, which returns a cumulative acknowledgement at once. -/
  | acknowledgementRequest (src : UnitId)
  deriving DecidableEq, Repr

/-- The event rows alone: what stands in the agenda of the state (log 5). Each constructor has the name and the data of its
row of `Instr`; `bootNext` carries PACKAGE_RESET on through the stages of boot (R309), and `elsewhere` is what the rows of installations, demotions
and channel states do to units of other clusters, cores and dies (R311). (Lean's compiled code has no room for as many constructors as `Instr` has, so the agenda cannot hold `Instr`.) -/
inductive Event where
  | asyncTrapEntry (c : Fin 4)
  | loadReply (tag : Nat) (r : Reply)
  | storeProbeReply (tag : Nat) (r : Reply)
  | atomicReply (tag : Nat) (r : Reply)
  | interrupt
  | issueQuotaSwitch
  | evictionRequest (c : Fin 4)
  | evictionTimeout (c : Fin 4)
  | strandStart (c : Fin 4)
  | resumeWrite (v : Word)
  | partitionWrite (c : Fin 4) (second : Bool) (v : Word)
  | ringConfigWrite (n : Fin 32) (v : Word)
  | ringSlotComplete (n : Fin 32) (slot : Nat)
  | tileDispatch
  | tileRowFinal (op : Nat)
  | tileOpRetire (op : Nat)
  | copyRowComplete (c : Fin 4) (ch : Fin 8) (row : Nat)
  | copyFault (c : Fin 4) (ch : Fin 8) (row kind : Nat) (addr : Word) (off : Nat)
  | subscriptionClaim (c : Fin 4) (ch : Fin 8)
  | drainSlotPop (c : Fin 4) (ch : Fin 8)
  | decompressorGrant (c : Fin 4) (ch : Fin 8)
  | icacheFill (line : Nat)
  | cacheWriteback (l2 : Bool) (asid : BitVec 13) (addr : Nat)
  | storeSector (p : StoreMsg)
  | remoteAck (die : BitVec 12) (rows : Bool) (count serial : Nat)
  | ackTimeout (src : UnitId)
  | atomicPerform (p : AtomicMsg)
  | remoteReadRequest (p : ReadMsg)
  | remoteReadReply (tag : Nat) (r : Reply)
  | copyRowSegment (p : CopyMsg)
  | hbmEccError (pa : Nat) (fixed : Bool)
  | coreStorageError (place : CorePlace) (idx : Nat) (fixed : Bool)
  | tlbInvalidate (v : Word)
  | tlbInvalidateDone
  | asidSweep (v : Word)
  | asidSweepDone
  | carveResize (v : Word)
  | carveResizeDone
  | frameFree (v : Word)
  | frameQuery (v : Word)
  | frameScrubDone (frame : BitVec 21)
  | keyGenerate (v : Word)
  | keyDestroy (v : Word)
  | keyDestroyDone
  | mapArm (v : Word)
  | mapWithdraw (v : Word)
  | mapCommandDone
  | mapRead (v : Word)
  | launchQueueConfig (q : BitVec 9) (v : Word)
  | queueAreaConfig (v : Word)
  | queueRingSwap (q : BitVec 9) (out : Bool)
  | launchWindowWrite (vf : BitVec 6) (off : Nat) (v : Word)
  | doorbell (vf : BitVec 6) (q : BitVec 9) (v : Word)
  | doorbellReset (vf : BitVec 6) (q : BitVec 9) (v : Word)
  | launchTake
  | launchStart
  | sublaunchCreate (p : SubMsg)
  | sublaunchEnded (id : Word) (d status faults : Nat)
  | launchComplete (id : Word)
  | launchRetire (q : BitVec 9)
  | faultEntry (e : FaultWords)
  | faultResume (n : BitVec 12)
  | faultFail (n : BitVec 12)
  | shootDown (v : Word)
  | shootDownRange (v : Word)
  | shootDownAck
  | functionLevelReset (vf : BitVec 6)
  | flrComplete (vf : BitVec 6)
  | msiSignal (v : Word)
  | attestRequest (fn : Option (BitVec 6)) (v : Word)
  | packageReset (r : BootReport)
  | bootNext
  | elsewhere (u : UnitStep)
  | deviceReset
  | machineCheck (cause : Byte) (unitId : BitVec 32)
  | thermalThrottle (lower : Bool)
  | marginRound
  | engineMarginTest (e : Fin 16) (pass : BitVec 5)
  | bitmapInstall
  | bankMarginTest (b : Fin 24) (pass : Bool)
  | bankDemotionApply (b : Fin 24)
  | channelMarginTest (ch : BitVec 6) (pass : Bool)
  | channelRetire (ch : BitVec 6)
  | prismTranslate (lrec : Nat) (code : NativeCode)
  | pavaneTableLoad (v : Word)
  | pavaneDisable (v : Word)
  | pavaneHeadEval
  | pavaneOutput (p : PvMsg)
  | pavaneCredit (up : Bool)
  | portBindWrite (c : Fin 4) (n : Fin 16) (v : Word)
  | portMessageArrive (p : PortMsg)
  | portCredit (c : Fin 4) (n : Fin 16) (words : Nat)
  | groupLoad (v : Word)
  | darkSet
  | darkClear
  | jobCounterClear (job : BitVec 12)
  | quietWaveStart (job : BitVec 12)
  | quietWaveVisit (p : WaveMsg)
  | quietDeclaration (p : DeclMsg)
  | jsetArrive (job : BitVec 12) (bits : Word)
  | markerArrive (job : BitVec 12) (link : Fin 16)
  | linkFlitReceive (link : Fin 16) (flit : BitVec 576)
  | replayRequest (link : Fin 16) (seq : BitVec 14)
  | wavelengthDead (link : Fin 16) (fibre : Fin 4) (wave : Fin 16)
  | linkRelock (link : Fin 16)
  | relockDone (link : Fin 16) (locked : BitVec 64)
  | registerWrite (by_ : Writer) (num : Nat) (v : Word)
  | illegalInstruction (slot sub : Nat) (word : Word32)
  | illegalBundle (slot sub : Nat) (word : Word32)
  | fetchBoundTrap (sub : Nat) (word : Word32) (addr : Word)
  | noRouteReachesMember (fid : BitVec 16)
  | acknowledgementRequest (src : UnitId)
  deriving DecidableEq, Repr

end Sys2Proof
end

