-- ==== Sys2Proof/WellFormed.lean ====
section
/-! DEFINITION. Which terms of `Instr` the part has an encoding for (R44, R50, R153, R154 and each entry's own limits), and
for an event which data the event can carry. -/

namespace Sys2Proof

/-- The number of a lane type in R48. -/
def LaneType.code : LaneType → Nat
  | .b8 => 0 | .i8 => 1 | .n8 => 2 | .i16 => 3 | .n16 => 4 | .i32 => 5 | .n32 => 6 | .i64 => 7 | .n64 => 8
  | .f16 => 9 | .bf16 => 10 | .f32 => 11 | .e4m3 => 12 | .e5m2 => 13 | .e2m1 => 14 | .e8m0 => 15

/-- Types 1 to 11: integers and the three arithmetic float types (R153). -/
def LaneType.arith (t : LaneType) : Bool := decide (1 ≤ t.code ∧ t.code ≤ 11)
/-- Types 9 to 11. -/
def LaneType.float3 (t : LaneType) : Bool := decide (9 ≤ t.code ∧ t.code ≤ 11)
/-- Types 0 to 8: untyped bytes and integers. -/
def LaneType.bitwise (t : LaneType) : Bool := decide (t.code ≤ 8)
/-- Types 1 to 8: integers. -/
def LaneType.integer (t : LaneType) : Bool := decide (1 ≤ t.code ∧ t.code ≤ 8)
/-- Every type but e2m1, whose lanes VPRM does not move (R153). -/
def LaneType.movable (t : LaneType) : Bool := decide (t ≠ .e2m1)
/-- Types of VNEG and VABS (R153): signed integers and float types 9 to 11. -/
def LaneType.signedOrFloat (t : LaneType) : Bool :=
  match t with
  | .i8 | .i16 | .i32 | .i64 | .f16 | .bf16 | .f32 => true
  | .b8 | .n8 | .n16 | .n32 | .n64 | .e4m3 | .e5m2 | .e2m1 | .e8m0 => false

/-- The system-register numbers that the chapters assign (R75, R62, R76, R131, R195, R305, R306, R321, R339). -/
def sysAssigned (n : Nat) : Bool :=
  decide ((0x010 ≤ n ∧ n ≤ 0x016) ∨ (0x018 ≤ n ∧ n ≤ 0x01D) ∨ (0x020 ≤ n ∧ n ≤ 0x029) ∨ (0x100 ≤ n ∧ n ≤ 0x104) ∨
    (0x108 ≤ n ∧ n ≤ 0x117) ∨ (0x150 ≤ n ∧ n ≤ 0x1DF) ∨ (0x200 ≤ n ∧ n ≤ 0x214) ∨ n = 0x216 ∨ n = 0x218 ∨
    (0x220 ≤ n ∧ n ≤ 0x223) ∨ (0x260 ≤ n ∧ n ≤ 0x27F) ∨ (0x300 ≤ n ∧ n ≤ 0x303) ∨ (0x400 ≤ n ∧ n ≤ 0x40B) ∨
    (0x480 ≤ n ∧ n ≤ 0x48D) ∨ (0x500 ≤ n ∧ n ≤ 0x510) ∨ (0x520 ≤ n ∧ n ≤ 0x524))

/-- An extended field stays within 64 bits (R43, R81). -/
def FieldOp.fits (f : FieldOp) : Bool := decide (f.pos.toNat + f.len.toNat + 1 ≤ 64)

/-- The encoding and event limits, constructor by constructor. -/
def Instr.wellFormed : Instr → Bool
  | .nop _ | .brk _ _ | .trap _ _ | .svc _ _ | .hcall _ _ | .eret _ | .yield _ | .susp _ | .done _ | .add _
  | .sub _ | .and _ | .or _ | .xor _ | .andn _ | .orn _ | .shl _ | .shr _ | .sra _ | .rotl _ | .min _ | .max _
  | .minn _ | .maxn _ | .absd _ | .mul _ | .mulh _ | .mulhn _ | .div _ | .divn _ | .rem _ | .remn _ | .clz _
  | .ctz _ | .popc _ | .brev _ | .bswap _ | .sextb _ | .sexth _ | .sextw _ | .zextw _ | .addi _ | .andi _ | .ori _
  | .xori _ | .shli _ | .shri _ | .srai _ | .rotli _ | .movi _ | .movsh _ | .cmp _ | .cmpi _ | .pand _ | .por _
  | .pxor _ | .pandn _ | .pnot _ | .pmov _ | .sel _ | .br _ _ | .call _ _ | .jmpr _ | .callr _ | .ret _
  | .xmov _ | .setib _ | .hset _ | .gset _ | .qwait _ | .jset _ | .rflush _ | .rwait _ | .qmark _
  | .qstat _ | .grpq _ | .lstat _ | .pvpost _ | .pvstash _ | .pvtake _ | .pvbub _ _ _ _ | .pvstat _ _ _ | .st _
  | .stx _ | .yadd _ | .ysub _ | .yshl _ | .yshr _ | .yand _ | .yaddi _ | .atom _ _ | .aswp _ | .acas _
  | .phase _ _ | .fence _ _ | .pref _ _ | .flsh _ | .invl _ _ | .ymov _ | .vld _ | .vst _ | .vlds _ _ | .vsts _ _
  | .vgath _ _ | .vscat _ _ | .mma _ _ | .tzero _ _ | .tload _ | .tstore _ | .ttrp _ | .tadd _ _ | .twm _ _ _
  | .tfence _ | .cpyMm _ | .cpyMr _ | .cpyMs _ | .cpySm _ | .cpyr _ _ | .subs _ | .subsCancel _ _ | .drn _
  | .wload _ | .wloadZb32 _ | .cwait _ _ | .cwaitWm _ _ _ | .cstat _ _ _ | .cstatWm _ _ _ | .cfixRetry _ _
  | .cfixSkip _ _ | .cfixPatch _ _ _ | .sld _ _ _ _ | .ssetB _ _ _ | .ssetSh _ _ _ _ | .smov _ _ _ | .vand _
  | .vor _ | .vxor _ | .vandn _ | .vsel _ | .vmsb _ | .vktov _ _ _ _ | .vsumx _ _ _ _ | .vsumxc _ _ _
  | .vrand _ _ _ _ _ | .kand _ _ _ _ | .kor _ _ _ _ | .kxor _ _ _ _ | .knot _ _ _ | .kmov _ _ _ | .kpopc _ _ _ _ _
  | .kfirst _ _ _ _ _ | .vext _ _ _ _ | .bnop _ _ | .asyncTrapEntry _ | .loadReply _ _ | .storeProbeReply _ _
  | .atomicReply _ _ | .interrupt | .issueQuotaSwitch | .evictionRequest _ | .evictionTimeout _ | .strandStart _
  | .resumeWrite _ | .partitionWrite _ _ _ | .ringConfigWrite _ _ | .ringSlotComplete _ _ | .tileDispatch
  | .tileRowFinal _ | .tileOpRetire _ | .copyRowComplete _ _ _ | .copyFault _ _ _ _ _ _ | .subscriptionClaim _ _
  | .drainSlotPop _ _ | .decompressorGrant _ _ | .icacheFill _ | .cacheWriteback _ _ _ | .storeSector _
  | .remoteAck _ _ _ _ | .ackTimeout _ | .atomicPerform _ | .remoteReadReply _ _ | .hbmEccError _ _
  | .coreStorageError _ _ _ | .tlbInvalidate _ | .tlbInvalidateDone | .asidSweep _ | .asidSweepDone
  | .carveResize _ | .carveResizeDone | .frameFree _ | .frameQuery _ | .frameScrubDone _ | .keyGenerate _
  | .keyDestroy _ | .keyDestroyDone | .mapArm _ | .mapWithdraw _ | .mapCommandDone | .mapRead _
  | .launchQueueConfig _ _ | .queueAreaConfig _ | .queueRingSwap _ _ | .launchWindowWrite _ _ _ | .doorbell _ _ _
  | .doorbellReset _ _ _ | .launchTake | .launchStart | .sublaunchEnded _ _ _ _ | .launchComplete _
  | .launchRetire _ | .faultEntry _ | .faultResume _ | .faultFail _ | .shootDown _ | .shootDownRange _
  | .shootDownAck | .functionLevelReset _ | .flrComplete _ | .msiSignal _ | .attestRequest _ _ | .packageReset _
  | .deviceReset | .machineCheck _ _ | .thermalThrottle _ | .marginRound | .engineMarginTest _ _ | .bitmapInstall
  | .bankMarginTest _ _ | .bankDemotionApply _ | .channelMarginTest _ _ | .channelRetire _ | .prismTranslate _ _
  | .pavaneTableLoad _ | .pavaneDisable _ | .pavaneHeadEval | .pavaneCredit _ | .portBindWrite _ _ _
  | .groupLoad _ | .darkSet | .darkClear | .jobCounterClear _ | .quietWaveStart _ | .quietWaveVisit _
  | .quietDeclaration _ | .jsetArrive _ _ | .markerArrive _ _ | .linkFlitReceive _ _ | .replayRequest _ _
  | .wavelengthDead _ _ _ | .linkRelock _ | .relockDone _ _ | .registerWrite _ _ _ | .illegalInstruction _ _ _
  | .illegalBundle _ _ _ | .fetchBoundTrap _ _ _ | .noRouteReachesMember _ | .acknowledgementRequest _ => true
  | .loop _ _ disp => disp != 0
  | .mfs f | .mts f => sysAssigned f.n.toNat
  | .extr f | .extrs f | .insr f => f.fits
  | .ld f | .ldx f => !(f.sx && f.sz == 3)
  | .ald _ _ _ _ ord _ => ord == .plain || ord == .acq
  | .ast _ _ _ _ ord _ => ord == .plain || ord == .rel
  | .twait _ _ b rows => rows || b == 0
  | .vadd f | .vsub f | .vmul f | .vfma f | .vmin f | .vmax f | .vabsd f | .vredadd f | .vredmin f | .vredmax f => f.t.arith
  | .vdiv f | .vsqrt f | .vexp2 f | .vlog2 f | .vscale f => f.t.float3
  | .vneg f | .vabs f => f.t.signedOrFloat
  | .vmulh f | .vadds f => f.t.integer
  | .vshl f | .vshr f | .vsra f | .vrotl f | .vpopc f | .vclz f | .vctz f | .vredand f | .vredor f | .vredxor f => f.t.bitwise
  | .vcmp f => if f.cc == .unord then f.t.float3 else decide (f.t.code ≤ 11)
  | .vperm f | .vcmpr f | .vexpd f | .vzip f | .vunzip f => f.t.movable
  | .vslide f _ e => f.t.movable && decide (e.toNat ≤ 9)
  | .vbcast f _ => f.t.movable
  | .viota _ _ _ t => t.bitwise
  | .vclmul f | .vclmulh f => f.t == .i64 || f.t == .n64
  | .vcvt f => f.src != .b8 && f.dst != .b8
  | .vmovi _ _ _ _ t => t.bitwise
  | .remoteReadRequest p => decide (p.len ≤ 992)
  | .copyRowSegment p | .pavaneOutput p => decide (1 ≤ p.bytes.length ∧ p.bytes.length ≤ 992)
  | .sublaunchCreate p => decide (p.record.length = 16)
  | .portMessageArrive p => decide (1 ≤ p.words.length ∧ p.words.length ≤ 64)
  | .portCredit _ _ words => decide (words ≤ 64)

end Sys2Proof
end

