-- ==== Sys2Proof/Decode.lean ====
section
/-! DEFINITION. Decoding (R35, R43, R44, R50) of an instruction word and of a bundle header, total on every word, and
after it the encoder. A refused word names the SUB value that R394 and the rules it lists give its trap. -/

namespace Sys2Proof

/-- Why a word is refused: a header where an instruction word stands, a reserved op, or a field, function or value that
R50 does not assign; `sub` is the SUB of the trap (R74, R75, R105, R228, R361, R394). -/
inductive DecodeError
  | header | reserved (op : Nat) | illegal (sub : Nat)
  deriving DecidableEq, Repr

/-- The SUB of a refused word (R394): the op field where no rule names another value. -/
def DecodeError.sub : DecodeError → Nat
  | .header => 0x3F
  | .reserved op => op
  | .illegal s => s

/-- `bits(x, hi, lo)` of R53. -/
def bits (x hi lo : Nat) : Nat := x / 2 ^ lo % 2 ^ (hi + 1 - lo)

/-- The op field (R35). -/
def opOf (w : Nat) : Nat := w / 2 ^ 26 % 64

/-! ### Fields of the formats (R43) -/

def iOf (w : Nat) : Bool := w / 2 ^ 25 % 2 == 1
def gA (w : Nat) : BitVec 4 := BitVec.ofNat 4 (w / 2 ^ 21)
def dA (w : Nat) : BitVec 5 := BitVec.ofNat 5 (w / 2 ^ 16)
def aA (w : Nat) : BitVec 5 := BitVec.ofNat 5 (w / 2 ^ 11)
def bA (w : Nat) : BitVec 5 := BitVec.ofNat 5 (w / 2 ^ 6)
def fA (w : Nat) : Nat := w % 64
def gJ (w : Nat) : BitVec 4 := BitVec.ofNat 4 (w / 2 ^ 22)
def aE (w : Nat) : BitVec 4 := BitVec.ofNat 4 (w / 2 ^ 18)
def bE (w : Nat) : BitVec 4 := BitVec.ofNat 4 (w / 2 ^ 14)
def hE (w : Nat) : BitVec 2 := BitVec.ofNat 2 (w / 2 ^ 12)
def sE (w : Nat) : Bool := w / 2 ^ 11 % 2 == 1
def fmtE (w : Nat) : Nat := w / 2 ^ 7 % 16
def patC (w : Nat) : BitVec 3 := BitVec.ofNat 3 (w / 2 ^ 11)
def chC (w : Nat) : BitVec 3 := BitVec.ofNat 3 (w / 2 ^ 8)
def kV (w : Nat) : BitVec 3 := BitVec.ofNat 3 (w / 2 ^ 22)
def dV (w : Nat) : BitVec 5 := BitVec.ofNat 5 (w / 2 ^ 17)
def aV (w : Nat) : BitVec 5 := BitVec.ofNat 5 (w / 2 ^ 12)
def bV (w : Nat) : BitVec 5 := BitVec.ofNat 5 (w / 2 ^ 7)
def tV (w : Nat) : Nat := w / 2 ^ 3 % 16
def fV (w : Nat) : Nat := w % 8

def reg3 (w : Nat) : Reg3 := ⟨iOf w, gA w, dA w, aA w, bA w⟩
def reg2 (w : Nat) : Reg2 := ⟨iOf w, gA w, dA w, aA w⟩
def reg1 (w : Nat) : Reg1 := ⟨iOf w, gA w, aA w⟩
def regImm (w : Nat) : RegImm := ⟨iOf w, gA w, dA w, aA w, BitVec.ofNat 11 w⟩
def shiftImm (w : Nat) : ShiftImm := ⟨iOf w, gA w, dA w, aA w, BitVec.ofNat 6 w⟩
def const16 (w : Nat) : Const16 := ⟨iOf w, gA w, dA w, BitVec.ofNat 16 w⟩
def fieldOp (w : Nat) : FieldOp := ⟨iOf w, gA w, dA w, aA w, BitVec.ofNat 6 (w / 2 ^ 5), BitVec.ofNat 5 w⟩
def tileOp (w : Nat) : TileOp := ⟨gJ w, aE w, bE w, hE w, sE w⟩
def copyOp (w : Nat) : CopyOp := ⟨gJ w, aE w, bE w, patC w, chC w⟩
/-- The lane type of a code (R48). -/
def LaneType.ofCode : Nat → Option LaneType
  | 0 => some .b8 | 1 => some .i8 | 2 => some .n8 | 3 => some .i16 | 4 => some .n16
  | 5 => some .i32 | 6 => some .n32 | 7 => some .i64 | 8 => some .n64 | 9 => some .f16
  | 10 => some .bf16 | 11 => some .f32 | 12 => some .e4m3 | 13 => some .e5m2 | 14 => some .e2m1
  | 15 => some .e8m0
  | _ => none
/-- The code of a `Cond` in its field (R84). -/
def Cond.code : Cond → Nat
  | .eq => 0 | .ne => 1 | .lt => 2 | .ge => 3 | .ltn => 4 | .gen => 5 | .le => 6
/-- The `Cond` of a code. -/
def Cond.ofCode : Nat → Option Cond
  | 0 => some .eq | 1 => some .ne | 2 => some .lt | 3 => some .ge | 4 => some .ltn
  | 5 => some .gen | 6 => some .le
  | _ => none
/-- The code of a `VCond` in its field (R158). -/
def VCond.code : VCond → Nat
  | .eq => 0 | .ne => 1 | .lt => 2 | .ge => 3 | .le => 4 | .gt => 5 | .unord => 6
/-- The `VCond` of a code. -/
def VCond.ofCode : Nat → Option VCond
  | 0 => some .eq | 1 => some .ne | 2 => some .lt | 3 => some .ge | 4 => some .le
  | 5 => some .gt | 6 => some .unord
  | _ => none
/-- The code of a `RMode` in its field (R50). -/
def RMode.code : RMode → Nat
  | .rne => 0 | .rz => 1 | .ru => 2 | .rd => 3 | .sr => 4
/-- The `RMode` of a code. -/
def RMode.ofCode : Nat → Option RMode
  | 0 => some .rne | 1 => some .rz | 2 => some .ru | 3 => some .rd | 4 => some .sr
  | _ => none
/-- The code of a `AOrd` in its field (R50). -/
def AOrd.code : AOrd → Nat
  | .plain => 0 | .acq => 1 | .rel => 2 | .acqrel => 3
/-- The `AOrd` of a code. -/
def AOrd.ofCode : Nat → Option AOrd
  | 0 => some .plain | 1 => some .acq | 2 => some .rel | 3 => some .acqrel
  | _ => none
/-- The code of a `AtomOp` in its field (R50). -/
def AtomOp.code : AtomOp → Nat
  | .add => 0 | .min => 1 | .max => 2 | .minn => 3 | .maxn => 4 | .and => 5 | .or => 6 | .xor => 7
/-- The `AtomOp` of a code. -/
def AtomOp.ofCode : Nat → Option AtomOp
  | 0 => some .add | 1 => some .min | 2 => some .max | 3 => some .minn | 4 => some .maxn
  | 5 => some .and | 6 => some .or | 7 => some .xor
  | _ => none
/-- The code of a `Scope` in its field (R50). -/
def Scope.code : Scope → Nat
  | .core => 0 | .cluster => 1 | .die => 2 | .package => 3 | .fabric => 4
/-- The `Scope` of a code. -/
def Scope.ofCode : Nat → Option Scope
  | 0 => some .core | 1 => some .cluster | 2 => some .die | 3 => some .package | 4 => some .fabric
  | _ => none
/-- The code of a `FenceKind` in its field (R50). -/
def FenceKind.code : FenceKind → Nat
  | .eng => 0 | .port => 1 | .all => 2
/-- The `FenceKind` of a code. -/
def FenceKind.ofCode : Nat → Option FenceKind
  | 0 => some .eng | 1 => some .port | 2 => some .all
  | _ => none
/-- The code of a `CacheLvl` in its field (R109). -/
def CacheLvl.code : CacheLvl → Nat
  | .l1 => 0 | .l2 => 1 | .ms => 2
/-- The `CacheLvl` of a code. -/
def CacheLvl.ofCode : Nat → Option CacheLvl
  | 0 => some .l1 | 1 => some .l2 | 2 => some .ms
  | _ => none
/-- The code of a `MmaFmt` in its field (R49). -/
def MmaFmt.code : MmaFmt → Nat
  | .bf16 => 0 | .f16 => 1 | .e4m3 => 2 | .e5m2 => 3 | .e4m3e5m2 => 4 | .e5m2e4m3 => 5 | .mxfp4 => 6 | .i8 => 7
/-- The `MmaFmt` of a code. -/
def MmaFmt.ofCode : Nat → Option MmaFmt
  | 0 => some .bf16 | 1 => some .f16 | 2 => some .e4m3 | 3 => some .e5m2 | 4 => some .e4m3e5m2
  | 5 => some .e5m2e4m3 | 6 => some .mxfp4 | 7 => some .i8
  | _ => none
/-- The code of a `RedOp` in its field (R175). -/
def RedOp.code : RedOp → Nat
  | .add32 => 0 | .add64 => 1 | .min32 => 2 | .max32 => 3 | .minn32 => 4 | .maxn32 => 5 | .min64 => 6 | .max64 => 7
  | .minn64 => 8 | .maxn64 => 9 | .and => 10 | .or => 11 | .fmin => 12 | .fmax => 13 | .xsmerge => 14 | .xsaddf => 15
/-- The `RedOp` of a code. -/
def RedOp.ofCode : Nat → Option RedOp
  | 0 => some .add32 | 1 => some .add64 | 2 => some .min32 | 3 => some .max32 | 4 => some .minn32
  | 5 => some .maxn32 | 6 => some .min64 | 7 => some .max64 | 8 => some .minn64 | 9 => some .maxn64
  | 10 => some .and | 11 => some .or | 12 => some .fmin | 13 => some .fmax | 14 => some .xsmerge
  | 15 => some .xsaddf
  | _ => none
/-- The code of a `Base` in its field (R50). -/
def Base.code : Base → Nat
  | .xb => 0 | .yb => 1 | .vb => 2 | .cb => 3
/-- The `Base` of a code. -/
def Base.ofCode : Nat → Option Base
  | 0 => some .xb | 1 => some .yb | 2 => some .vb | 3 => some .cb
  | _ => none
/-- The code of a `ShapeField` in its field (R50). -/
def ShapeField.code : ShapeField → Nat
  | .m => 0 | .n => 1 | .k => 2 | .apitch => 3 | .bpitch => 4 | .scale => 5 | .asb => 6 | .bsb => 7
/-- The `ShapeField` of a code. -/
def ShapeField.ofCode : Nat → Option ShapeField
  | 0 => some .m | 1 => some .n | 2 => some .k | 3 => some .apitch | 4 => some .bpitch
  | 5 => some .scale | 6 => some .asb | 7 => some .bsb
  | _ => none
/-- The code of a `PatField` in its field (R171). -/
def PatField.code : PatField → Nat
  | .esize => 0 | .n1 => 1 | .n2 => 2 | .ss1 => 3 | .ss2 => 4 | .ds1 => 5 | .ds2 => 6 | .opt => 7
/-- The `PatField` of a code. -/
def PatField.ofCode : Nat → Option PatField
  | 0 => some .esize | 1 => some .n1 | 2 => some .n2 | 3 => some .ss1 | 4 => some .ss2
  | 5 => some .ds1 | 6 => some .ds2 | 7 => some .opt
  | _ => none
/-- The code of a `PvCause` in its field (R327). -/
def PvCause.code : PvCause → Nat
  | .input => 0 | .dest => 1 | .stash => 2
/-- The `PvCause` of a code. -/
def PvCause.ofCode : Nat → Option PvCause
  | 0 => some .input | 1 => some .dest | 2 => some .stash
  | _ => none
/-- The lane type of the t field. -/
def tOf (w : Nat) : Option LaneType := LaneType.ofCode (tV w)

/-- `v` when the condition holds. -/
def only (c : Bool) (v : Instr) : Option Instr := if c then some v else none
/-- XSYS (R71, R74). -/
def decXsys (w : Nat) : Option Instr :=
  if iOf w then none else
  match fA w with
  | 0 => only (bits w 20 6 == 0) (.nop (gA w))
  | 1 => some (.brk (gA w) (BitVec.ofNat 15 (w / 2 ^ 6)))
  | 2 => some (.trap (gA w) (BitVec.ofNat 15 (w / 2 ^ 6)))
  | 3 => some (.svc (gA w) (BitVec.ofNat 15 (w / 2 ^ 6)))
  | 4 => some (.hcall (gA w) (BitVec.ofNat 15 (w / 2 ^ 6)))
  | 5 => only (bits w 20 6 == 0) (.eret (gA w))
  | 6 => only (bits w 20 6 == 0) (.yield (gA w))
  | 7 => only (bits w 20 6 == 0) (.susp (gA w))
  | 8 => only (bits w 20 6 == 0) (.done (gA w))
  | _ => none
/-- XALU (R78). -/
def decXalu (w : Nat) : Option Instr :=
  match fA w with
  | 0 => some (.add (reg3 w))
  | 1 => some (.sub (reg3 w))
  | 2 => some (.and (reg3 w))
  | 3 => some (.or (reg3 w))
  | 4 => some (.xor (reg3 w))
  | 5 => some (.andn (reg3 w))
  | 6 => some (.orn (reg3 w))
  | 7 => some (.shl (reg3 w))
  | 8 => some (.shr (reg3 w))
  | 9 => some (.sra (reg3 w))
  | 10 => some (.rotl (reg3 w))
  | 11 => some (.min (reg3 w))
  | 12 => some (.max (reg3 w))
  | 13 => some (.minn (reg3 w))
  | 14 => some (.maxn (reg3 w))
  | 15 => some (.absd (reg3 w))
  | _ => none
/-- XMUL (R79). -/
def decXmul (w : Nat) : Option Instr :=
  match fA w with
  | 0 => some (.mul (reg3 w))
  | 1 => some (.mulh (reg3 w))
  | 2 => some (.mulhn (reg3 w))
  | 3 => some (.div (reg3 w))
  | 4 => some (.divn (reg3 w))
  | 5 => some (.rem (reg3 w))
  | 6 => some (.remn (reg3 w))
  | _ => none
/-- XBIT (R80): b is zero. -/
def decXbit (w : Nat) : Option Instr :=
  if bits w 10 6 ≠ 0 then none else
  match fA w with
  | 0 => some (.clz (reg2 w))
  | 1 => some (.ctz (reg2 w))
  | 2 => some (.popc (reg2 w))
  | 3 => some (.brev (reg2 w))
  | 4 => some (.bswap (reg2 w))
  | 5 => some (.sextb (reg2 w))
  | 6 => some (.sexth (reg2 w))
  | 7 => some (.sextw (reg2 w))
  | 8 => some (.zextw (reg2 w))
  | _ => none
/-- SHI (R82): imm[8:6] is zero, imm[10:9] selects. -/
def decShi (w : Nat) : Option Instr :=
  match bits w 10 6 with
  | 0 => some (.shli (shiftImm w))
  | 8 => some (.shri (shiftImm w))
  | 16 => some (.srai (shiftImm w))
  | 24 => some (.rotli (shiftImm w))
  | _ => none
/-- CMP (R84): d names a predicate. -/
def decCmp (w : Nat) : Option Instr :=
  if bits w 20 20 ≠ 0 then none else
  (Cond.ofCode (fA w)).map fun c => .cmp ⟨iOf w, gA w, BitVec.ofNat 4 (w / 2 ^ 16), aA w, bA w, c⟩

/-- CMPI, format P (R84). -/
def decCmpi (w : Nat) : Option Instr :=
  (Cond.ofCode (bits w 17 14)).map fun c =>
    .cmpi ⟨gJ w, BitVec.ofNat 4 (w / 2 ^ 18), c, BitVec.ofNat 5 (w / 2 ^ 9), BitVec.ofNat 9 w⟩

/-- The three predicates of PLOG. -/
def pred3 (w : Nat) : Pred3 :=
  ⟨gA w, BitVec.ofNat 4 (w / 2 ^ 16), BitVec.ofNat 4 (w / 2 ^ 11), BitVec.ofNat 4 (w / 2 ^ 6)⟩
/-- The two predicates of PNOT and PMOV. -/
def pred2 (w : Nat) : Pred2 := ⟨gA w, BitVec.ofNat 4 (w / 2 ^ 16), BitVec.ofNat 4 (w / 2 ^ 11)⟩

/-- PLOG (R85): every register field names a predicate. -/
def decPlog (w : Nat) : Option Instr :=
  if iOf w || bits w 20 20 != 0 || bits w 15 15 != 0 || bits w 10 10 != 0 then none else
  match fA w with
  | 0 => some (.pand (pred3 w))
  | 1 => some (.por (pred3 w))
  | 2 => some (.pxor (pred3 w))
  | 3 => some (.pandn (pred3 w))
  | 4 => only (bits w 10 6 == 0) (.pnot (pred2 w))
  | 5 => only (bits w 10 6 == 0) (.pmov (pred2 w))
  | _ => none

/-- JREG (R87). -/
def decJreg (w : Nat) : Option Instr :=
  if bits w 10 6 ≠ 0 then none else
  match fA w with
  | 0 => only (bits w 20 16 == 0) (.jmpr (reg1 w))
  | 1 => some (.callr (reg2 w))
  | 2 => only (bits w 20 16 == 0) (.ret (reg1 w))
  | _ => none

/-- The destination of XMOV and YMOV (R91, R101): f[2:0] selects, b is the lane or zero. -/
def movDst (w : Nat) : Option MovDst :=
  if bits w 5 3 ≠ 0 then none else
  match bits w 2 0 with
  | 0 => if bits w 10 6 = 0 then some (.file (dA w)) else none
  | 1 => if bits w 10 6 = 0 ∧ bits w 20 20 = 0 then some (.m (BitVec.ofNat 4 (w / 2 ^ 16))) else none
  | 2 => if bits w 10 6 = 0 ∧ bits w 20 20 = 0 then some (.c (BitVec.ofNat 4 (w / 2 ^ 16))) else none
  | 3 => if bits w 10 6 = 0 then some (.vb (dA w)) else none
  | 4 => some (.vl (dA w) (bA w))
  | _ => none

/-- SETIB (R92): d selects the base. -/
def decSetib (w : Nat) : Option Instr :=
  (Base.ofCode (bits w 20 16)).map fun b => .setib ⟨iOf w, gA w, b, aA w, BitVec.ofNat 11 w⟩

/-- HSET (R93): d names h0 to h3. -/
def decHset (w : Nat) : Option Instr :=
  if bits w 20 18 ≠ 0 ∨ bits w 10 6 ≠ 0 then none else
  (ShapeField.ofCode (fA w)).map fun s => .hset ⟨iOf w, gA w, BitVec.ofNat 2 (w / 2 ^ 16), aA w, s⟩

/-- GSET (R93): d names g0 to g7. -/
def decGset (w : Nat) : Option Instr :=
  if bits w 20 19 ≠ 0 ∨ bits w 10 6 ≠ 0 then none else
  (PatField.ofCode (fA w)).map fun p => .gset ⟨iOf w, gA w, BitVec.ofNat 3 (w / 2 ^ 16), aA w, p⟩

/-- FAB (R358, R361). -/
def decFab (w : Nat) : Option Instr :=
  if bits w 10 6 ≠ 0 then none else
  match fA w with
  | 0 => only (!iOf w && bits w 20 11 == 0) (.qwait (gA w))
  | 1 => only (bits w 20 16 == 0) (.jset (reg1 w))
  | 2 => only (!iOf w && bits w 20 11 == 0) (.rflush (gA w))
  | 3 => only (!iOf w && bits w 20 11 == 0) (.rwait (gA w))
  | 4 => only (bits w 20 16 == 0) (.qmark (reg1 w))
  | 5 => some (.qstat (reg2 w))
  | 6 => some (.grpq (reg2 w))
  | 7 => some (.lstat (reg2 w))
  | _ => none

/-- PAV (R327). -/
def decPav (w : Nat) : Option Instr :=
  match fA w with
  | 0 => only (bits w 20 16 == 0 && bits w 10 6 == 0) (.pvpost (reg1 w))
  | 1 => only (bits w 20 16 == 0 && bits w 10 6 == 0) (.pvstash (reg1 w))
  | 2 => only (bits w 20 16 == 0 && bits w 10 6 == 0) (.pvtake (reg1 w))
  | 3 => if bits w 15 11 = 0 then (PvCause.ofCode (bits w 10 6)).map (.pvbub (iOf w) (gA w) (dA w)) else none
  | 4 => only (bits w 15 6 == 0) (.pvstat (iOf w) (gA w) (dA w))
  | _ => none

/-- LD and ST, format M (R98). -/
def decLd (w : Nat) : Option Instr :=
  some (.ld ⟨iOf w, gA w, dA w, aA w, BitVec.ofNat 2 (w / 2 ^ 9), bits w 8 8 == 1, BitVec.ofNat 8 w⟩)
def decSt (w : Nat) : Option Instr :=
  only (bits w 8 8 == 0) (.st ⟨iOf w, gA w, dA w, aA w, BitVec.ofNat 2 (w / 2 ^ 9), BitVec.ofNat 8 w⟩)
/-- LDX and STX (R99). -/
def decLdx (w : Nat) : Option Instr :=
  only (bits w 5 5 == 0)
    (.ldx ⟨iOf w, gA w, dA w, aA w, bA w, BitVec.ofNat 2 (w / 2 ^ 3), bits w 2 2 == 1, BitVec.ofNat 2 w⟩)
def decStx (w : Nat) : Option Instr :=
  only (bits w 5 5 == 0 && bits w 2 2 == 0)
    (.stx ⟨iOf w, gA w, dA w, aA w, bA w, BitVec.ofNat 2 (w / 2 ^ 3), BitVec.ofNat 2 w⟩)
/-- YALU (R100). -/
def decYalu (w : Nat) : Option Instr :=
  match fA w with
  | 0 => some (.yadd (reg3 w))
  | 1 => some (.ysub (reg3 w))
  | 2 => some (.yshl (reg3 w))
  | 3 => some (.yshr (reg3 w))
  | 4 => some (.yand (reg3 w))
  | _ => none
/-- ATOM (R102): f[5:4] ordering, f[3] size, f[2:0] operation. -/
def decAtom (w : Nat) : Option Instr := do
  let o ← AOrd.ofCode (bits w 5 4)
  let p ← AtomOp.ofCode (bits w 2 0)
  some (.atom ⟨iOf w, gA w, dA w, aA w, bA w, o, bits w 3 3 == 1⟩ p)

/-- AXCH (R102): f[4:3] ordering, f[2] size, f[1:0] operation. -/
def decAxch (w : Nat) : Option Instr := do
  let o ← AOrd.ofCode (bits w 4 3)
  if bits w 5 5 ≠ 0 then none else
  match bits w 1 0 with
  | 0 => some (.aswp ⟨iOf w, gA w, dA w, aA w, bA w, o, bits w 2 2 == 1⟩)
  | 1 => some (.acas ⟨iOf w, gA w, dA w, aA w, bA w, o, bits w 2 2 == 1⟩)
  | 2 => only (bits w 10 6 == 0) (.ald (iOf w) (gA w) (dA w) (aA w) o (bits w 2 2 == 1))
  | 3 => only (bits w 20 16 == 0) (.ast (iOf w) (gA w) (aA w) (bA w) o (bits w 2 2 == 1))
  | _ => none

/-- MEMC (R106, R108, R109). -/
def decMemc (w : Nat) : Option Instr :=
  if bits w 20 16 ≠ 0 then none else
  match fA w with
  | 0 => if iOf w || bits w 15 11 != 0 then none else (Scope.ofCode (bits w 10 6)).map (.phase (gA w))
  | 1 => if iOf w || bits w 15 11 != 0 then none else (FenceKind.ofCode (bits w 10 6)).map (.fence (gA w))
  | 2 => (CacheLvl.ofCode (bits w 10 6)).map (.pref (reg1 w))
  | 3 => only (bits w 10 6 == 0) (.flsh (reg1 w))
  | 4 => only (decide (bits w 10 6 < 2)) (.invl (reg1 w) (bits w 10 6 == 1))
  | _ => none

/-- The operands of VMEM: f[5:3] names the mask (R110). -/
def vmem (w : Nat) : VMemOp := ⟨iOf w, gA w, dA w, aA w, BitVec.ofNat 3 (w / 2 ^ 3)⟩

/-- VMEM (R110). -/
def decVmem (w : Nat) : Option Instr :=
  match fV w with
  | 0 => only (bits w 10 6 == 0) (.vld (vmem w))
  | 1 => only (bits w 10 6 == 0) (.vst (vmem w))
  | 2 => some (.vlds (vmem w) (bA w))
  | 3 => some (.vsts (vmem w) (bA w))
  | 4 => some (.vgath (vmem w) (bA w))
  | 5 => some (.vscat (vmem w) (bA w))
  | _ => none

/-- MMA (R226). -/
def decMma (w : Nat) : Option Instr :=
  if bits w 6 0 ≠ 0 then none else (MmaFmt.ofCode (fmtE w)).map (.mma (tileOp w))

/-- TOP (R228). -/
def decTop (w : Nat) : Option Instr :=
  match bits w 6 0 with
  | 0 => only (bits w 17 7 == 0) (.tzero (gJ w) (aE w))
  | 1 => only (fmtE w == 0) (.tload (tileOp w))
  | 2 => only (fmtE w == 0) (.tstore (tileOp w))
  | 3 => only (fmtE w == 0) (.ttrp (tileOp w))
  | 4 => only (fmtE w == 0 || fmtE w == 7) (.tadd (tileOp w) (fmtE w == 7))
  | 5 => only (bits w 13 7 == 0) (.twm (gJ w) (aE w) (bE w))
  | 6 => only (bits w 11 7 == 0 && decide (bits w 13 12 < 2)) (.twait (gJ w) (aE w) (bE w) (bits w 13 12 == 1))
  | 7 => only (bits w 21 7 == 0) (.tfence (gJ w))
  | _ => none

/-- COPY (R173): f[7:4] is the sub-operation, f[3:0] the function. -/
def decCopy (w : Nat) : Option Instr :=
  if bits w 3 0 = 1 then (RedOp.ofCode (bits w 7 4)).map (.cpyr (copyOp w)) else
  match bits w 7 0 with
  | 0x00 => some (.cpyMm (copyOp w))
  | 0x10 => some (.cpyMr (copyOp w))
  | 0x20 => some (.cpyMs (copyOp w))
  | 0x30 => some (.cpySm (copyOp w))
  | 0x02 => some (.subs (copyOp w))
  | 0x12 => only (bits w 21 11 == 0) (.subsCancel (gJ w) (chC w))
  | 0x03 => some (.drn (copyOp w))
  | 0x04 => some (.wload (copyOp w))
  | 0x14 => some (.wloadZb32 (copyOp w))
  | 0x05 => only (bits w 21 11 == 0) (.cwait (gJ w) (chC w))
  | 0x15 => only (bits w 17 11 == 0) (.cwaitWm (gJ w) (aE w) (chC w))
  | 0x06 => only (bits w 17 11 == 0) (.cstat (gJ w) (aE w) (chC w))
  | 0x16 => only (bits w 17 11 == 0) (.cstatWm (gJ w) (aE w) (chC w))
  | 0x07 => only (bits w 21 11 == 0) (.cfixRetry (gJ w) (chC w))
  | 0x17 => only (bits w 21 11 == 0) (.cfixSkip (gJ w) (chC w))
  | 0x27 => only (bits w 17 11 == 0) (.cfixPatch (gJ w) (aE w) (chC w))
  | _ => none

/-- SCL (R189, R190). -/
def decScl (w : Nat) : Option Instr :=
  match bits w 11 10 with
  | 0 => some (.sld (gJ w) (dV w) (aV w) (BitVec.ofNat 10 w))
  | 1 =>
    match bits w 9 8 with
    | 0 => only (bits w 16 12 == 0) (.ssetB (gJ w) (dV w) (BitVec.ofNat 8 w))
    | 1 => some (.ssetSh (gJ w) (dV w) (aV w) (BitVec.ofNat 8 w))
    | _ => none
  | 2 => only (bits w 9 0 == 0) (.smov (gJ w) (dV w) (aV w))
  | _ => none

/-- The operands of a three-field V word. -/
def vec3 (w : Nat) (t : LaneType) : Vec3 := ⟨iOf w, kV w, dV w, aV w, bV w, t⟩
/-- The operands of a two-field V word. -/
def vec2 (w : Nat) (t : LaneType) : Vec2 := ⟨iOf w, kV w, dV w, aV w, t⟩
/-- A two-field V word: b is zero. -/
def decV2 (w : Nat) (mk : Vec2 → Instr) (t : LaneType) : Option Instr := only (bits w 11 7 == 0) (mk (vec2 w t))
/-- VAR1 (R153). -/
def decVar1 (w : Nat) (t : LaneType) : Option Instr :=
  match fV w with
  | 0 => some (.vadd (vec3 w t))
  | 1 => some (.vsub (vec3 w t))
  | 2 => some (.vmul (vec3 w t))
  | 3 => some (.vfma (vec3 w t))
  | 4 => some (.vmin (vec3 w t))
  | 5 => some (.vmax (vec3 w t))
  | 6 => some (.vabsd (vec3 w t))
  | 7 => some (.vdiv (vec3 w t))
  | _ => none
/-- VAR2 (R153). -/
def decVar2 (w : Nat) (t : LaneType) : Option Instr :=
  match fV w with
  | 0 => decV2 w .vsqrt t
  | 1 => decV2 w .vexp2 t
  | 2 => decV2 w .vlog2 t
  | 3 => decV2 w .vneg t
  | 4 => decV2 w .vabs t
  | 5 => some (.vscale (vec3 w t))
  | 6 => some (.vmulh (vec3 w t))
  | 7 => some (.vadds (vec3 w t))
  | _ => none
/-- VLOG (R157). -/
def decVlog (w : Nat) (t : LaneType) : Option Instr :=
  match fV w with
  | 0 => some (.vand (vec3 w t))
  | 1 => some (.vor (vec3 w t))
  | 2 => some (.vxor (vec3 w t))
  | 3 => some (.vandn (vec3 w t))
  | 4 => some (.vshl (vec3 w t))
  | 5 => some (.vshr (vec3 w t))
  | 6 => some (.vsra (vec3 w t))
  | 7 => some (.vrotl (vec3 w t))
  | _ => none
/-- VCMP (R158): d names a mask. -/
def decVcmp (w : Nat) (t : LaneType) : Option Instr :=
  if bits w 21 20 ≠ 0 then none else
  (VCond.ofCode (fV w)).map fun c => .vcmp ⟨iOf w, kV w, BitVec.ofNat 3 (w / 2 ^ 17), aV w, bV w, t, c⟩
/-- VPRM (R159): VSLIDE has its direction in b[4] and its exponent in b[3:0]. -/
def decVprm (w : Nat) (t : LaneType) : Option Instr :=
  match fV w with
  | 0 => some (.vperm (vec3 w t))
  | 1 => some (.vslide (vec2 w t) (bits w 11 11 == 1) (BitVec.ofNat 4 (w / 2 ^ 7)))
  | 2 => some (.vbcast (vec2 w t) (bV w))
  | 3 => only (bits w 16 7 == 0) (.viota (iOf w) (kV w) (dV w) t)
  | 4 => decV2 w .vcmpr t
  | 5 => decV2 w .vexpd t
  | 6 => some (.vzip (vec3 w t))
  | 7 => decV2 w .vunzip t
  | _ => none
/-- VBIT (R160): VKTOV has k zero and a naming a mask. -/
def decVbit (w : Nat) (t : LaneType) : Option Instr :=
  match fV w with
  | 0 => some (.vclmul (vec3 w t))
  | 1 => some (.vclmulh (vec3 w t))
  | 2 => decV2 w .vpopc t
  | 3 => decV2 w .vclz t
  | 4 => decV2 w .vctz t
  | 5 => some (.vsel (vec3 w t))
  | 6 => decV2 w .vmsb t
  | 7 => only (bits w 24 22 == 0 && bits w 16 15 == 0 && bits w 11 7 == 0)
      (.vktov (iOf w) (dV w) (BitVec.ofNat 3 (w / 2 ^ 12)) t)
  | _ => none
/-- VRED (R161, R162): VSUMX and VSUMXC take type f32 only. -/
def decVred (w : Nat) (t : LaneType) : Option Instr :=
  match fV w with
  | 0 => decV2 w .vredadd t
  | 1 => decV2 w .vredmin t
  | 2 => decV2 w .vredmax t
  | 3 => decV2 w .vredand t
  | 4 => decV2 w .vredor t
  | 5 => decV2 w .vredxor t
  | 6 => only (bits w 11 7 == 0 && t == .f32) (.vsumx (iOf w) (kV w) (dV w) (aV w))
  | 7 => only (bits w 11 7 == 0 && t == .f32 && bits w 24 22 == 0) (.vsumxc (iOf w) (dV w) (aV w))
  | _ => none
/-- VCVT (R163): b[4] saturates, b[3:0] is the destination type, f the rounding mode. -/
def decVcvt (w : Nat) (t : LaneType) : Option Instr := do
  let u ← LaneType.ofCode (bits w 10 7)
  let r ← RMode.ofCode (fV w)
  some (.vcvt ⟨iOf w, kV w, dV w, aV w, bits w 11 11 == 1, u, t, r⟩)

/-- VRAND (R164): type n32 only. -/
def decVrand (w : Nat) (t : LaneType) : Option Instr :=
  only (fV w == 0 && t == .n32) (.vrand (iOf w) (kV w) (dV w) (aV w) (bV w))

/-- VMSK (R165): k is zero; the operands of functions 0 to 4 name masks only, so that I must be zero (R44). -/
def decVmsk (w : Nat) (t : LaneType) : Option Instr :=
  let d := BitVec.ofNat 3 (w / 2 ^ 17)
  let a := BitVec.ofNat 3 (w / 2 ^ 12)
  let b := BitVec.ofNat 3 (w / 2 ^ 7)
  if bits w 24 22 ≠ 0 ∨ bits w 16 15 ≠ 0 then none else
  match fV w with
  | 0 => only (!iOf w && bits w 21 20 == 0 && bits w 11 10 == 0) (.kand d a b t)
  | 1 => only (!iOf w && bits w 21 20 == 0 && bits w 11 10 == 0) (.kor d a b t)
  | 2 => only (!iOf w && bits w 21 20 == 0 && bits w 11 10 == 0) (.kxor d a b t)
  | 3 => only (!iOf w && bits w 21 20 == 0 && bits w 11 7 == 0) (.knot d a t)
  | 4 => only (!iOf w && bits w 21 20 == 0 && bits w 11 7 == 0) (.kmov d a t)
  | 5 => only (bits w 11 11 == 0) (.kpopc (iOf w) (dV w) a (BitVec.ofNat 4 (w / 2 ^ 7)) t)
  | 6 => only (bits w 11 11 == 0) (.kfirst (iOf w) (dV w) a (BitVec.ofNat 4 (w / 2 ^ 7)) t)
  | _ => none

/-- VMOVI (R166). -/
def decVmovi (w : Nat) (t : LaneType) : Option Instr :=
  only (fV w == 0) (.vmovi (iOf w) (kV w) (dV w) (BitVec.ofNat 10 (w / 2 ^ 7)) t)

/-- VEXT (R167): t is n64, k zero; f selects the target. With target m the v operand can still be rebased. -/
def decVext (w : Nat) (t : LaneType) : Option Instr :=
  if t ≠ .n64 ∨ bits w 24 22 ≠ 0 then none else
  match fV w with
  | 0 => some (.vext (iOf w) (aV w) (bV w) (.x (dV w)))
  | 1 => some (.vext (iOf w) (aV w) (bV w) (.y (dV w)))
  | 2 => only (bits w 21 21 == 0) (.vext (iOf w) (aV w) (bV w) (.m (BitVec.ofNat 4 (w / 2 ^ 17))))
  | 3 => only (bits w 21 21 == 0) (.vext (iOf w) (aV w) (bV w) (.c (BitVec.ofNat 4 (w / 2 ^ 17))))
  | _ => none

/-- The X slot (R50). -/
def decX (w : Nat) : Option Instr :=
  match opOf w with
  | 0x00 => decXsys w
  | 0x01 => only (bits w 15 11 == 0) (.mfs ⟨iOf w, gA w, dA w, BitVec.ofNat 11 w⟩)
  | 0x02 => only (bits w 20 16 == 0) (.mts ⟨iOf w, gA w, aA w, BitVec.ofNat 11 w⟩)
  | 0x03 => decXalu w
  | 0x04 => decXmul w
  | 0x05 => decXbit w
  | 0x06 => some (.extr (fieldOp w))
  | 0x07 => some (.extrs (fieldOp w))
  | 0x08 => some (.insr (fieldOp w))
  | 0x09 => some (.addi (regImm w))
  | 0x0A => some (.andi (regImm w))
  | 0x0B => some (.ori (regImm w))
  | 0x0C => some (.xori (regImm w))
  | 0x0D => decShi w
  | 0x0E => some (.movi (const16 w))
  | 0x0F => some (.movsh (const16 w))
  | 0x10 => decCmp w
  | 0x11 => decCmpi w
  | 0x12 => decPlog w
  | 0x13 => only (bits w 5 4 == 0) (.sel ⟨iOf w, gA w, dA w, aA w, bA w, BitVec.ofNat 4 w⟩)
  | 0x14 => some (.br (gJ w) (BitVec.ofNat 22 w))
  | 0x15 => some (.call (gJ w) (BitVec.ofNat 22 w))
  | 0x16 => decJreg w
  | 0x17 => some (.loop (gJ w) (BitVec.ofNat 5 (w / 2 ^ 17)) (BitVec.ofNat 17 w))
  | 0x18 => (movDst w).map fun d => .xmov ⟨iOf w, gA w, aA w, d⟩
  | 0x19 => decSetib w
  | 0x1A => decHset w
  | 0x1B => decGset w
  | 0x1C => decFab w
  | 0x1D => decPav w
  | _ => none

/-- The Y, M, C and S slots (R50). -/
def decYMCS (w : Nat) : Option Instr :=
  match opOf w with
  | 0x20 => decLd w
  | 0x21 => decSt w
  | 0x22 => decLdx w
  | 0x23 => decStx w
  | 0x24 => decYalu w
  | 0x25 => some (.yaddi (regImm w))
  | 0x26 => decAtom w
  | 0x27 => decAxch w
  | 0x28 => decMemc w
  | 0x29 => (movDst w).map fun d => .ymov ⟨iOf w, gA w, aA w, d⟩
  | 0x2A => decVmem w
  | 0x2C => decMma w
  | 0x2D => decTop w
  | 0x2E => decCopy w
  | 0x2F => decScl w
  | _ => none

/-- The V slot (R50). -/
def decV (w : Nat) : Option Instr :=
  match tOf w with
  | none => none
  | some t =>
    match opOf w with
    | 0x30 => decVar1 w t
    | 0x31 => decVar2 w t
    | 0x32 => decVlog w t
    | 0x33 => decVcmp w t
    | 0x34 => decVprm w t
    | 0x35 => decVbit w t
    | 0x36 => decVred w t
    | 0x37 => decVcvt w t
    | 0x38 => decVrand w t
    | 0x39 => decVmsk w t
    | 0x3A => decVmovi w t
    | 0x3B => decVext w t
    | _ => none

/-- The slots of a bundle, in word order (R37). -/
inductive Slot | x | y | v | m | c | s
  deriving DecidableEq, Repr

/-- The number of a slot in TRAP_CAUSE.SLOT (R62). -/
def Slot.num : Slot → Nat
  | .x => 0 | .y => 1 | .v => 2 | .m => 3 | .c => 4 | .s => 5

/-- The slot that owns an op, none for a reserved op and for a header (R35). -/
def slotOf (op : Nat) : Option Slot :=
  if op ≤ 0x1D then some .x
  else if op ≤ 0x1F then none
  else if op ≤ 0x2A then some .y
  else if op = 0x2B then none
  else if op ≤ 0x2D then some .m
  else if op = 0x2E then some .c
  else if op = 0x2F then some .s
  else if op ≤ 0x3B then some .v
  else none

/-- An instruction word by its slot's table, before the well-formedness limits. -/
def decodeRaw (w : Nat) : Option Instr :=
  match slotOf (opOf w) with
  | some .x => decX w
  | some .v => decV w
  | some _ => decYMCS w
  | none => none

/-- The SUB of a word that R50 does not assign (R74, R75, R228, R361, R394). -/
def illegalSub (w : Nat) : Nat :=
  if opOf w = 0x00 then (if decide (9 ≤ fA w) || (bits w 20 6 != 0 && (fA w == 0 || decide (5 ≤ fA w))) then fA w else 0x00)
  else if opOf w = 0x01 ∨ opOf w = 0x02 then (if sysAssigned (w % 2048) then opOf w else w % 2048)
  else if opOf w = 0x1C then fA w
  else if opOf w = 0x2D then w % 128
  else opOf w

/-- The instruction of a 32-bit word. -/
def decode (w : Nat) : Except DecodeError Instr :=
  if opOf w = 0x3F then .error .header
  else if slotOf (opOf w) = none then .error (.reserved (opOf w))
  else match decodeRaw w with
    | some i => if i.wellFormed then .ok i else .error (.illegal (illegalSub w))
    | none => .error (.illegal (illegalSub w))

/-- A bundle header (R36): the slots present in word order, RSTART, SAFE. -/
structure Header where (slots : List Slot) (rstart safe : Bool)
  deriving DecidableEq, Repr

/-- The reserved bits of a header are zero (R36, R38). -/
def headerClean (w : Nat) : Bool := bits w 19 18 == 0 && bits w 15 0 == 0

/-- The header of a word of op 0x3F (R36). -/
def decodeHeader (w : Nat) : Header where
  slots := (if bits w 25 25 = 1 then [.x] else []) ++ (if bits w 24 24 = 1 then [.y] else []) ++
    (if bits w 23 23 = 1 then [.v] else []) ++ (if bits w 22 22 = 1 then [.m] else []) ++
    (if bits w 21 21 = 1 then [.c] else []) ++ (if bits w 20 20 = 1 then [.s] else [])
  rstart := bits w 17 17 == 1
  safe := bits w 16 16 == 1

/-- The instruction of a word or of a header with no slot (R37). -/
def decodeAny (w : Nat) : Option Instr :=
  if opOf w = 0x3F then
    (if headerClean w && bits w 25 20 == 0 then some (.bnop (bits w 17 17 == 1) (bits w 16 16 == 1)) else none)
  else (decode w).toOption

/-- The four bytes of a word in memory order, little-endian (R5). -/
def wordBytes (w : Nat) : List Byte :=
  [BitVec.ofNat 8 w, BitVec.ofNat 8 (w / 2 ^ 8), BitVec.ofNat 8 (w / 2 ^ 16), BitVec.ofNat 8 (w / 2 ^ 24)]

/-- The number that bytes in memory order stand for, little-endian (R5). -/
def ofBytes : List Byte → Nat
  | [] => 0
  | b :: r => b.toNat + 256 * ofBytes r

/-- The instruction at the head of a byte list, with the rest. -/
def decodeBytes (bs : List Byte) : Option (Instr × List Byte) :=
  match bs with
  | a :: b :: c :: d :: rest => (decodeAny (ofBytes [a, b, c, d])).map fun i => (i, rest)
  | _ => none

/-- The instruction this decoder reads from the bits of an opcode-table row: one 32-bit word, little-endian. -/
def decodeTableWord (nbits w : Nat) : Option Instr :=
  if nbits = 32 then (decodeBytes (wordBytes (w % 2 ^ 32))).map (·.1) else none

/-! ### The encoder, from the same tables -/

def encI (i : Bool) : Nat := if i then 2 ^ 25 else 0

/-- Format A. -/
def encA (op : Nat) (i : Bool) (g : BitVec 4) (d a b f : Nat) : Nat :=
  op * 2 ^ 26 + encI i + g.toNat * 2 ^ 21 + d * 2 ^ 16 + a * 2 ^ 11 + b * 2 ^ 6 + f
def encR3 (op f : Nat) (r : Reg3) : Nat := encA op r.i r.g r.d.toNat r.a.toNat r.b.toNat f
def encR2 (op f : Nat) (r : Reg2) : Nat := encA op r.i r.g r.d.toNat r.a.toNat 0 f
def encR1 (op f : Nat) (r : Reg1) : Nat := encA op r.i r.g 0 r.a.toNat 0 f
/-- Format B. -/
def encB (op : Nat) (i : Bool) (g : BitVec 4) (d a imm : Nat) : Nat :=
  op * 2 ^ 26 + encI i + g.toNat * 2 ^ 21 + d * 2 ^ 16 + a * 2 ^ 11 + imm
/-- Format F. -/
def encF (op : Nat) (f : FieldOp) : Nat :=
  encB op f.i f.g f.d.toNat f.a.toNat (f.pos.toNat * 2 ^ 5 + f.len.toNat)
/-- Format J. -/
def encJ (op : Nat) (g : BitVec 4) (disp : BitVec 22) : Nat := op * 2 ^ 26 + g.toNat * 2 ^ 22 + disp.toNat
/-- Format E. -/
def encE (op : Nat) (g : BitVec 4) (a b h s fmt f : Nat) : Nat :=
  op * 2 ^ 26 + g.toNat * 2 ^ 22 + a * 2 ^ 18 + b * 2 ^ 14 + h * 2 ^ 12 + s * 2 ^ 11 + fmt * 2 ^ 7 + f
def encTile (op : Nat) (t : TileOp) (fmt f : Nat) : Nat :=
  encE op t.g t.a.toNat t.b.toNat t.h.toNat t.s.toNat fmt f
/-- Format CE. -/
def encCE (g : BitVec 4) (a b pat ch f : Nat) : Nat :=
  0x2E * 2 ^ 26 + g.toNat * 2 ^ 22 + a * 2 ^ 18 + b * 2 ^ 14 + pat * 2 ^ 11 + ch * 2 ^ 8 + f
def encCopy (c : CopyOp) (f : Nat) : Nat := encCE c.g c.a.toNat c.b.toNat c.pat.toNat c.ch.toNat f
/-- Format S. -/
def encS (g : BitVec 4) (d a imm : Nat) : Nat := 0x2F * 2 ^ 26 + g.toNat * 2 ^ 22 + d * 2 ^ 17 + a * 2 ^ 12 + imm
/-- Format VA. -/
def encV (op : Nat) (i : Bool) (k d a b t f : Nat) : Nat :=
  op * 2 ^ 26 + encI i + k * 2 ^ 22 + d * 2 ^ 17 + a * 2 ^ 12 + b * 2 ^ 7 + t * 2 ^ 3 + f
def encV3 (op f : Nat) (v : Vec3) : Nat := encV op v.i v.k.toNat v.d.toNat v.a.toNat v.b.toNat v.t.code f
def encV2 (op f b : Nat) (v : Vec2) : Nat := encV op v.i v.k.toNat v.d.toNat v.a.toNat b v.t.code f
def encMov (op : Nat) (m : MovOp) : Nat :=
  match m.dst with
  | .file r => encA op m.i m.g r.toNat m.a.toNat 0 0
  | .m r => encA op m.i m.g r.toNat m.a.toNat 0 1
  | .c r => encA op m.i m.g r.toNat m.a.toNat 0 2
  | .vb r => encA op m.i m.g r.toNat m.a.toNat 0 3
  | .vl r l => encA op m.i m.g r.toNat m.a.toNat l.toNat 4
def encAtom (op f : Nat) (a : AtomArgs) : Nat := encA op a.i a.g a.d.toNat a.a.toNat a.b.toNat f

/-- The word of an instruction as a number; none for an event, which has no word. -/
def encodeNat : Instr → Option Nat
  | .nop g => some (encA 0x00 false g 0 0 0 0)
  | .brk g n => some (0x00 * 2 ^ 26 + g.toNat * 2 ^ 21 + n.toNat * 2 ^ 6 + 1)
  | .trap g n => some (0x00 * 2 ^ 26 + g.toNat * 2 ^ 21 + n.toNat * 2 ^ 6 + 2)
  | .svc g n => some (0x00 * 2 ^ 26 + g.toNat * 2 ^ 21 + n.toNat * 2 ^ 6 + 3)
  | .hcall g n => some (0x00 * 2 ^ 26 + g.toNat * 2 ^ 21 + n.toNat * 2 ^ 6 + 4)
  | .eret g => some (encA 0x00 false g 0 0 0 5)
  | .yield g => some (encA 0x00 false g 0 0 0 6)
  | .susp g => some (encA 0x00 false g 0 0 0 7)
  | .done g => some (encA 0x00 false g 0 0 0 8)
  | .mfs f => some (encB 0x01 f.i f.g f.d.toNat 0 f.n.toNat)
  | .mts f => some (encB 0x02 f.i f.g 0 f.a.toNat f.n.toNat)
  | .add f => some (encR3 0x03 0 f)
  | .sub f => some (encR3 0x03 1 f)
  | .and f => some (encR3 0x03 2 f)
  | .or f => some (encR3 0x03 3 f)
  | .xor f => some (encR3 0x03 4 f)
  | .andn f => some (encR3 0x03 5 f)
  | .orn f => some (encR3 0x03 6 f)
  | .shl f => some (encR3 0x03 7 f)
  | .shr f => some (encR3 0x03 8 f)
  | .sra f => some (encR3 0x03 9 f)
  | .rotl f => some (encR3 0x03 10 f)
  | .min f => some (encR3 0x03 11 f)
  | .max f => some (encR3 0x03 12 f)
  | .minn f => some (encR3 0x03 13 f)
  | .maxn f => some (encR3 0x03 14 f)
  | .absd f => some (encR3 0x03 15 f)
  | .mul f => some (encR3 0x04 0 f)
  | .mulh f => some (encR3 0x04 1 f)
  | .mulhn f => some (encR3 0x04 2 f)
  | .div f => some (encR3 0x04 3 f)
  | .divn f => some (encR3 0x04 4 f)
  | .rem f => some (encR3 0x04 5 f)
  | .remn f => some (encR3 0x04 6 f)
  | .clz f => some (encR2 0x05 0 f)
  | .ctz f => some (encR2 0x05 1 f)
  | .popc f => some (encR2 0x05 2 f)
  | .brev f => some (encR2 0x05 3 f)
  | .bswap f => some (encR2 0x05 4 f)
  | .sextb f => some (encR2 0x05 5 f)
  | .sexth f => some (encR2 0x05 6 f)
  | .sextw f => some (encR2 0x05 7 f)
  | .zextw f => some (encR2 0x05 8 f)
  | .extr f => some (encF 0x06 f)
  | .extrs f => some (encF 0x07 f)
  | .insr f => some (encF 0x08 f)
  | .addi f => some (encB 0x09 f.i f.g f.d.toNat f.a.toNat f.imm.toNat)
  | .andi f => some (encB 0x0A f.i f.g f.d.toNat f.a.toNat f.imm.toNat)
  | .ori f => some (encB 0x0B f.i f.g f.d.toNat f.a.toNat f.imm.toNat)
  | .xori f => some (encB 0x0C f.i f.g f.d.toNat f.a.toNat f.imm.toNat)
  | .shli f => some (encB 0x0D f.i f.g f.d.toNat f.a.toNat (0 * 2 ^ 9 + f.amt.toNat))
  | .shri f => some (encB 0x0D f.i f.g f.d.toNat f.a.toNat (1 * 2 ^ 9 + f.amt.toNat))
  | .srai f => some (encB 0x0D f.i f.g f.d.toNat f.a.toNat (2 * 2 ^ 9 + f.amt.toNat))
  | .rotli f => some (encB 0x0D f.i f.g f.d.toNat f.a.toNat (3 * 2 ^ 9 + f.amt.toNat))
  | .movi f => some (encB 0x0E f.i f.g f.d.toNat 0 f.imm.toNat)
  | .movsh f => some (encB 0x0F f.i f.g f.d.toNat 0 f.imm.toNat)
  | .cmp f => some (encA 0x10 f.i f.g f.d.toNat f.a.toNat f.b.toNat f.cc.code)
  | .cmpi f => some (0x11 * 2 ^ 26 + f.g.toNat * 2 ^ 22 + f.d.toNat * 2 ^ 18 + f.cc.code * 2 ^ 14 + f.a.toNat * 2 ^ 9 + f.imm.toNat)
  | .pand f => some (encA 0x12 false f.g f.d.toNat f.a.toNat f.b.toNat 0)
  | .por f => some (encA 0x12 false f.g f.d.toNat f.a.toNat f.b.toNat 1)
  | .pxor f => some (encA 0x12 false f.g f.d.toNat f.a.toNat f.b.toNat 2)
  | .pandn f => some (encA 0x12 false f.g f.d.toNat f.a.toNat f.b.toNat 3)
  | .pnot f => some (encA 0x12 false f.g f.d.toNat f.a.toNat 0 4)
  | .pmov f => some (encA 0x12 false f.g f.d.toNat f.a.toNat 0 5)
  | .sel f => some (encA 0x13 f.i f.g f.d.toNat f.a.toNat f.b.toNat f.p.toNat)
  | .br g d => some (encJ 0x14 g d)
  | .call g d => some (encJ 0x15 g d)
  | .jmpr f => some (encR1 0x16 0 f)
  | .callr f => some (encR2 0x16 1 f)
  | .ret f => some (encR1 0x16 2 f)
  | .loop g a d => some (0x17 * 2 ^ 26 + g.toNat * 2 ^ 22 + a.toNat * 2 ^ 17 + d.toNat)
  | .xmov f => some (encMov 0x18 f)
  | .setib f => some (encB 0x19 f.i f.g f.base.code f.a.toNat f.imm.toNat)
  | .hset f => some (encA 0x1A f.i f.g f.d.toNat f.a.toNat 0 f.field.code)
  | .gset f => some (encA 0x1B f.i f.g f.d.toNat f.a.toNat 0 f.field.code)
  | .qwait g => some (encA 0x1C false g 0 0 0 0)
  | .rflush g => some (encA 0x1C false g 0 0 0 2)
  | .rwait g => some (encA 0x1C false g 0 0 0 3)
  | .jset f => some (encR1 0x1C 1 f)
  | .qmark f => some (encR1 0x1C 4 f)
  | .qstat f => some (encR2 0x1C 5 f)
  | .grpq f => some (encR2 0x1C 6 f)
  | .lstat f => some (encR2 0x1C 7 f)
  | .pvpost f => some (encR1 0x1D 0 f)
  | .pvstash f => some (encR1 0x1D 1 f)
  | .pvtake f => some (encR1 0x1D 2 f)
  | .pvbub i g d c => some (encA 0x1D i g d.toNat 0 c.code 3)
  | .pvstat i g d => some (encA 0x1D i g d.toNat 0 0 4)
  | .ld f => some (encB 0x20 f.i f.g f.d.toNat f.a.toNat (f.sz.toNat * 2 ^ 9 + f.sx.toNat * 2 ^ 8 + f.imm.toNat))
  | .st f => some (encB 0x21 f.i f.g f.d.toNat f.a.toNat (f.sz.toNat * 2 ^ 9 + f.imm.toNat))
  | .ldx f => some (encA 0x22 f.i f.g f.d.toNat f.a.toNat f.b.toNat (f.sc.toNat * 2 ^ 3 + f.sx.toNat * 2 ^ 2 + f.sz.toNat))
  | .stx f => some (encA 0x23 f.i f.g f.d.toNat f.a.toNat f.b.toNat (f.sc.toNat * 2 ^ 3 + f.sz.toNat))
  | .yadd f => some (encR3 0x24 0 f)
  | .ysub f => some (encR3 0x24 1 f)
  | .yshl f => some (encR3 0x24 2 f)
  | .yshr f => some (encR3 0x24 3 f)
  | .yand f => some (encR3 0x24 4 f)
  | .yaddi f => some (encB 0x25 f.i f.g f.d.toNat f.a.toNat f.imm.toNat)
  | .atom f op => some (encAtom 0x26 (f.ord.code * 2 ^ 4 + f.dbl.toNat * 2 ^ 3 + op.code) f)
  | .aswp f => some (encAtom 0x27 (f.ord.code * 2 ^ 3 + f.dbl.toNat * 2 ^ 2 + 0) f)
  | .acas f => some (encAtom 0x27 (f.ord.code * 2 ^ 3 + f.dbl.toNat * 2 ^ 2 + 1) f)
  | .ald i g d a o z => some (encA 0x27 i g d.toNat a.toNat 0 (o.code * 2 ^ 3 + z.toNat * 2 ^ 2 + 2))
  | .ast i g a b o z => some (encA 0x27 i g 0 a.toNat b.toNat (o.code * 2 ^ 3 + z.toNat * 2 ^ 2 + 3))
  | .phase g s => some (encA 0x28 false g 0 0 s.code 0)
  | .fence g k => some (encA 0x28 false g 0 0 k.code 1)
  | .pref f l => some (encA 0x28 f.i f.g 0 f.a.toNat l.code 2)
  | .flsh f => some (encR1 0x28 3 f)
  | .invl f b => some (encA 0x28 f.i f.g 0 f.a.toNat b.toNat 4)
  | .ymov f => some (encMov 0x29 f)
  | .vld f => some (encA 0x2A f.i f.g f.d.toNat f.a.toNat 0 (f.k.toNat * 2 ^ 3 + 0))
  | .vst f => some (encA 0x2A f.i f.g f.d.toNat f.a.toNat 0 (f.k.toNat * 2 ^ 3 + 1))
  | .vlds f b => some (encA 0x2A f.i f.g f.d.toNat f.a.toNat b.toNat (f.k.toNat * 2 ^ 3 + 2))
  | .vsts f b => some (encA 0x2A f.i f.g f.d.toNat f.a.toNat b.toNat (f.k.toNat * 2 ^ 3 + 3))
  | .vgath f b => some (encA 0x2A f.i f.g f.d.toNat f.a.toNat b.toNat (f.k.toNat * 2 ^ 3 + 4))
  | .vscat f b => some (encA 0x2A f.i f.g f.d.toNat f.a.toNat b.toNat (f.k.toNat * 2 ^ 3 + 5))
  | .mma f m => some (encTile 0x2C f m.code 0)
  | .tzero g a => some (encE 0x2D g a.toNat 0 0 0 0 0)
  | .tload f => some (encTile 0x2D f 0 1)
  | .tstore f => some (encTile 0x2D f 0 2)
  | .ttrp f => some (encTile 0x2D f 0 3)
  | .tadd f i => some (encTile 0x2D f (if i then 7 else 0) 4)
  | .twm g a b => some (encE 0x2D g a.toNat b.toNat 0 0 0 5)
  | .twait g a b r => some (encE 0x2D g a.toNat b.toNat r.toNat 0 0 6)
  | .tfence g => some (encE 0x2D g 0 0 0 0 0 7)
  | .cpyMm f => some (encCopy f 0x00)
  | .cpyMr f => some (encCopy f 0x10)
  | .cpyMs f => some (encCopy f 0x20)
  | .cpySm f => some (encCopy f 0x30)
  | .subs f => some (encCopy f 0x02)
  | .drn f => some (encCopy f 0x03)
  | .wload f => some (encCopy f 0x04)
  | .wloadZb32 f => some (encCopy f 0x14)
  | .cpyr f op => some (encCopy f (op.code * 2 ^ 4 + 1))
  | .subsCancel g ch => some (encCE g 0 0 0 ch.toNat 0x12)
  | .cwait g ch => some (encCE g 0 0 0 ch.toNat 0x05)
  | .cfixRetry g ch => some (encCE g 0 0 0 ch.toNat 0x07)
  | .cfixSkip g ch => some (encCE g 0 0 0 ch.toNat 0x17)
  | .cwaitWm g a ch => some (encCE g a.toNat 0 0 ch.toNat 0x15)
  | .cstat g a ch => some (encCE g a.toNat 0 0 ch.toNat 0x06)
  | .cstatWm g a ch => some (encCE g a.toNat 0 0 ch.toNat 0x16)
  | .cfixPatch g a ch => some (encCE g a.toNat 0 0 ch.toNat 0x27)
  | .sld g d a o => some (encS g d.toNat a.toNat o.toNat)
  | .ssetB g d v => some (encS g d.toNat 0 (0x400 + v.toNat))
  | .ssetSh g d a v => some (encS g d.toNat a.toNat (0x500 + v.toNat))
  | .smov g d a => some (encS g d.toNat a.toNat 0x800)
  | .vadd f => some (encV3 0x30 0 f)
  | .vsub f => some (encV3 0x30 1 f)
  | .vmul f => some (encV3 0x30 2 f)
  | .vfma f => some (encV3 0x30 3 f)
  | .vmin f => some (encV3 0x30 4 f)
  | .vmax f => some (encV3 0x30 5 f)
  | .vabsd f => some (encV3 0x30 6 f)
  | .vdiv f => some (encV3 0x30 7 f)
  | .vsqrt f => some (encV2 0x31 0 0 f)
  | .vexp2 f => some (encV2 0x31 1 0 f)
  | .vlog2 f => some (encV2 0x31 2 0 f)
  | .vneg f => some (encV2 0x31 3 0 f)
  | .vabs f => some (encV2 0x31 4 0 f)
  | .vscale f => some (encV3 0x31 5 f)
  | .vmulh f => some (encV3 0x31 6 f)
  | .vadds f => some (encV3 0x31 7 f)
  | .vand f => some (encV3 0x32 0 f)
  | .vor f => some (encV3 0x32 1 f)
  | .vxor f => some (encV3 0x32 2 f)
  | .vandn f => some (encV3 0x32 3 f)
  | .vshl f => some (encV3 0x32 4 f)
  | .vshr f => some (encV3 0x32 5 f)
  | .vsra f => some (encV3 0x32 6 f)
  | .vrotl f => some (encV3 0x32 7 f)
  | .vcmp f => some (encV 0x33 f.i f.k.toNat f.d.toNat f.a.toNat f.b.toNat f.t.code f.cc.code)
  | .vperm f => some (encV3 0x34 0 f)
  | .vslide f dn e => some (encV2 0x34 1 (dn.toNat * 2 ^ 4 + e.toNat) f)
  | .vbcast f l => some (encV2 0x34 2 l.toNat f)
  | .viota i k d t => some (encV 0x34 i k.toNat d.toNat 0 0 t.code 3)
  | .vcmpr f => some (encV2 0x34 4 0 f)
  | .vexpd f => some (encV2 0x34 5 0 f)
  | .vzip f => some (encV3 0x34 6 f)
  | .vunzip f => some (encV2 0x34 7 0 f)
  | .vclmul f => some (encV3 0x35 0 f)
  | .vclmulh f => some (encV3 0x35 1 f)
  | .vpopc f => some (encV2 0x35 2 0 f)
  | .vclz f => some (encV2 0x35 3 0 f)
  | .vctz f => some (encV2 0x35 4 0 f)
  | .vmsb f => some (encV2 0x35 6 0 f)
  | .vsel f => some (encV3 0x35 5 f)
  | .vktov i d a t => some (encV 0x35 i 0 d.toNat a.toNat 0 t.code 7)
  | .vredadd f => some (encV2 0x36 0 0 f)
  | .vredmin f => some (encV2 0x36 1 0 f)
  | .vredmax f => some (encV2 0x36 2 0 f)
  | .vredand f => some (encV2 0x36 3 0 f)
  | .vredor f => some (encV2 0x36 4 0 f)
  | .vredxor f => some (encV2 0x36 5 0 f)
  | .vsumx i k d a => some (encV 0x36 i k.toNat d.toNat a.toNat 0 11 6)
  | .vsumxc i d a => some (encV 0x36 i 0 d.toNat a.toNat 0 11 7)
  | .vcvt f => some (encV 0x37 f.i f.k.toNat f.d.toNat f.a.toNat (f.sat.toNat * 2 ^ 4 + f.dst.code) f.src.code f.rm.code)
  | .vrand i k d a b => some (encV 0x38 i k.toNat d.toNat a.toNat b.toNat 6 0)
  | .kand d a b t => some (encV 0x39 false 0 d.toNat a.toNat b.toNat t.code 0)
  | .kor d a b t => some (encV 0x39 false 0 d.toNat a.toNat b.toNat t.code 1)
  | .kxor d a b t => some (encV 0x39 false 0 d.toNat a.toNat b.toNat t.code 2)
  | .knot d a t => some (encV 0x39 false 0 d.toNat a.toNat 0 t.code 3)
  | .kmov d a t => some (encV 0x39 false 0 d.toNat a.toNat 0 t.code 4)
  | .kpopc i d a p t => some (encV 0x39 i 0 d.toNat a.toNat p.toNat t.code 5)
  | .kfirst i d a p t => some (encV 0x39 i 0 d.toNat a.toNat p.toNat t.code 6)
  | .vmovi i k d imm t => some (0x3A * 2 ^ 26 + encI i + k.toNat * 2 ^ 22 + d.toNat * 2 ^ 17 + imm.toNat * 2 ^ 7 + t.code * 2 ^ 3)
  | .vext i a l (.x r) => some (encV 0x3B i 0 r.toNat a.toNat l.toNat 8 0)
  | .vext i a l (.y r) => some (encV 0x3B i 0 r.toNat a.toNat l.toNat 8 1)
  | .vext i a l (.m r) => some (encV 0x3B i 0 r.toNat a.toNat l.toNat 8 2)
  | .vext i a l (.c r) => some (encV 0x3B i 0 r.toNat a.toNat l.toNat 8 3)
  | .bnop r s => some (0x3F * 2 ^ 26 + r.toNat * 2 ^ 17 + s.toNat * 2 ^ 16)
  | .asyncTrapEntry _ | .loadReply _ _ | .storeProbeReply _ _ | .atomicReply _ _ | .interrupt | .issueQuotaSwitch
  | .evictionRequest _ | .evictionTimeout _ | .strandStart _ | .resumeWrite _ | .partitionWrite _ _ _
  | .ringConfigWrite _ _ | .ringSlotComplete _ _ | .tileDispatch | .tileRowFinal _ | .tileOpRetire _
  | .copyRowComplete _ _ _ | .copyFault _ _ _ _ _ _ | .subscriptionClaim _ _ | .drainSlotPop _ _
  | .decompressorGrant _ _ | .icacheFill _ | .cacheWriteback _ _ _ | .storeSector _ | .remoteAck _ _ _ _
  | .ackTimeout _ | .atomicPerform _ | .remoteReadRequest _ | .remoteReadReply _ _ | .copyRowSegment _
  | .hbmEccError _ _ | .coreStorageError _ _ _ | .tlbInvalidate _ | .tlbInvalidateDone | .asidSweep _
  | .asidSweepDone | .carveResize _ | .carveResizeDone | .frameFree _ | .frameQuery _ | .frameScrubDone _
  | .keyGenerate _ | .keyDestroy _ | .keyDestroyDone | .mapArm _ | .mapWithdraw _ | .mapCommandDone | .mapRead _
  | .launchQueueConfig _ _ | .queueAreaConfig _ | .queueRingSwap _ _ | .launchWindowWrite _ _ _ | .doorbell _ _ _
  | .doorbellReset _ _ _ | .launchTake | .launchStart | .sublaunchCreate _ | .sublaunchEnded _ _ _ _
  | .launchComplete _ | .launchRetire _ | .faultEntry _ | .faultResume _ | .faultFail _ | .shootDown _
  | .shootDownRange _ | .shootDownAck | .functionLevelReset _ | .flrComplete _ | .msiSignal _ | .attestRequest _ _
  | .packageReset _ | .deviceReset | .machineCheck _ _ | .thermalThrottle _ | .marginRound | .engineMarginTest _ _
  | .bitmapInstall | .bankMarginTest _ _ | .bankDemotionApply _ | .channelMarginTest _ _ | .channelRetire _
  | .prismTranslate _ _ | .pavaneTableLoad _ | .pavaneDisable _ | .pavaneHeadEval | .pavaneOutput _ | .pavaneCredit _
  | .portBindWrite _ _ _ | .portMessageArrive _ | .portCredit _ _ _ | .groupLoad _ | .darkSet | .darkClear
  | .jobCounterClear _ | .quietWaveStart _ | .quietWaveVisit _ | .quietDeclaration _ | .jsetArrive _ _
  | .markerArrive _ _ | .linkFlitReceive _ _ | .replayRequest _ _ | .wavelengthDead _ _ _ | .linkRelock _
  | .relockDone _ _ | .registerWrite _ _ _ | .illegalInstruction _ _ _ | .illegalBundle _ _ _ | .fetchBoundTrap _ _ _
  | .noRouteReachesMember _ | .acknowledgementRequest _ => none

/-- The word of an instruction; none for an event. -/
def encode (i : Instr) : Option Word32 := (encodeNat i).map (BitVec.ofNat 32)

end Sys2Proof
end

