-- ==== Sys2Proof/Machine/State.lean ====
section
/-! DEFINITION. The state of the machine as plain data: one core with its five contexts, its cluster, its die, its
package block and its fabric interface (log 5), and the state after reset. INVENTORY.md lists every field with its rule. -/

namespace Sys2Proof.Machine

/-- Why the machine stops. -/
inductive Fault
  /-- Raised by `step` once a machine check has halted the package (R314): only a package reset leaves STAGE 7. Safe. -/
  | halted
  deriving DecidableEq, Repr

/-- Why an instruction has no meaning. -/
inductive Refusal
  /-- Raised by an arm of `exec` whose instruction is not modelled yet. Safe. -/
  | notModelled (mnemonic : String)
  deriving DecidableEq, Repr

/-- A sparse map: pairs in rising key order, no entry at the default value. -/
abbrev SMap (α : Type) := List (Nat × α)

/-- Memory: (address, byte) pairs, addresses rising, no entry equal to 0, which is what an unlisted byte reads as (log 2). -/
abbrev Memory := List Host.Cell

/-! ### The context -/

/-- Eight 32-bit fields: one copy of a shape register (R50) or a copy-pattern register (R171). -/
abbrev Rec8 := Vector Word32 8

/-- A register write on its way (R53 land, R58). X and Y indices 32 to 37 are the handler bank (R65). -/
inductive Write
  | x (r : Fin 38) (v : Word)
  | y (r : Fin 38) (v : Word)
  /-- A load or atomic result: `raw` gathers the bytes, `n` is its length, `sx` asks for sign extension. -/
  | yload (r : Fin 38) (raw : Vec) (n : Nat) (sx : Bool)
  /-- The bits of `v[r]` that `en` selects. -/
  | v (r : Fin 32) (en val : Vec)
  | k (r : Fin 8) (v : Mask)
  | m (r : Fin 16) (v : Word)
  | c (r : Fin 16) (v : Word)
  | e (r : Fin 32) (v : Word)
  | p (r : Fin 16) (v : Bool)
  | base (b : Base) (v : Word)
  | shape (r : Fin 4) (f : ShapeField) (v : Word32)
  | pattern (r : Fin 8) (f : PatField) (v : Word32)
  /-- A flag set, ORed in (R55). -/
  | flags (v : BitVec 5)
  /-- An MTS to FFLAGS, TRAP_CAUSE or TRAP_PC. -/
  | fflags (v : BitVec 5)
  | trapCause (v : Word)
  | trapPc (v : Word)
  deriving DecidableEq, Repr

/-- A result in flight: it lands `off` context cycles from now; `need` lists the requests whose bytes it awaits. -/
structure Pend where (id off : Nat) (w : Write) (need : List Nat)
  deriving DecidableEq, Repr

/-- A pending control transfer (R58, R87). -/
structure Xfer where (target : Word) (ret : Bool)
  deriving DecidableEq, Repr

/-- One hardware loop level (R89, R90). -/
structure LoopLevel where (act : Bool) (start fin : Word) (rem : Nat)
  deriving DecidableEq, Repr

/-- The data of a trap record (R62, R394). -/
structure TrapRec where (cause sub slot : Nat) (word addr : Word) (opd : Vector Word 8)
  deriving DecidableEq, Repr

/-- An asynchronous trap that waits for a bundle boundary (R64): the captured scale registers and recipe belong to a capability miss (R205, R208);
`op` is the number of its tile operation, by which errors keep fork order (R224). -/
structure Async where (trap : TrapRec) (caps : Option (Vector Word 32)) (op : Nat) (recipe : BitVec 3)
  deriving DecidableEq, Repr

/-- Where a strand stands in R22. -/
inductive Stage | prologue | kernel | epilogue
  deriving DecidableEq, Repr

/-- The identity of the strand that a context holds (R19, R21, R305, R326). `task` is the Pavane entry index. -/
structure Strand where
  (asid : BitVec 13) (vf : BitVec 6) (prio : BitVec 3) (job : BitVec 12) (lrec : Nat) (lcore : BitVec 16)
  (iter : Word32) (idx : BitVec 20) (point : Word32) (launch : Word) (pinned : Bool) (task : Option Nat) (stage : Stage)
  (recAddr : Nat)
  deriving DecidableEq, Repr

/-- A region-abort fault: the address, the order of the R245 check and its SUB (R26, R299). -/
structure AbortInfo where (addr : Word) (order sub : Nat)
  deriving DecidableEq, Repr

/-- A sector of the phase buffer (R96); `uncached` once the home on another die has answered that its page is not cached (R244; log 17). -/
structure BufSector where (mask : BitVec 32) (data : Sector) (uncached : Bool)
  deriving DecidableEq, Repr

/-- Recorded Pavane requests of a region (R328). -/
structure PavReqs where (post stash take : Option Word)
  deriving DecidableEq, Repr

/-- What follows the close of a region (R73, R106). -/
inductive After | phase | yield | susp | done
  deriving DecidableEq, Repr

/-- How far an atomic that waits has come (R103, R104): its check at the home on another die, the release, the acknowledgements. -/
inductive AtomicStage | check (tag : Nat) | release | acks
  deriving DecidableEq, Repr

/-- How a strand leaves its context: evicted to its queued record (R31), to the fault service with the fault and TRAP_CAUSE (R26), or at its end
(R15, R29). -/
inductive Leave | evict | fault (a : AbortInfo) (cause : Word) | over
  deriving DecidableEq, Repr

/-- A wait of a context after its bundle has issued (R73, R104, R106, R108, R181, R233, R359). -/
inductive Wait
  | close (scope : Scope) (after : After)
  | atomic (d : Fin 38) (ea w e : Word) (f : BitVec 6) (axch : Bool) (ord : AOrd) (n : Nat) (stage : AtomicStage)
  | fence (kind : FenceKind)
  | channel (ch : Fin 8) (bound : Option Word)
  | tile (t : Nat) (rows : Option Nat)
  | allTiles
  | acks (rwait : Bool)
  | quiet (after : Nat)
  | request (tag : Nat)
  | acquire (tag : Nat)
  | finish
  | evict
  | eret
  | leave (l : Leave)
  deriving DecidableEq, Repr

/-- Bytes of a reply that a load takes: where they stand in it, how many, and their place in the result. -/
structure LoadPart where (at_ len pos : Nat)
  deriving DecidableEq, Repr

/-- What a request to another die asks: a load, with CL_REFCNT at its request while its bytes may fill the caches (R211); the probe of a store, an
atomic, the check of an atomic before its release publishes. `seals`: the atomic sealed the region when it was sent. -/
inductive ReqKind | load (parts : List LoadPart) (fc : Option Word) | probe | atomic (seals : Bool) | check
  deriving DecidableEq, Repr

/-- An outstanding request to another die: the result in flight that its bytes go to, how many come, and from which address. -/
structure Req where (tag pend len : Nat) (addr : Word) (kind : ReqKind)
  deriving DecidableEq, Repr

/-- Who makes a request: the service context has no strand (R134); its address space is ASID 0 (log 12). `record` is the record address of the strand,
which names it wherever it runs (R19, R28), 0 for none. -/
structure Who where (svc : Bool) (asid : BitVec 13) (vf : BitVec 6) (job : BitVec 12) (record : Nat)
  deriving DecidableEq, Repr

/-- The state of a copy channel (R169, R182). -/
inductive ChanState | idle | running | stopped | standing | cancelling
  deriving DecidableEq, Repr

/-- The kinds of channel operation (R173). -/
inductive ChanOp
  | mm | mr | ms | sm | red (op : RedOp) | subs | drn | wload | zb32
  deriving DecidableEq, Repr

/-- A part of a row asked of another die: the request, where in the row, how many bytes. -/
structure RowReq where (tag pos len : Nat)
  deriving DecidableEq, Repr

/-- A row sent to another die and not acknowledged: its serial (R355 kind 3). -/
structure SentRow where (row serial : Nat) (die : BitVec 12)
  deriving DecidableEq, Repr

/-- A copy channel (R169 to R188). Rows are numbered in pattern order: the first `complete` of `rows` are complete, `done` lists
those complete beyond. `held` names the slots claimed or popped for each inner step, `sent` the rows on their way to other dies.
`row`, `off`, `bad` (order × 256 + SUB of R245), `faultAddr` and `srcSide` describe the last fault; a WLOAD has written `out` bytes of `row`.
`parked`: the row waits at a fault service. `asked` and `buf` hold what row `next` has asked of other dies; for a ZB32 stream `next` is the place
in it and `rowAt` that of the row. `patch` is the address of a CFIX.PATCH. `who` and `frame` are the identity and the Mirror frame captured at
the fork (R169, R206); `cancel` marks a cancelled
subscription, `installed` one on its controller, and `ctrl` is the controller that carries a subscription or drain (R177, R308). -/
structure Chan where
  (state : ChanState) (op : ChanOp) (fault : Nat) (wm : Word) (word : Word32) (ca cb : Word) (patNo : BitVec 3) (pat : Rec8)
  (complete rows : Nat) (done : List Nat) (held : List (Nat × Nat)) (sent : List SentRow) (row off bad : Nat) (faultAddr : Word)
  (parked srcSide region : Bool) (patch : Option Word) (asked : List RowReq) (buf : List Byte) (next : Nat)
  (who : Who) (frame : Option Nat) (cancel installed : Bool) (ctrl : Option Nat) (out rowAt : Nat)
  deriving DecidableEq, Repr

/-- A message in an arrival queue (R343): `partly` once a region has freed some word of it. -/
structure Arrived where (src : UnitId) (job : BitVec 12) (words : List Word) (partly : Bool)
  deriving DecidableEq, Repr

/-- A port (R339, R340, R343): its binding, the words pushed in the region, the sent messages not accepted, the arrival
queue, how many of its words the region has read, and the job of the unsent messages. -/
structure Port where
  (bound dep : Bool) (peer : UnitId) (cred : Nat) (pushed : List Word) (unsent : List (List Word)) (queue : List Arrived)
  (read : Nat) (job : BitVec 12)
  deriving DecidableEq, Repr

/-- The checkpoint of the open region (R23). -/
structure Checkpoint where (rpc : Word) (rnat : Bool) (live : Vector Word 5)
  deriving DecidableEq, Repr

/-- One context of the core (R54 to R68, R24, R169, R339). -/
structure Ctx where
  x : Vector Word 38
  y : Vector Word 38
  v : Vector Vec 32
  k : Vector Mask 8
  m : Vector Word 16
  c : Vector Word 16
  e : Vector Word 32
  p : Vector Bool 16
  h : Vector Rec8 4
  shadow : Vector Rec8 4
  g : Vector Rec8 8
  xb : BitVec 5
  yb : BitVec 5
  vb : BitVec 5
  cb : BitVec 4
  fflags : BitVec 5
  ccyc : Word
  hcyc : Word
  /-- Results in flight of the strand, in issue order, and of the handler (R58, R65). -/
  pend : List Pend
  hpend : List Pend
  xfer : Option Xfer
  hxfer : Option Xfer
  loops : Vector LoopLevel 2
  hloops : Vector LoopLevel 2
  trapCause : Word
  trapPc : Word
  trapNpc : Word
  trapWord : Word
  trapAddr : Word
  trapVec : Word
  trapOpd : Vector Word 8
  /-- CTX_STAT.XFER, NAT and HM (R62), and the address recorded at entry (R66). -/
  xferAt : Bool
  entryPc : Word
  nat : Bool
  hm : Bool
  /-- Held for the service context, for cause 5 or 9 (R67). -/
  svcHeld : Bool
  /-- Held on data (R57), and at the end of its waits, when the selector last looked (R132). -/
  onData : Bool
  waitOver : Bool
  pc : Word
  /-- The last bundle or word of the strand that has issued, in the layout of TRAP_PC: a wait of it that ends in a fault is recorded there (R352). -/
  lastPc : Word
  asyncs : List Async
  /-- A region-abort or strand fault found by an engine, taken at the next bundle boundary (R230). -/
  boundary : Option AbortInfo
  strand : Option Strand
  /-- The record for which the context is reserved (code 8, R136). -/
  reserved : Option Nat
  quota : Nat
  ckpt : Checkpoint
  /-- The first number of an operation forked in the open region. -/
  regTag : Nat
  sealed : Bool
  first : Bool
  buf : SMap BufSector
  pav : PavReqs
  waits : List Wait
  /-- Waits of the strand set aside while its handler runs (R64, R181). -/
  aside : List Wait
  reqs : List Req
  /-- An unreachable peer found for sectors already sent (R352): address and count. -/
  lost : Option (Word × Nat)
  /-- The die cycle of a request for eviction not yet met (R31). -/
  evict : Option Nat
  view : Word
  mirrorCount : Word32
  mirrorRecipe : BitVec 3
  mirrorAct : Bool
  /-- Masks in force at the capability miss being served, and the placeholder (R205, R207). -/
  mirrorOp : Nat
  capE : Vector Word 32
  svcTile : Word
  /-- The operation forked most recently on the service tile (R144). -/
  svcLast : Nat
  outst : Word32
  /-- Unacknowledged sectors of the context by destination die, oldest first (R272). -/
  streams : List (BitVec 12 × Word)
  chans : Vector Chan 8
  ports : Vector Port 16
  deriving DecidableEq, Repr

/-! ### The core -/

/-- A ring (R139 to R142, R326): the slots done out of order, those filled by a peer's PVPOST, the reservations, the tail at the start of its
consumer's region (R142), and the slot of a peer's message whose segments are still coming. -/
structure Ring where
  (en : Bool) (err : BitVec 3) (ctx : BitVec 2) (cons : Bool) (z : BitVec 3) (nslot : BitVec 12) (slot : BitVec 8) (base : BitVec 13)
  (head tail filled held free : Nat) (done : List Nat) (posted : List (Nat × BitVec 12)) (rsv start : Nat) (incoming : Option Nat)
  deriving DecidableEq, Repr

/-- A row watermark register (R144). -/
structure AccWm where (cover lastm infl wm : Nat)
  deriving DecidableEq, Repr

/-- The kinds of tile operation (R222). -/
inductive TileKind | mma (fmt : MmaFmt) | zero | load | store | transpose | addF32 | addI32
  deriving DecidableEq, Repr

/-- A tile operation in flight: the dispatch record of R198 and its progress. `dst` and `src` are physical tiles; `svc` says
that the destination is the service tile of Mirror; `engine` is the engine steered to, and `steered` orders its queue (R200); `who` and `frame`
are the identity and the Mirror frame captured at the fork. -/
structure TileRec where
  (id : Nat) (ctx : Fin 4) (kind : TileKind) (word : Word32) (ma mb : Word) (h : BitVec 2) (swap : Bool) (shape : Rec8)
  (scales : Vector Word 32) (aSlot bSlot : Option (Nat × Nat)) (dst : Nat) (src : Option Nat) (svc : Bool) (count row : Nat)
  (engine : Option Nat) (placeholder region mirror : Bool) (result : Option (List Word32)) (asked : List RowReq) (buf : List Byte)
  (who : Who) (frame : Option Nat) (steered : Nat)
  deriving DecidableEq, Repr

/-- A sector of L1 (R147): its valid and dirty bytes, the contexts that published dirty ones, its tenant and job. -/
structure L1Sector where (data : Sector) (valid dirty : BitVec 32) (by_ : BitVec 5) (vf : BitVec 6) (job : BitVec 12) (poison : Bool)
  deriving DecidableEq, Repr

/-- A storage error found and not yet met by a reader (R150). -/
structure CoreFlaw where (place : CorePlace) (idx : Nat)
  deriving DecidableEq, Repr

/-- A sector on its way to another die and not acknowledged (R272, R352): its logical die, the context it counts for, its address and its key in
the caches. -/
structure Flight where (die : BitVec 12) (ctx : Fin 5) (addr : Word) (key : Nat) (job : BitVec 12) (counted : Bool)
  deriving DecidableEq, Repr

/-- A core (R131 to R151). Caches are keyed by ASID × 2^59 + sector number. -/
structure Core where
  ctxs : Vector Ctx 5
  cur : Fin 5
  /-- An interrupt is pending for the service context; it serves one, and then selection resumes with `resumeAt` (R133); it has a program of
  its own to run outside an interrupt (R134; log 16). -/
  irq : Bool
  serving : Bool
  resumeAt : Fin 5
  svcRun : Bool
  banks : Vector (BitVec 2) 24
  demotions : List Nat
  spad : Memory
  coreErr : Word
  svcEn : Bool
  selReg : BitVec 2
  partA : Vector Word 4
  partB : Vector Word 4
  arenaBase : Vector Word 4
  arenaBound : Vector Word 4
  die : BitVec 2
  cluster : BitVec 4
  core : BitVec 3
  rings : Vector Ring 32
  acc : SMap Word32
  accWm : Vector AccWm 48
  /-- The operation forked most recently on each tile (R144). -/
  accLast : Vector Nat 48
  ops : List TileRec
  wbuf : Memory
  l1 : SMap L1Sector
  icache : SMap Vec
  flaws : List CoreFlaw
  /-- Lantern has retired the core, which the loader then avoids (R20, R151). -/
  retired : Bool
  /-- Corrected storage errors (R151). -/
  fixed : Nat
  /-- Rings that an abort restores in the core cycle that comes next: the context, the ring, HELD before (R390). -/
  restored : List (Fin 5 × Fin 32 × Nat)
  /-- The core's streams (R272): sectors unacknowledged, oldest first, and the cumulative count acknowledged of each die. -/
  flying : List Flight
  acked : SMap Nat
  deriving DecidableEq, Repr

/-! ### The cluster -/

/-- An engine (R196, R201, R202). -/
structure Engine where (tests : BitVec 16) (queued : Nat) (state : BitVec 2) (bmap : BitVec 8) (next : Option (BitVec 8))
  deriving DecidableEq, Repr

/-- A sector of L2 (R210, R211): valid and dirty bytes, those sent to a home on another die and not acknowledged (R268), fill count, the tenant
and job that allocated it, and the way it stands in. -/
structure L2Sector where
  (data : Sector) (valid dirty out : BitVec 32) (fc : Word) (vf : BitVec 6) (job : BitVec 12) (poison : Bool) (way : Nat)
  deriving DecidableEq, Repr

/-- A cluster (R195 to R215). -/
structure Cluster where
  engines : Vector Engine 16
  refcnt : Word
  install : Word32
  prismPend : BitVec 16
  prismEn : Bool
  frames : Vector Word 4
  l2 : SMap L2Sector
  /-- The core whose WLOADs the decompressor granted last (R212). -/
  grant : Nat
  deriving DecidableEq, Repr

/-! ### The memory of the die -/

/-- The tags of a 32-byte sector: key slot and generation of the last write (0 none), mapping epoch, poison (R254, R261,
R263). A sector whose zero tag is set (R259) is one with no byte and no tag listed. -/
structure SecTag where (key epoch : Nat) (poison : Bool)
  deriving DecidableEq, Repr

/-- A key slot (R261): 0 empty, 1 live, 2 sweeping; owner; generation. -/
structure KeySlot where (state : BitVec 2) (vf : BitVec 6) (gen : Nat)
  deriving DecidableEq, Repr

/-- A mapping region (R252, R253), with its installed matrix. -/
structure Region where (state : BitVec 2) (mode : Bool) (limit base : BitVec 3) (matrix : Vector Word32 32)
  deriving DecidableEq, Repr

/-- An entry of the memory-side TLB (R248). -/
structure TlbEntry where (asid : BitVec 13) (page size : Nat) (pte : Word)
  deriving DecidableEq, Repr

/-- The memory side of the die (R241 to R265). -/
structure DieMem where
  mem : Memory
  tags : SMap SecTag
  asidt : Word
  tlbinv : Word
  tlbDone : Bool
  sweep : BitVec 13
  sweepDone : Bool
  carveWays : BitVec 4
  carveBusy : Bool
  carveNext : BitVec 4
  scrub : List Nat
  retired : List Nat
  dumpSet : Bool
  refused : Bool
  lastRet : Bool
  lastPend : Bool
  frameReg : Word
  keyReg : Word
  keyDone : Bool
  keyLast : BitVec 6
  keys : Vector KeySlot 64
  chan0 : Word
  chan1 : Word
  merr : Word
  code : Word
  mapReg : Word
  mapRank : BitVec 8
  mapCode : BitVec 8
  /-- A mapping command is pending (R254); a write then sets CODE 6. -/
  mapBusy : Bool
  /-- For each 16 GiB block of HBM the region that was armed over it last, and the epoch of its contents: bytes of an earlier one are undefined (R254). -/
  blocks : Vector (Fin 8 × Nat) 8
  regions : Vector Region 8
  stage : Vector Word 16
  tlb : List TlbEntry
  /-- ROOT and VF of the ASID table entries in force: only an invalidation makes a change of them take effect (R246). -/
  roots : SMap Word
  /-- Recent uncorrectable errors: sector, frame, channel, die cycle (R263). -/
  errors : List (Nat × Nat × Nat × Nat)
  deriving DecidableEq, Repr

/-! ### Launching and tenancy -/

/-- A launch queue (R288, R293): `slot` is the place of a resident ring in the queue area, in units of 64 KiB. -/
structure Queue where
  (en frozen swap : Bool) (vf : BitVec 6) (log2n : BitVec 5) (base : BitVec 33) (tail head ret : Word32) (pend : Nat)
  (status : List (Nat × Nat)) (slot : Nat)
  deriving DecidableEq, Repr

/-- The state of a launch of the pool (R289, R294, R293). -/
inductive LaunchState | waiting | running | complete
  deriving DecidableEq, Repr

/-- A launch of the pool: identifier, tenant, record, die cycle of taking, state, sub-launches still running, strand faults, status, and the
die map that the job's entry named when the launch was taken (R297). -/
structure Launch where
  (id : Word) (vf : BitVec 6) (record : List Word) (taken : Nat) (state : LaunchState) (open_ : List Nat) (faults status dmap : Nat)
  deriving DecidableEq, Repr

/-- A sub-launch of this die: launch, die point, tenant, loop record, live strands, faults, status, the package and die of its home where
that is not this die, the ring records of its image (R385), where the image's data stands, and whether its kernel is queued for Prism (R214). -/
structure Sub where
  (id : Word) (d : Nat) (vf : BitVec 6) (job : BitVec 12) (lrec live faults status : Nat) (home : Option (BitVec 16 × BitVec 2))
  (rings : List (Word × Word)) (inits : List (List Byte)) (prism : Bool)
  deriving DecidableEq, Repr

/-- A sub-launch that waits for room in the code arena and the record space (R20): its message, bytes of code, number of strands. -/
structure HeldSub where (msg : SubMsg) (code strands : Nat)
  deriving DecidableEq, Repr

/-- A queued strand record (R34): its address, tenant, priority, die cycle of queueing, and the context it is pinned to. -/
structure QRec where
  (addr : Nat) (vf : BitVec 6) (prio : BitVec 3) (since : Nat) (place : Option (Fin 4)) (task : Option Nat) (stage : Stage)
  (idx : BitVec 20) (point : Word32) (launch : Word) (fresh : Bool)
  deriving DecidableEq, Repr

/-- What a fault queue entry stands for (R299): a record or a copy row that waits here, one that waits on another die, or nothing that
waits any longer. -/
inductive FaultKind | strand (tag : Nat) | copyRow (c : Fin 4) (ch : Fin 8) | stray | remote (fid : BitVec 16) (die : BitVec 2) (tag : Nat) (job : BitVec 12)
  deriving DecidableEq, Repr

/-- A fault queue entry (R299). -/
structure FaultEntry where (idx : Nat) (words : FaultWords) (kind : FaultKind)
  deriving DecidableEq, Repr

/-- A strand whose record waits at a fault service (R299), with the faulting address and TRAP_CAUSE at the fault (R302). -/
structure AwayRec where (tag : Nat) (q : QRec) (addr cause : Word)
  deriving DecidableEq, Repr

/-- A virtual function (R295, R301): `mask n` is DL_VMASK of cluster n. -/
structure VFn where
  (en flr enOff : Bool) (feat : BitVec 4) (qw cw bw : Byte) (vfb : Word) (log : Word) (head tail drop : Word32)
  (masks : Vector Word 12) (attest : Word)
  /-- Jobs that a function-level reset drains: job, newest wave at step 2 (R303). -/
  (drain : List (BitVec 12 × Nat))
  deriving DecidableEq, Repr

/-- The launch, tenancy and fault side of the die (R287 to R305). -/
structure DieLaunch where
  qarea : Word
  jobt : Word
  faultq : Word
  fres : Word
  shoot : Word
  shootDone : Bool
  shootWait : Nat
  /-- Acknowledgements owed for shot-down ranges: to this die itself or to another (R300). -/
  shootOwed : List (Option (BitVec 16 × BitVec 2))
  queues : SMap Queue
  turn : Nat
  pool : List Launch
  subs : List Sub
  held : List HeldSub
  records : List QRec
  away : List AwayRec
  faults : List FaultEntry
  vfs : SMap VFn
  msix : List (Option (BitVec 6) × Nat)
  dcyc : Word
  arenaNext : Nat
  recNext : Nat
  deriving DecidableEq, Repr

/-! ### The package -/

/-- A loaded entry of the Pavane table (R324): its four words. -/
structure PvEntry where (w0 w1 w2 w3 : Word)
  deriving DecidableEq, Repr

/-- A stash slot (R325): micro-batch, present, the entry that owns it, in order of allocation; its bytes where the stash
stands on another die of the package. -/
structure Stash where (slot : Nat) (mb : Word32) (present : Bool) (serial : Nat) (entry : Nat) (task : Nat) (away : List Byte)
  deriving DecidableEq, Repr

/-- The Pavane unit (R321 to R332). -/
structure Pavane where
  base : Word
  count : BitVec 9
  head : BitVec 9
  stashBase : Word
  stashSlots : Word
  up : Word
  down : Word
  upc : BitVec 13
  dnc : BitVec 13
  ten : Word
  arg : Word
  done : Bool
  stall : Bool
  block : BitVec 2
  err : BitVec 4
  run : Byte
  wraps : Word32
  bub : Vector Word 3
  table : List PvEntry
  stash : List Stash
  /-- A table has been loaded since EN was last clear (R321). -/
  loaded : Bool
  /-- Tasks started on other cores: the address of the record and the entry (R326). -/
  tasks : List (Nat × Nat)
  /-- Credits that have arrived, of either direction, with their job: those to be added, and those held until the dark interval ends (R329, R332). -/
  credits : List (Bool × BitVec 12)
  heldCredits : List (Bool × BitVec 12)
  deriving DecidableEq, Repr

/-- What Lantern is told: a core's storage error, with its kind and unit (R151); a service context's store beyond the code arena (R242). -/
inductive LanternCause | core (corrected : Bool) (kind unit : Nat) | arenaStore (o : Nat)
  deriving DecidableEq, Repr

/-- An event posted to Lantern, with the die cycle count and the package sequence number (R4, R151). -/
structure LanternEvent where (cause : LanternCause) (dcyc pseq : Word)
  deriving DecidableEq, Repr

/-- The package block and Lantern (R306 to R320). -/
structure Package where
  step : Byte
  seq : Word
  fail : Byte
  stage : BitVec 4
  /-- The failure at which the boot in progress stops, 0 for none (R309). -/
  bootFail : Byte
  /-- The version of the Lantern firmware, major × 256 + minor (R391). -/
  firmware : Nat
  /-- The replacement image that BAR0 took after a failed boot: offset and word (R309). -/
  image : List (Nat × Word)
  req : Bool
  causes : BitVec 3
  bxlost : Nat
  spadu : Nat
  chret : Nat
  lcyc : Word
  marginEn : Bool
  period : BitVec 16
  rounds : Word32
  /-- A round runs; the Lantern cycle at which it began; the engines, banks and channels that it has still to test; the banks and channels
  that are tested outside rounds (R310). -/
  roundOn : Bool
  roundAt : Nat
  /-- PERIOD was written during the round: it counts from the round's end (R320). -/
  roundNew : Bool
  roundEng : List Nat
  roundBank : List Nat
  roundChan : List Nat
  extraBank : List Nat
  extraChan : List Nat
  watts : BitVec 16
  evq : Word
  evhead : Word32
  evdrop : Word32
  evtail : Word32
  attest : Word
  /-- Reports written to host memory: function, address, words (R318). -/
  reports : List (Option (BitVec 6) × Word × List Word)
  /-- Requests in progress (R318). -/
  asking : List (Option (BitVec 6) × Word)
  /-- Clock in sixteenths of 2.25 GHz (R319). -/
  clock : Nat
  /-- Ladder states in flash: engine bitmaps, bank states, channel states (R311); dump headers (R316). -/
  flashEng : Vector (BitVec 8) 16
  flashBank : Vector (BitVec 2) 24
  flashChan0 : Word
  flashChan1 : Word
  flashCauses : BitVec 3
  /-- Ladder states of the package's other engines, banks and channels, which Lantern counts (R311, R313): an absent one is full. -/
  engElse : SMap (BitVec 8)
  bankElse : SMap Nat
  chanElse : SMap Nat
  /-- The other cores that Lantern has retired (R313), and for each controller of the package the entries of each kind that other cores hold (R308). -/
  coreElse : List Nat
  entryElse : SMap Nat
  /-- The configuration of rings of other cores, as RING_CFG reads (R139): an absent one is as reset leaves it. -/
  ringElse : SMap Word
  /-- An installation or state change of this Lantern cycle has not entered PK_SVC (R313). -/
  recount : Bool
  dumps : List (List Word)
  /-- Events posted to Lantern, oldest first. -/
  lantern : List LanternEvent
  halted : Option Byte
  /-- The body of the last dump stands in the dump area (R316); the machine checks after the one that halted the package (R314). -/
  dumpBody : Bool
  checks : Nat
  pv : Pavane
  deriving DecidableEq, Repr

/-! ### The fabric interface -/

/-- A declaration received (R349): quiet, wave number, flags. -/
structure Decl where (quiet : Bool) (number : Nat) (jflags : Word)
  deriving DecidableEq, Repr

/-- The counters of a job on this die (R346), its JFLAGS where this die is the leader's die 0 (R360), its last declaration,
the number of its waves begun, and the die cycle at which the last one began. -/
structure Job where (i c d : BitVec 48) (act : Bool) (jflags : Word) (decl : Option Decl) (waves began : Nat)
  deriving DecidableEq, Repr

/-- A quiet wave in progress at its leader (R349): the sum of its first pass, once that has ended. -/
structure Wave where (job : BitVec 12) (number : Nat) (sum1 : Int)
  deriving DecidableEq, Repr

/-- The state of a link (R359 LSTAT). -/
inductive LinkState | down | locking | up | degraded
  deriving DecidableEq, Repr

/-- A flit sent and not acknowledged: its sequence number, the flit, the fibre that it last went over (R353, R356). -/
structure SentFlit where (seq : BitVec 14) (flit : BitVec 576) (fibre : Nat)
  deriving DecidableEq, Repr

/-- A link (R353 to R359): the live masks of its transmit direction, what it is joined to, the next sequence numbers of both directions, the flits sent
and not acknowledged, the packet under assembly, markers of each job. -/
structure Link where
  state : LinkState
  masks : Vector (BitVec 16) 4
  /-- The wavelengths declared dead since the last Lantern cycle (R357). -/
  failing : Vector (BitVec 16) 4
  peerLink : BitVec 4
  peerFid : BitVec 16
  txSeq : BitVec 14
  rxSeq : BitVec 14
  replayBuf : List SentFlit
  /-- Flits of packets that wait for room in the replay buffer: type and payload (R356). -/
  queue : List (Nat × BitVec 512)
  /-- The fibre of the last flit (R353), the last number acknowledged to the peer, the last flit of a replay in progress (R363). -/
  turn : Fin 4
  ackSent : BitVec 14
  replaying : Option (BitVec 14)
  replays : Word
  crcErrors : Word
  asm_ : Option (BitVec 512 × List (BitVec 512))
  markers : SMap Nat
  /-- The flits sent on the link, each with its fibre. -/
  out : List (Nat × BitVec 576)
  deriving DecidableEq, Repr

/-- What a packet or control flit carries to another die (R355, R349, R359). -/
inductive Body
  | port (p : PortMsg) (dst : UnitId)
  | store (p : StoreMsg)
  | atomic (p : AtomicMsg)
  | row (p : CopyMsg)
  | pavane (p : PvMsg) (dst : UnitId)
  | pvCredit (job : BitVec 12) (up : Bool)
  | jset (job : BitVec 12) (bits : Word)
  | read (p : ReadMsg)
  | reply (job : BitVec 12) (dst : UnitId) (tag : Nat) (r : Reply)
  | atomReply (job : BitVec 12) (dst : UnitId) (tag : Nat) (r : Reply)
  | ack (job : BitVec 12) (dst : UnitId) (rows : Bool) (count serial : Nat)
  | ackRequest (src : UnitId)
  | credit (job : BitVec 12) (dst : UnitId) (words : Nat)
  | faultEntry (w : FaultWords) (tag : Nat) (job : BitVec 12)
  | resolution (tag : Nat) (resume : Bool) (job : BitVec 12)
  | shootRange (v : Word)
  | shootAck
  | sublaunch (p : SubMsg)
  | subEnded (id : Word) (d status faults : Nat) (job : BitVec 12)
  | marker (job : BitVec 12) (link : Nat)
  | wave (p : WaveMsg)
  | declaration (p : DeclMsg)
  /-- A packet that passes through: its header and data flits. -/
  | flits (h : BitVec 512) (data : List (BitVec 512))
  deriving DecidableEq, Repr

/-- A packet sent: the package and die it goes to, the flush bit, the body. -/
structure Packet where (fid : BitVec 16) (die : BitVec 2) (flush : Bool) (body : Body)
  deriving DecidableEq, Repr

/-- A stream received at this die (R272): sectors performed, of them those not yet acknowledged, the die cycle of the last one. -/
structure RStream where (performed unacked seen : Nat)
  deriving DecidableEq, Repr

/-- The fabric interface of the die (R339 to R363). -/
structure Fabric where
  fid : BitVec 16
  inc : Byte
  dark : Bool
  busy : Bool
  err : BitVec 4
  count : BitVec 10
  base : BitVec 34
  table : Option (List (BitVec 16))
  seq : Word32
  idx : BitVec 10
  qwint : Word32
  jobs : SMap Job
  waves : List Wave
  links : Vector Link 16
  /-- Members that no route reaches (R357). -/
  cut : List (BitVec 16)
  outbox : List Packet
  /-- Port credits held while DARK is set: context, port, words (R351). -/
  heldCreds : List (Fin 4 × Fin 16 × Nat)
  /-- The link that carries the packets for a package, plus 1, so that they stay in order (R270, R272, R273). -/
  via : SMap Nat
  /-- The jobs of which a QWAIT waits on another core (R349). -/
  qwaitElse : List (BitVec 12)
  rstreams : SMap RStream
  deriving DecidableEq, Repr

/-! ### The machine -/

/-- How the issue in progress stands: committed so far, held before its effects (R57), or trapped (R61). -/
inductive Verdict | ok | held | trapped
  deriving DecidableEq, Repr

/-- The bundle or portable word in issue: its address, the address after it in memory, the address of the word being executed,
that word, its slot number, whether the bundle holds a performed transfer (R107), and the first request number that its own words may use. -/
structure Issue where (addr next at_ : Word) (word : Word32) (slot : Nat) (hasXfer : Bool) (tags : Nat)
  deriving DecidableEq, Repr

/-- The machine. The last five fields are the model's own: the agenda of events to take (log 5), the counter of free values
(log 3), the counter that numbers requests and operations (log 5), the verdict and the issue record (log 7). -/
structure State where
  core : Core
  cl : Cluster
  dm : DieMem
  dl : DieLaunch
  pk : Package
  fi : Fabric
  agenda : List Event
  free : Nat
  tags : Nat
  verdict : Verdict
  issue : Issue
  deriving DecidableEq, Repr

/-! ### Reset (R54, and the Reset columns of R62, R76, R131, R195, R242, R287, R306, R321, R339; values not given: log 1) -/

def Rec8.zero : Rec8 := Vector.replicate 8 0
def LoopLevel.idle : LoopLevel := ⟨false, 0, 0, 0⟩
def UnitId.zero : UnitId := ⟨0, 0, 0, 0, 0⟩
def Port.reset : Port := ⟨false, false, UnitId.zero, 0, [], [], [], 0, 0⟩
def Chan.reset : Chan :=
  ⟨.idle, .mm, 0, 0, 0, 0, 0, 0, Rec8.zero, 0, 0, [], [], [], 0, 0, 0, 0, false, false, false, none, [], [], 0, ⟨false, 0, 0, 0, 0⟩, none, false,
    false, none, 0, 0⟩
def PavReqs.none : PavReqs := ⟨.none, .none, .none⟩
def Checkpoint.reset : Checkpoint := ⟨0, false, Vector.replicate 5 0⟩

/-- A context after device reset. -/
def Ctx.reset : Ctx where
  x := Vector.replicate 38 0
  y := Vector.replicate 38 0
  v := Vector.replicate 32 0
  k := Vector.replicate 8 0
  m := Vector.replicate 16 0
  c := Vector.replicate 16 0
  e := Vector.replicate 32 0
  p := Vector.replicate 16 false
  h := Vector.replicate 4 Rec8.zero
  shadow := Vector.replicate 4 Rec8.zero
  g := Vector.replicate 8 Rec8.zero
  xb := 0
  yb := 0
  vb := 0
  cb := 0
  fflags := 0
  ccyc := 0
  hcyc := 0
  pend := []
  hpend := []
  xfer := none
  hxfer := none
  loops := Vector.replicate 2 LoopLevel.idle
  hloops := Vector.replicate 2 LoopLevel.idle
  trapCause := 0
  trapPc := 0
  trapNpc := 0
  trapWord := 0
  trapAddr := 0
  trapVec := 0
  trapOpd := Vector.replicate 8 0
  xferAt := false
  entryPc := 0
  nat := false
  hm := false
  svcHeld := false
  onData := false
  waitOver := false
  lastPc := 0
  pc := 0
  asyncs := []
  boundary := none
  strand := none
  reserved := none
  quota := 0
  ckpt := Checkpoint.reset
  regTag := 0
  sealed := false
  first := false
  buf := []
  pav := PavReqs.none
  waits := []
  aside := []
  reqs := []
  lost := none
  evict := none
  view := 0
  mirrorCount := 0
  mirrorRecipe := 0
  mirrorAct := false
  mirrorOp := 0
  capE := Vector.replicate 32 0
  svcTile := 0
  svcLast := 0
  outst := 0
  streams := []
  chans := Vector.replicate 8 Chan.reset
  ports := Vector.replicate 16 Port.reset

def Ring.reset : Ring := ⟨false, 0, 0, false, 0, 0, 0, 0, 0, 0, 0, 0, 0, [], [], 0, 0, none⟩

/-- The core after reset; its position is fixed (log 6). -/
def Core.reset : Core where
  ctxs := Vector.replicate 5 Ctx.reset
  cur := 0
  irq := false
  serving := false
  resumeAt := 0
  svcRun := false
  banks := Vector.replicate 24 0
  demotions := []
  spad := []
  coreErr := 0
  svcEn := false
  selReg := 0
  partA := Vector.replicate 4 0
  partB := Vector.replicate 4 0
  arenaBase := Vector.replicate 4 0
  arenaBound := Vector.replicate 4 0
  die := 0
  cluster := 0
  core := 0
  rings := Vector.replicate 32 Ring.reset
  acc := []
  accWm := Vector.replicate 48 ⟨0, 0, 0, 0⟩
  accLast := Vector.replicate 48 0
  ops := []
  wbuf := []
  l1 := []
  icache := []
  flaws := []
  retired := false
  fixed := 0
  restored := []
  flying := []
  acked := []

def Cluster.reset : Cluster where
  engines := Vector.replicate 16 ⟨0, 0, 2, 0, none⟩
  refcnt := 0
  install := 0
  prismPend := 0
  prismEn := false
  frames := Vector.replicate 4 0
  l2 := []
  grant := 0

def Region.reset : Region := ⟨0, false, 0, 0, Vector.replicate 32 0⟩

def DieMem.reset : DieMem where
  mem := []
  tags := []
  asidt := 0
  tlbinv := 0
  tlbDone := true
  sweep := 0
  sweepDone := true
  carveWays := 0
  carveBusy := false
  carveNext := 0
  scrub := []
  retired := []
  dumpSet := false
  refused := false
  lastRet := false
  lastPend := false
  frameReg := 0
  keyReg := 0
  keyDone := true
  keyLast := 0
  keys := Vector.replicate 64 ⟨0, 0, 0⟩
  chan0 := 0
  chan1 := 0
  merr := 0
  code := 0
  mapReg := 0
  mapRank := 32
  mapCode := 0
  mapBusy := false
  blocks := Vector.replicate 8 (0, 0)
  regions := Vector.replicate 8 Region.reset
  stage := Vector.replicate 16 0
  tlb := []
  roots := []
  errors := []

/-- DL_VMASK after reset: WAYS 0xFFFF, CMASK 0x1F, EMASK 0xFFFF (R295). -/
def vmaskReset : Word := 0x0000FFFF001FFFFF

def VFn.reset : VFn :=
  ⟨false, false, false, 0, 1, 1, 1, 0, 0, 0, 0, 0, Vector.replicate 12 vmaskReset, 0, []⟩

def Queue.reset : Queue := ⟨false, false, false, 0, 0, 0, 0, 0, 0, 0, [], 0⟩

def DieLaunch.reset : DieLaunch where
  qarea := 0
  jobt := 0
  faultq := 0
  fres := 0
  shoot := 0
  shootDone := true
  shootWait := 0
  shootOwed := []
  queues := []
  turn := 0
  pool := []
  subs := []
  held := []
  records := []
  away := []
  faults := []
  vfs := []
  msix := []
  dcyc := 0
  arenaNext := 0
  recNext := 0

def Pavane.reset : Pavane where
  base := 0
  count := 0
  head := 0
  stashBase := 0
  stashSlots := 0
  up := 0
  down := 0
  upc := 0
  dnc := 0
  ten := 0
  arg := 0
  done := false
  stall := false
  block := 0
  err := 0
  run := 0
  wraps := 0
  bub := Vector.replicate 3 0
  table := []
  stash := []
  loaded := false
  tasks := []
  credits := []
  heldCredits := []

/-- The package after reset; stepping, clock and flash contents: log 6. -/
def Package.reset : Package where
  step := 1
  seq := 0
  fail := 0
  stage := 0
  bootFail := 0
  firmware := 0x103
  image := []
  req := false
  causes := 0
  bxlost := 0
  spadu := 18432
  chret := 0
  lcyc := 0
  marginEn := true
  period := 27000
  rounds := 0
  roundOn := false
  roundAt := 0
  roundNew := false
  roundEng := []
  roundBank := []
  roundChan := []
  extraBank := []
  extraChan := []
  watts := 2800
  evq := 0
  evhead := 0
  evdrop := 0
  evtail := 0
  attest := 0
  reports := []
  asking := []
  clock := 16
  flashEng := Vector.replicate 16 0x1F
  flashBank := Vector.replicate 24 0
  flashChan0 := 0
  flashChan1 := 0
  flashCauses := 0
  engElse := []
  bankElse := []
  chanElse := []
  coreElse := []
  entryElse := []
  ringElse := []
  recount := false
  dumps := []
  lantern := []
  halted := none
  dumpBody := false
  checks := 0
  pv := Pavane.reset

def Job.reset : Job := ⟨0, 0, 0, false, 0, none, 0, 0⟩

def Link.reset : Link where
  state := .down
  masks := Vector.replicate 4 0
  peerLink := 0
  peerFid := 0
  txSeq := 0
  rxSeq := 0
  replayBuf := []
  queue := []
  turn := 3
  ackSent := 0x3FFF
  replaying := none
  failing := Vector.replicate 4 0
  replays := 0
  crcErrors := 0
  asm_ := none
  markers := []
  out := []

def Fabric.reset : Fabric where
  fid := 0
  inc := 0
  dark := false
  busy := false
  err := 0
  count := 0
  base := 0
  table := none
  seq := 0
  idx := 0
  qwint := 16384
  jobs := []
  waves := []
  links := Vector.replicate 16 Link.reset
  cut := []
  outbox := []
  heldCreds := []
  via := []
  qwaitElse := []
  rstreams := []

/-- The machine right after reset. -/
def State.reset : State where
  core := Core.reset
  cl := Cluster.reset
  dm := DieMem.reset
  dl := DieLaunch.reset
  pk := Package.reset
  fi := Fabric.reset
  agenda := []
  free := 0
  tags := 0
  verdict := .ok
  issue := ⟨0, 0, 0, 0, 0, false, 0⟩

end Sys2Proof.Machine
end

