-- ==== Sys2Proof/Machine/Maps.lean ====
section
/-! DEFINITION. Sparse maps in canonical form, memory as such a map, and bytes in little-endian order (R5). -/

namespace Sys2Proof.Machine

/-- The entry of a key. -/
def lookup {α : Type} (m : SMap α) (k : Nat) : Option α :=
  match m with
  | [] => none
  | (a, v) :: r => if a = k then some v else lookup r k

/-- Set an entry, keeping the keys rising. -/
def insertAt {α : Type} (m : SMap α) (k : Nat) (v : α) : SMap α :=
  match m with
  | [] => [(k, v)]
  | (a, w) :: r => if k < a then (k, v) :: (a, w) :: r else if k = a then (k, v) :: r else (a, w) :: insertAt r k v

/-- Remove an entry. -/
def eraseAt {α : Type} (m : SMap α) (k : Nat) : SMap α :=
  match m with
  | [] => []
  | (a, w) :: r => if a = k then r else (a, w) :: eraseAt r k

/-- The value at a key, `d` where nothing is listed. -/
def getAt {α : Type} (d : α) (m : SMap α) (k : Nat) : α := (lookup m k).getD d

/-- Set a key, listing nothing for the default. -/
def putAt {α : Type} [DecidableEq α] (d : α) (m : SMap α) (k : Nat) (v : α) : SMap α :=
  if v = d then eraseAt m k else insertAt m k v

/-- Every key of the map lies above `k`. -/
def above {α : Type} (k : Nat) (m : SMap α) : Bool := m.all fun e => decide (k < e.1)

/-- The keys rise strictly. -/
def rising {α : Type} (m : SMap α) : Bool :=
  match m with
  | [] => true
  | (a, _) :: r => above a r && rising r

/-- The canonical form: keys rise, no entry at the default. -/
def SMap.wf {α : Type} [DecidableEq α] (d : α) (m : SMap α) : Bool := rising m && m.all fun e => !decide (e.2 = d)

/-- The byte at an address. -/
def Memory.get (m : Memory) (a : Nat) : Byte := getAt 0 m a
/-- Write one byte. -/
def Memory.set (m : Memory) (a : Nat) (b : Byte) : Memory := putAt 0 m a b
/-- The canonical form of memory. -/
def Memory.wf (m : Memory) : Bool := SMap.wf (0 : Byte) m

/-- Write bytes at rising addresses. -/
def Memory.setAll (m : Memory) (a : Nat) (bs : List Byte) : Memory :=
  match bs with
  | [] => m
  | b :: r => Memory.setAll (Memory.set m a b) (a + 1) r

/-- The `n` bytes from an address. -/
def Memory.getAll (m : Memory) (a n : Nat) : List Byte := (List.range n).map fun i => Memory.get m (a + i)

/-- Write the bytes that the predicate admits. -/
def Memory.setWhere (m : Memory) (a : Nat) (bs : List Byte) (en : Nat → Bool) : Memory :=
  match bs with
  | [] => m
  | b :: r => Memory.setWhere (if en a then Memory.set m a b else m) (a + 1) r en

/-- Byte `i` of a value. -/
def byteOf {n : Nat} (v : BitVec n) (i : Nat) : Byte := BitVec.ofNat 8 (v.toNat / 256 ^ i)

/-- The low `n` bytes of a value, in memory order. -/
def bytesOf {w : Nat} (v : BitVec w) (n : Nat) : List Byte := (List.range n).map (byteOf v)

/-- A number whose bit group `i` of `u` bits is all ones where bit `i` of `b` is set, for `i < n`. -/
def spread (u b n : Nat) : Nat :=
  match n with
  | 0 => 0
  | k + 1 => spread u b k + (if b.testBit k then (2 ^ u - 1) * 2 ^ (u * k) else 0)

/-- Replace the bits that `en` selects. -/
def mergeBits {n : Nat} (old new en : BitVec n) : BitVec n := (old &&& ~~~en) ||| (new &&& en)

/-- The bits of a sector that a byte mask covers. -/
def sectorBits (mask : BitVec 32) : Sector := BitVec.ofNat 256 (spread 8 mask.toNat 32)

/-- A word of `n` bytes at a list's head, little-endian. -/
def wordOf (bs : List Byte) : Word := BitVec.ofNat 64 (ofBytes bs)

/-- Bits [hi:lo] of a register, as a number (R53). -/
def fieldOf {n : Nat} (v : BitVec n) (hi lo : Nat) : Nat := bits v.toNat hi lo

/-- Replace bits [hi:lo] of a register. -/
def withField (v : Word) (hi lo x : Nat) : Word :=
  let m : Word := BitVec.ofNat 64 ((2 ^ (hi + 1 - lo) - 1) * 2 ^ lo)
  mergeBits v (BitVec.ofNat 64 (x * 2 ^ lo)) m

/-- One bit of a register. -/
def bitAt {n : Nat} (v : BitVec n) (i : Nat) : Bool := v.toNat.testBit i

/-- The number of ones among the low `n` bits (R53 popc). -/
def popcount (v n : Nat) : Nat :=
  match n with
  | 0 => 0
  | k + 1 => popcount v k + (if v.testBit k then 1 else 0)

/-- 1 for true. -/
def b2n (b : Bool) : Nat := if b then 1 else 0

/-- The first index below `n` that satisfies the predicate, in rising order. -/
def findIdx (n : Nat) (p : Nat → Bool) : Option Nat := (List.range n).find? p

/-- Apply a step `n` times. -/
def iterate {α : Type} (f : α → α) : Nat → α → α
  | 0, a => a
  | k + 1, a => iterate f k (f a)

/-- Fold over 0, …, n − 1 in rising order. -/
def loopUp {α : Type} (n : Nat) (f : Nat → α → α) (a : α) : α := (List.range n).foldl (fun x i => f i x) a

/-- A value saturated at `m`. -/
def capAt (m x : Nat) : Nat := if m ≤ x then m else x

end Sys2Proof.Machine
end

