-- ==== Sys2Proof/Machine/Regs.lean ====
section
/-! DEFINITION. The register files of a context (R54), results in flight and their landing (R56 to R60), free values. -/

namespace Sys2Proof.Machine

/-- Context `c` of the core. -/
def State.ctx (s : State) (c : Fin 5) : Ctx := s.core.ctxs.get c
/-- Replace a context. -/
def State.setCtx (s : State) (c : Fin 5) (x : Ctx) : State :=
  { s with core := { s.core with ctxs := s.core.ctxs.set c.val x c.isLt } }
/-- Change a context. -/
def State.modCtx (s : State) (c : Fin 5) (f : Ctx → Ctx) : State := s.setCtx c (f (s.ctx c))
/-- The context in issue. -/
def State.me (s : State) : Ctx := s.ctx s.core.cur
/-- Change the context in issue. -/
def State.modMe (s : State) (f : Ctx → Ctx) : State := s.modCtx s.core.cur f

/-- A strand context as a context number. -/
def strandCtx (c : Fin 4) : Fin 5 := ⟨c.val, Nat.lt_succ_of_lt c.isLt⟩
/-- The service context (R134). -/
def svc : Fin 5 := 4
/-- The strand context of a number, none for the service context. -/
def asStrand (c : Fin 5) : Option (Fin 4) := if h : c.val < 4 then some ⟨c.val, h⟩ else none

def fin32 (r : BitVec 5) : Fin 32 := ⟨r.toNat, r.isLt⟩
def fin16 (r : BitVec 4) : Fin 16 := ⟨r.toNat, r.isLt⟩
def fin8 (r : BitVec 3) : Fin 8 := ⟨r.toNat, r.isLt⟩
def fin4 (r : BitVec 2) : Fin 4 := ⟨r.toNat, r.isLt⟩

/-- The home of x[r] or y[r]: in handler mode 26 to 31 name the handler bank (R65). -/
def bank (hm : Bool) (r : BitVec 5) : Fin 38 :=
  if h : hm = true ∧ 26 ≤ r.toNat then ⟨r.toNat + 6, by have := r.isLt; omega⟩ else ⟨r.toNat, by have := r.isLt; omega⟩

/-- x[r]: x0 reads zero (R54). -/
def Ctx.getX (c : Ctx) (r : BitVec 5) : Word := if r = 0 then 0 else c.x.get (bank c.hm r)
/-- y[r]: y0 reads zero. -/
def Ctx.getY (c : Ctx) (r : BitVec 5) : Word := if r = 0 then 0 else c.y.get (bank c.hm r)
def Ctx.getV (c : Ctx) (r : BitVec 5) : Vec := c.v.get (fin32 r)
/-- k[r]: k0 reads all ones. -/
def Ctx.getK (c : Ctx) (r : BitVec 3) : Mask := if r = 0 then BitVec.allOnes 512 else c.k.get (fin8 r)
def Ctx.getM (c : Ctx) (r : BitVec 4) : Word := c.m.get (fin16 r)
def Ctx.getC (c : Ctx) (r : BitVec 4) : Word := c.c.get (fin16 r)
def Ctx.getE (c : Ctx) (r : BitVec 5) : Word := c.e.get (fin32 r)
/-- p[r]: p0 reads true. -/
def Ctx.getP (c : Ctx) (r : BitVec 4) : Bool := if r = 0 then true else c.p.get (fin16 r)

def ShapeField.idx : ShapeField → Fin 8
  | .m => 0 | .n => 1 | .k => 2 | .apitch => 3 | .bpitch => 4 | .scale => 5 | .asb => 6 | .bsb => 7
def PatField.idx : PatField → Fin 8
  | .esize => 0 | .n1 => 1 | .n2 => 2 | .ss1 => 3 | .ss2 => 4 | .ds1 => 5 | .ds2 => 6 | .opt => 7

def Rec8.getShape (r : Rec8) (f : ShapeField) : Nat := (r.get (ShapeField.idx f)).toNat
def Rec8.getPat (r : Rec8) (f : PatField) : Nat := (r.get (PatField.idx f)).toNat

/-- A load result of `n` bytes, extended (R98). -/
def extend (raw : Vec) (n : Nat) (sx : Bool) : Word :=
  let v := raw.toNat % 2 ^ (8 * n)
  if sx && v.testBit (8 * n - 1) then BitVec.ofNat 64 (v + 2 ^ 64 - 2 ^ (8 * n)) else BitVec.ofNat 64 v

/-- A write reaching its register: writes to x0, y0, k0 and p0 are discarded (R54). -/
def applyWrite (w : Write) (c : Ctx) : Ctx :=
  match w with
  | .x r v => if r.val = 0 then c else { c with x := c.x.set r.val v r.isLt }
  | .y r v => if r.val = 0 then c else { c with y := c.y.set r.val v r.isLt }
  | .yload r raw n sx => if r.val = 0 then c else { c with y := c.y.set r.val (extend raw n sx) r.isLt }
  | .v r en val => { c with v := c.v.set r.val (mergeBits (c.v.get r) val en) r.isLt }
  | .k r v => if r.val = 0 then c else { c with k := c.k.set r.val v r.isLt }
  | .m r v => { c with m := c.m.set r.val v r.isLt }
  | .c r v => { c with c := c.c.set r.val v r.isLt }
  | .e r v => { c with e := c.e.set r.val v r.isLt }
  | .p r v => if r.val = 0 then c else { c with p := c.p.set r.val v r.isLt }
  | .base .xb v => { c with xb := v.setWidth 5 }
  | .base .yb v => { c with yb := v.setWidth 5 }
  | .base .vb v => { c with vb := v.setWidth 5 }
  | .base .cb v => { c with cb := v.setWidth 4 }
  | .shape r f v => { c with shadow := c.shadow.set r.val ((c.shadow.get r).set (ShapeField.idx f).val v (ShapeField.idx f).isLt) r.isLt }
  | .pattern r f v => { c with g := c.g.set r.val ((c.g.get r).set (PatField.idx f).val v (PatField.idx f).isLt) r.isLt }
  | .flags v => { c with fflags := c.fflags ||| v }
  | .fflags v => { c with fflags := v }
  | .trapCause v => { c with trapCause := v &&& 0xFFFF1FFF }
  | .trapPc v => { c with trapPc := v &&& 0xFFFFFFFFFD }

/-- An MTS to FFLAGS: it lands before the flag sets of its cycle (R60). -/
def isFflags (w : Write) : Bool := match w with | .fflags _ => true | _ => false

/-- Every result due at or before the next context cycle has its bytes (R57). -/
def dueReady (l : List Pend) : Bool := l.all fun p => decide (1 < p.off) || p.need.isEmpty

/-- Land the results that are due in issue order, the later over the earlier, flag sets over an MTS to FFLAGS (R60). -/
def landNow (l : List Pend) (c : Ctx) : Ctx :=
  let due := l.filter fun p => p.off == 0
  let c := (due.filter fun p => isFflags p.w).foldl (fun c p => applyWrite p.w c) c
  (due.filter fun p => !isFflags p.w).foldl (fun c p => applyWrite p.w c) c

/-- The list of results in flight that counts now: the handler's or the strand's (R65). -/
def Ctx.flight (c : Ctx) : List Pend := if c.hm then c.hpend else c.pend
def Ctx.setFlight (c : Ctx) (l : List Pend) : Ctx := if c.hm then { c with hpend := l } else { c with pend := l }

/-- A context cycle begins (R56, R59): every result in flight comes one cycle nearer, and those due land before its bundle reads. -/
def Ctx.approach (c : Ctx) : Ctx :=
  let l := c.flight.map fun p => { p with off := p.off - 1 }
  (landNow l c).setFlight (l.filter fun p => p.off != 0)

/-- A bundle or portable word has issued (R56, R65): the count of the mode rises. CCYC counts every bundle of the service context, which
holds no strand (`own`; log 16). -/
def Ctx.count (own : Bool) (c : Ctx) : Ctx :=
  { c with ccyc := if c.hm && !own then c.ccyc else c.ccyc + 1, hcyc := if c.hm then c.hcyc + 1 else c.hcyc }

/-- Every result in flight has its bytes. -/
def Ctx.allReady (c : Ctx) : Bool := c.flight.all fun p => p.need.isEmpty

/-- Land every result in flight, in the order of landing: what a portable word and ERET wait for (R41, R56, R66). The latch
bank holds offsets of at most 18 (R69). -/
def Ctx.drain (c : Ctx) : Ctx := if c.flight.isEmpty then c else iterate Ctx.approach 18 c

/-- Schedule a write `lat` context cycles from the issue; in portable code the next word sees it (R41). -/
def State.landIn (s : State) (c : Fin 5) (w : Write) (lat : Nat) : State :=
  s.modCtx c fun x => x.setFlight (x.flight ++ [⟨0, if x.nat then lat else 1, w, []⟩])

/-- Schedule a write of the context in issue. -/
def State.land (s : State) (w : Write) (lat : Nat) : State := s.landIn s.core.cur w lat

/-- Schedule a result whose bytes other dies still owe: `need` lists the requests. -/
def State.landPart (s : State) (w : Write) (lat : Nat) (id : Nat) (need : List Nat) : State :=
  s.modMe fun x => x.setFlight (x.flight ++ [⟨id, if x.nat then lat else 1, w, need⟩])

/-- The bytes of a reply joining a result in flight. -/
def fillWrite (w : Write) (shift : Nat) (v : Vec) : Write :=
  match w with
  | .yload r raw n sx => .yload r (raw ||| v <<< shift) n sx
  | .v r en val => .v r en (val ||| v <<< shift)
  | w => w

/-- A reply reaches the result in flight that waits for it (R59, R95). -/
def fillPend (l : List Pend) (pend tag shift : Nat) (v : Vec) : List Pend :=
  l.map fun p => if p.id = pend ∧ p.need.contains tag then { p with w := fillWrite p.w shift v, need := p.need.filter (· != tag) } else p

/-- Every register that a strand start, a resume or an abort leaves undefined takes a free value (R9, R27; log 3). -/
def Ctx.scramble (c : Ctx) (n : Nat) : Ctx :=
  { c with
    x := Vector.ofFn fun i => Config.freeWord n i.val
    y := Vector.ofFn fun i => Config.freeWord n (64 + i.val)
    v := Vector.ofFn fun i => Config.freeVec n i.val
    k := Vector.ofFn fun i => Config.freeMask n i.val
    m := Vector.ofFn fun i => Config.freeWord n (128 + i.val)
    c := Vector.ofFn fun i => Config.freeWord n (192 + i.val)
    e := Vector.ofFn fun i => Config.freeWord n (256 + i.val)
    p := Vector.ofFn fun i => Config.freeBit n i.val
    h := Vector.ofFn fun i => Vector.ofFn fun j => Config.freeField n i.val j.val
    shadow := Vector.ofFn fun i => Vector.ofFn fun j => Config.freeField n (8 + i.val) j.val
    g := Vector.ofFn fun i => Vector.ofFn fun j => Config.freeField n (16 + i.val) j.val
    xb := 0
    yb := 0
    vb := 0
    cb := 0
    fflags := 0
    pend := []
    hpend := []
    xfer := none
    hxfer := none }

/-- Set x[r], 1 ≤ r ≤ 31, of the strand's own bank. -/
def Ctx.putX (c : Ctx) (r : Fin 38) (v : Word) : Ctx := { c with x := c.x.set r.val v r.isLt }

/-- x1 to x5 take the LIVE values of the checkpoint (R27). -/
def Ctx.restore (c : Ctx) (live : Vector Word 5) : Ctx :=
  ((((c.putX 1 (live.get 0)).putX 2 (live.get 1)).putX 3 (live.get 2)).putX 4 (live.get 3)).putX 5 (live.get 4)

/-- The values of x1 to x5 that are readable in the first context cycle of a region (R23): in native code a result due then is among them,
whatever other results wait for; a portable word waits for every result (R41). -/
def Ctx.liveVals (c : Ctx) (nat : Bool) : Vector Word 5 :=
  let d := if nat then landNow ((c.pend.filter fun p => p.off == 1 && p.need.isEmpty).map fun p => { p with off := 0 }) c else c.drain
  Vector.ofFn fun i => d.x.get ⟨i.val + 1, by omega⟩

/-- Draw a stamp for free values. -/
def State.stamp (s : State) : Nat × State := (s.free, { s with free := s.free + 1 })

/-- Draw a number for a request, an operation or a launch. -/
def State.newTag (s : State) : Nat × State := (s.tags, { s with tags := s.tags + 1 })

/-- Put an event before the others of the agenda: the effect of a register write in the next core cycle (R77). -/
def State.enqueue (s : State) (i : Event) : State := { s with agenda := i :: s.agenda }

/-- Put an event behind the others. -/
def State.later (s : State) (i : Event) : State := { s with agenda := s.agenda ++ [i] }

end Sys2Proof.Machine
end

