-- ==== Sys2Proof/Machine/Rings.lean ====
section
/-! DEFINITION. Partitions (R135), the scratchpad (R137), rings (R139 to R143), ports and their queues (R340, R343), the
job counters (R346) and the packets that leave the die (R355). -/

namespace Sys2Proof.Machine

/-! ### Partitions -/

def Core.accBase (k : Core) (c : Fin 4) : Nat := fieldOf (k.partA.get c) 5 0
def Core.accCnt (k : Core) (c : Fin 4) : Nat := fieldOf (k.partA.get c) 14 8
def Core.wbBase (k : Core) (c : Fin 4) : Nat := fieldOf (k.partA.get c) 25 16
def Core.wbCnt (k : Core) (c : Fin 4) : Nat := fieldOf (k.partA.get c) 42 32
def Core.ringBase (k : Core) (c : Fin 4) : Nat := fieldOf (k.partB.get c) 4 0
def Core.ringCnt (k : Core) (c : Fin 4) : Nat := fieldOf (k.partB.get c) 10 5
def Core.spBase (k : Core) (c : Fin 4) : Nat := fieldOf (k.partB.get c) 44 32
def Core.spLen (k : Core) (c : Fin 4) : Nat := fieldOf (k.partB.get c) 57 45

/-- Physical ring of the partition's ring number (R135). -/
def Core.physRing (k : Core) (c : Fin 4) (r : Nat) : Option (Fin 32) :=
  if h : r < k.ringCnt c ∧ k.ringBase c + r < 32 then some ⟨k.ringBase c + r, h.2⟩ else none

/-- Physical tile of the partition's tile number. -/
def Core.physTile (k : Core) (c : Fin 4) (t : Nat) : Option (Fin 48) :=
  if h : t < k.accCnt c ∧ k.accBase c + t < 48 then some ⟨k.accBase c + t, h.2⟩ else none

/-! ### Scratchpad -/

/-- The state of a bank (R137). -/
def Core.bank (k : Core) (b : Nat) : BitVec 2 := if h : b < 24 then k.banks.get ⟨b, h⟩ else 2

/-- Storage mapped out, or beyond the scratchpad (R137, R140). -/
def Core.mappedOut (k : Core) (o : Nat) : Bool :=
  k.bank (o / 0x10000) == 2 || (k.bank (o / 0x10000) == 1 && o.testBit 15)

/-- Some byte of a span is mapped out. Banks change at multiples of 2^15. -/
def Core.spanOut (k : Core) (o n : Nat) : Bool :=
  n != 0 && (List.range ((o + n - 1) / 0x8000 - o / 0x8000 + 1)).any fun i => k.mappedOut ((o / 0x8000 + i) * 0x8000)

/-- A flaw recorded for a place and index (R150). -/
def Core.flawed (k : Core) (p : CorePlace) (idx : Nat) : Bool := k.flaws.any fun f => f.place == p && f.idx == idx

/-- An uncorrectable sector of the scratchpad in a span (R150). -/
def Core.spadLost (k : Core) (o n : Nat) : Bool :=
  k.flaws.any fun f => f.place == .scratchpad && decide (o / 32 ≤ f.idx ∧ f.idx ≤ (o + n - 1) / 32)

/-- Writing every byte of a sector ends its flaw. -/
def Core.cleanSpad (k : Core) (o n : Nat) : Core :=
  { k with flaws := k.flaws.filter fun f => !(f.place == .scratchpad && decide (o ≤ f.idx * 32 ∧ f.idx * 32 + 32 ≤ o + n)) }

/-- Write scratchpad bytes; mapped-out storage is never written (R137). -/
def Core.spadWrite (k : Core) (o : Nat) (bs : List Byte) : Core :=
  { (k.cleanSpad o bs.length) with spad := Memory.setWhere k.spad o bs fun a => !k.mappedOut a }

/-- Read scratchpad bytes. -/
def Core.spadRead (k : Core) (o n : Nat) : List Byte := Memory.getAll k.spad o n

/-! ### Rings -/

def Ring.slots (r : Ring) : Nat := r.nslot.toNat + 1
def Ring.bytes (r : Ring) : Nat := (r.slot.toNat + 1) * 256
/-- The scratchpad offset of a slot. -/
def Ring.slotAt (r : Ring) (s : Nat) : Nat := r.base.toNat * 256 + s * r.bytes

/-- Claim a slot (R142): only when one is free. -/
def Ring.claim (r : Ring) : Option (Nat × Ring) :=
  if r.free = 0 then none
  else some (r.tail % r.slots, { r with tail := (r.tail + 1) % (2 * r.slots), free := r.free - 1 })

/-- Slots between head and tail. -/
def Ring.span (r : Ring) : Nat := (r.tail + 2 * r.slots - r.head) % (2 * r.slots)

/-- Slots become filled in claim order (R142). -/
def Ring.fill (r : Ring) : Nat → Ring
  | 0 => r
  | n + 1 =>
    let s := (r.head + r.filled) % r.slots
    if r.filled < r.span ∧ r.done.contains s = true then
      Ring.fill { r with done := r.done.filter (· != s), filled := r.filled + 1 } n
    else r

/-- Complete a slot (R142). -/
def Ring.complete (r : Ring) (s : Nat) : Ring :=
  let r := { r with done := s :: r.done.filter (· != s) }
  r.fill r.done.length

/-- Pop a slot (R142): it stays held; a reservation is used up (R326). -/
def Ring.pop (r : Ring) : Option (Nat × Ring) :=
  if r.filled = 0 then none
  else some (r.head % r.slots,
    { r with head := (r.head + 1) % (2 * r.slots), filled := r.filled - 1, held := r.held + 1, rsv := r.rsv - 1 })

/-- Pop by a drain: HELD is not used (R178). -/
def Ring.popDrain (r : Ring) : Option (Nat × Ring) :=
  (r.pop).map fun x => (x.1, { x.2 with held := r.held })

/-- The slots held by the consumer's region, oldest first. -/
def Ring.heldSlots (r : Ring) : List Nat :=
  (List.range r.held).map fun i => (r.head + 2 * r.slots - r.held + i) % r.slots

/-- The close of the consumer's region frees what it popped (R142). -/
def Ring.close (r : Ring) : Ring :=
  { r with free := r.free + r.held, held := 0, posted := r.posted.filter fun s => !r.heldSlots.contains s.1 }

/-- The first step of an abort of the consumer's region: the slots it popped return (R142). -/
def Ring.unpop (r : Ring) : Ring :=
  let n2 := 2 * r.slots
  { r with head := (r.head + n2 - r.held) % n2, filled := r.filled + r.held, held := 0, rsv := r.rsv + r.held }

/-- The filled slots, oldest first. -/
def Ring.filledSlots (r : Ring) : List Nat := (List.range r.filled).map fun i => (r.head + i) % r.slots

/-- The steps after it: the cancelled claims `l` that stand between head and tail are taken back, and FILLED falls by those of them still counted
as filled (R142). -/
def Ring.retract (r : Ring) (l : List Nat) : Ring :=
  let n2 := 2 * r.slots
  let mine := ((List.range r.span).map fun i => (r.head + i) % r.slots).filter fun s => l.contains s
  let k := mine.length
  let lost := (r.filledSlots.filter fun s => l.contains s).length
  { r with tail := (r.tail + n2 - k) % n2, free := r.free + k, filled := r.filled - lost, done := r.done.filter fun s => !l.contains s }

/-- The abort of the consumer's region (R142): the steps in their order. -/
def Ring.abort (r : Ring) (l : List Nat) : Ring := r.unpop.retract l

def State.ring (s : State) (n : Fin 32) : Ring := s.core.rings.get n
def State.setRing (s : State) (n : Fin 32) (r : Ring) : State :=
  { s with core := { s.core with rings := s.core.rings.set n.val r n.isLt } }

/-- The ring bound to zN of a context (R47, R140). -/
def State.zRing (s : State) (c : Fin 5) (z : BitVec 3) : Option (Fin 32) :=
  (List.finRange 32).find? fun n =>
    let r := s.ring n
    r.en && !r.cons && r.z == z && r.ctx.toNat == c.val

/-- Change every ring that context `c` consumes. -/
def State.mapRings (s : State) (c : Fin 5) (f : Fin 32 → Ring → Ring) : State :=
  let rs : Vector Ring 32 :=
    Vector.ofFn (fun n => if (s.ring n).en && (s.ring n).ctx.toNat == c.val then f n (s.ring n) else s.ring n)
  { s with core := { s.core with rings := rs } }

/-! ### Job counters and packets -/

def Fabric.job (f : Fabric) (j : BitVec 12) : Job := getAt Job.reset f.jobs j.toNat
def Fabric.setJob (f : Fabric) (j : BitVec 12) (x : Job) : Fabric := { f with jobs := putAt Job.reset f.jobs j.toNat x }

/-- Add to a job's counters; any change sets ACT (R346). -/
def State.count (s : State) (j : BitVec 12) (i c d : Nat) : State :=
  if i + c + d = 0 then s
  else
    let x := s.fi.job j
    let y := { x with i := x.i + BitVec.ofNat 48 i, c := x.c + BitVec.ofNat 48 c, d := x.d + BitVec.ofNat 48 d, act := true }
    { s with fi := s.fi.setJob j y }

/-- Send a packet to another die. -/
def State.send (s : State) (p : Packet) : State := { s with fi := { s.fi with outbox := s.fi.outbox ++ [p] } }

/-- Where a logical die stands (R94, R341): no die-map entry, a die that left the group, this die, another die. -/
inductive DieRef
  | bad
  | gone (fid : BitVec 16) (die : BitVec 2)
  | own
  | other (fid : BitVec 16) (die : BitVec 2)
  deriving DecidableEq, Repr

/-- The package is in the connected group (R344, R395) and a route reaches it (R357). -/
def Fabric.inGroup (f : Fabric) (fid : BitVec 16) : Bool :=
  (match f.table with
    | none => fid == f.fid
    | some t => t.contains fid) && !f.cut.contains fid

/-! ### Device memory as the device itself reads it (R254, R260, R261) -/

/-- The region that covers an HBM offset: live, BASE ≤ block ≤ LIMIT (R253). -/
def DieMem.regionOf (d : DieMem) (a : Nat) : Option (Fin 8) :=
  (List.finRange 8).find? fun n =>
    let r := d.regions.get n
    r.state == 1 && decide (r.base.toNat ≤ a / 2 ^ 34 ∧ a / 2 ^ 34 ≤ r.limit.toNat)

/-- The tag that a key slot writes (R261): slot and generation. -/
def DieMem.keyTag (d : DieMem) (slot : Fin 64) : Nat := (d.keys.get slot).gen * 64 + slot.val + 1

def SecTag.none : SecTag := ⟨0, 0, false⟩
def DieMem.tag (d : DieMem) (sec : Nat) : SecTag := getAt SecTag.none d.tags sec
def DieMem.setTag (d : DieMem) (sec : Nat) (t : SecTag) : DieMem := { d with tags := putAt SecTag.none d.tags sec t }

/-- The epoch of the contents at an address (R254). -/
def DieMem.epochOf (d : DieMem) (a : Nat) : Nat :=
  if a < 2 ^ 37 ∧ (d.regionOf a).isSome then (d.blocks.get ⟨a / 2 ^ 34 % 8, Nat.mod_lt _ (by omega)⟩).2 else 0

/-- A reader or writer under a key tag takes the sector's bytes as they stand: it was last written under that key and the mapping in force, or
its zero tag is set (R250, R254, R259, R261). The carve-out is never encrypted (R251). -/
def DieMem.plain (d : DieMem) (key sec : Nat) : Bool :=
  let t := d.tag sec
  decide (2 ^ 37 ≤ sec * 32) || (t.epoch == d.epochOf (sec * 32) && (t.key == 0 || t.key == key))

/-- The 8-byte word of device memory at a physical address, which the device reads under key slot 0: one that was last written under another key, or
under another mapping, is undefined, hence free (R254, R260, R261). -/
def State.devWord (s : State) (a : Nat) : Word :=
  let w := wordOf (Memory.getAll s.dm.mem a 8)
  if s.dm.plain (s.dm.keyTag 0) (a / 32) then w
  else
    let t := s.dm.tag (a / 32)
    Config.freeWord ((t.epoch * 2 ^ 16 + t.key) * 2 ^ 64 + w.toNat) a

/-- The job-table entry of a job (R297). -/
def State.jobEntry (s : State) (j : BitVec 12) : Word :=
  s.devWord (fieldOf s.dl.jobt 39 13 * 2 ^ 13 + 8 * j.toNat)

/-- The job is enabled for a tenant (R297). -/
def State.jobEnabled (s : State) (j : BitVec 12) (vf : BitVec 6) : Bool :=
  let e := s.jobEntry j
  bitAt e 63 && fieldOf e 62 46 == 0 && fieldOf e 5 0 == 0 && fieldOf e 45 40 == vf.toNat

/-- The physical address of the job's die map (R297). -/
def State.dieMap (s : State) (j : BitVec 12) : Nat := fieldOf (s.jobEntry j) 39 6 * 64

/-- The logical die `ld` of the die map at `m` (R341): 0xFFF is described by none. -/
def State.dieIn (s : State) (m ld : Nat) : DieRef :=
  let n := fieldOf (s.devWord m) 12 0
  let e := s.devWord (m + 8 + 8 * ld)
  if n ≤ ld ∨ ld = 0xFFF ∨ bitAt e 63 = false ∨ fieldOf e 62 56 ≠ 0 ∨ fieldOf e 31 2 ≠ 0 then .bad
  else
    let fid := BitVec.ofNat 16 (fieldOf e 47 32)
    let die := BitVec.ofNat 2 (fieldOf e 1 0)
    if fid = s.fi.fid ∧ die = s.core.die then .own
    else if s.fi.inGroup fid then .other fid die
    else .gone fid die

/-- The logical die `ld` of a job. -/
def State.dieOf (s : State) (j : BitVec 12) (ld : Nat) : DieRef := s.dieIn (s.dieMap j) ld

/-- The logical die that this die has in the die map at `m`, 0 where it has none. -/
def State.ownIn (s : State) (m : Nat) : BitVec 12 :=
  BitVec.ofNat 12 ((findIdx (fieldOf (s.devWord m) 12 0) fun ld => s.dieIn m ld == .own).getD 0)

/-- The logical die that this die has in a job's die map. -/
def State.ownLdie (s : State) (j : BitVec 12) : BitVec 12 := s.ownIn (s.dieMap j)

/-- The unit of a context's port or channel. -/
def State.unitOf (s : State) (c : Fin 5) (j : BitVec 12) (p : Nat) : UnitId :=
  ⟨s.ownLdie j, s.core.cluster, s.core.core, BitVec.ofNat 2 c.val, BitVec.ofNat 4 p⟩

/-- The unit is a context of this core. -/
def State.onCore (s : State) (u : UnitId) : Bool := u.cluster == s.core.cluster && u.core == s.core.core

/-- Return credit for words to the sender of a message (R343); to a package outside the group it is not sent. -/
def State.creditBack (s : State) (j : BitVec 12) (src : UnitId) (words : Nat) : State :=
  if words = 0 then s
  else match s.dieOf j src.ldie.toNat with
    | .own => if s.onCore src then s.later (.portCredit (fin4 src.ctx) (fin16 src.port) words)
              else s.send ⟨s.fi.fid, s.core.die, false, .credit j src words⟩
    | .other fid die => s.send ⟨fid, die, false, .credit j src words⟩
    | _ => s

/-! ### Ports -/

def State.port (s : State) (c : Fin 5) (n : Fin 16) : Port := (s.ctx c).ports.get n
def State.setPort (s : State) (c : Fin 5) (n : Fin 16) (p : Port) : State :=
  s.modCtx c fun x => { x with ports := x.ports.set n.val p n.isLt }

/-- Every arrived word of the port, in order. -/
def Port.words (p : Port) : List Word := p.queue.flatMap (·.words)
/-- Words in the port's buffer (R343). -/
def Port.buffered (p : Port) : Nat := p.pushed.length + (p.unsent.map (·.length)).sum
/-- The next arrived word (R47). -/
def Port.peek (p : Port) : Option Word := p.words[p.read]?

/-- What a close frees of an arrival queue (R343): the queue left, messages consumed, credit owed to each sender. -/
def freeWords (q : List Arrived) (n : Nat) : List Arrived × Nat × List (UnitId × Nat) :=
  match q with
  | [] => ([], 0, [])
  | a :: r =>
    if n = 0 then (a :: r, 0, [])
    else if a.words.length ≤ n then
      let (q', k, cr) := freeWords r (n - a.words.length)
      (q', k + 1, (a.src, a.words.length) :: cr)
    else ({ a with words := a.words.drop n, partly := true } :: r, 0, [(a.src, n)])

/-- Drop messages of an arrival queue: counted as discarded by the receiver, their words returned as credit (R343). -/
def State.dropMessages (s : State) (l : List Arrived) : State :=
  l.foldl (fun s a => (s.count a.job 0 0 1).creditBack a.job a.src a.words.length) s

/-- Messages of which some word has been read: those before the read point and one partly freed (R29). -/
def touched (q : List Arrived) (n : Nat) : List Arrived × List Arrived :=
  match q with
  | [] => ([], [])
  | a :: r =>
    if n ≠ 0 ∨ a.partly = true then
      let (d, k) := touched r (n - a.words.length)
      (a :: d, k)
    else ([], a :: r)

end Sys2Proof.Machine
end

