-- ==== Sys2Proof/Machine/Phys.lean ====
section
/-! DEFINITION. Physical memory of the die (R241, R249 to R254, R260 to R263) and the records that the device writes: fault
logs and event rings (R301, R302, R306). -/

namespace Sys2Proof.Machine

/-- The size of the carve-out in bytes (R251). -/
def DieMem.carveSize (d : DieMem) : Nat := d.carveWays.toNat * 2 ^ 27

/-- The address is live storage: HBM of a live region, or carve-out below its size (R244, R253). -/
def DieMem.live (d : DieMem) (a : Nat) : Bool :=
  (decide (a < 2 ^ 37) && (d.regionOf a).isSome) || (decide (0x8000000000 ≤ a) && decide (a < 0x8000000000 + d.carveSize))

/-- The storage behind a physical address: the code arena stands in HBM (R242); an address outside every range reaches nothing (R241). -/
def DieMem.backing (d : DieMem) (a : Nat) : Option Nat :=
  if 0x8100000000 ≤ a ∧ a < 0x8200000000 then
    let b := fieldOf d.code 23 0 * 2 ^ 16 + (a - 0x8100000000)
    if a - 0x8100000000 < fieldOf d.code 47 40 * 2 ^ 24 ∧ b < 2 ^ 37 then some b else none
  else if a < 2 ^ 37 ∨ (0x8000000000 ≤ a ∧ a < 0x8000000000 + d.carveSize) then some a
  else none

/-- The home slice of an address (R249): for the carve-out the hash is of its offset. -/
def homeSlice (pa : Nat) : Nat :=
  let a := if pa < 0x8000000000 then pa else pa - 0x8000000000
  (List.range 7).foldl (fun x i => x ^^^ bits a (11 + 4 * i) (8 + 4 * i)) 0 ^^^ bits a 36 36

/-- Row j of a matrix. -/
def matrixRow (m : Vector Word32 32) (j : Nat) : Nat := if h : j < 32 then (m.get ⟨j, h⟩).toNat else 0

/-- Output bit j for inputs `x`, bit i of which is address bit i + 5 (R252). -/
def mapBit (m : Vector Word32 32) (x j : Nat) : Nat := popcount (matrixRow m j &&& x) 32 % 2

/-- The physical channel of inputs `x`: output bits 11 to 16 (R252). -/
def mapChannel (m : Vector Word32 32) (x : Nat) : Nat := (List.range 6).foldl (fun a j => a + mapBit m x (11 + j) * 2 ^ j) 0

/-- The channel of an HBM address under the mapping in force. -/
def DieMem.channelOf (d : DieMem) (a : Nat) : Nat := match d.regionOf a with | some n => mapChannel (d.regions.get n).matrix (a / 32 % 2 ^ 32) | none => 0
/-- The stack that homes an HBM address: channels 32 and above stand on the second. -/
def DieMem.stackOf (d : DieMem) (a : Nat) : Nat := d.channelOf a / 32

/-- A sector of a span is poisoned (R263). -/
def DieMem.poisoned (d : DieMem) (a n : Nat) : Bool :=
  d.tags.any fun e => e.2.poison && decide (a / 32 ≤ e.1 ∧ e.1 ≤ (a + n - 1) / 32)

/-- Mark the sectors from `sec`, `n` of them, as written: full ones lose their poison (R263). -/
def DieMem.markFrom (d : DieMem) (key a len sec : Nat) : Nat → DieMem
  | 0 => d
  | n + 1 =>
    let full := decide (a ≤ sec * 32 ∧ sec * 32 + 32 ≤ a + len)
    let key' := if sec * 32 < 2 ^ 37 then key else 0
    DieMem.markFrom (d.setTag sec ⟨key', d.epochOf (sec * 32), (d.tag sec).poison && !full⟩) key a len (sec + 1) n

/-- Write bytes at a backing address under a key tag; `en` selects the bytes. -/
def DieMem.write (d : DieMem) (key a : Nat) (bs : List Byte) : DieMem :=
  if bs.isEmpty then d
  else DieMem.markFrom { d with mem := Memory.setAll d.mem a bs } key a bs.length (a / 32)
    ((a + bs.length - 1) / 32 - a / 32 + 1)

/-- A partial write of a sector that stands under another key or mapping fills it first, which leaves its bytes undefined (R250, R254, R261):
they are free. -/
def State.refill (s : State) (key sec : Nat) : State :=
  if s.dm.plain key sec then s
  else
    let (n, s) := s.stamp
    { s with dm := { s.dm with mem := Memory.setAll s.dm.mem (sec * 32) ((List.range 32).map fun i => Config.freeByte n (sec * 32 + i)) } }

/-- How many bytes of storage of the die stand from an address on: HBM, or the carve-out up to its size (R241, R251). -/
def DieMem.room (d : DieMem) (a : Nat) : Nat :=
  if a < 2 ^ 37 then 2 ^ 37 - a else if 0x8000000000 ≤ a then 0x8000000000 + d.carveSize - a else 0

/-- The device's own writes stand under key slot 0 (R260); what lies outside every range, or at or above the carve-out's size, reaches nothing
(R241, R251). -/
def State.devWrite (s : State) (a : Nat) (bytes : List Byte) : State :=
  let bs := bytes.take (s.dm.room a)
  if bs.isEmpty then s
  else
    let key := s.dm.keyTag 0
    let s := if a % 32 = 0 then s else s.refill key (a / 32)
    let s := if (a + bs.length) % 32 = 0 then s else s.refill key ((a + bs.length - 1) / 32)
    { s with dm := s.dm.write key a bs }

/-- The device's own 8-byte store. -/
def State.devPut (s : State) (a : Nat) (w : Word) : State := s.devWrite a (bytesOf w 8)

/-- The bytes of one sector as a reader under key slot `slot` sees them: bytes written under another key or another mapping
are undefined, hence free (R254, R261); the flag says poisoned (R263). -/
def State.readSector (s : State) (slot : Fin 64) (sec : Nat) : Sector × Bool × State :=
  let t := s.dm.tag sec
  if s.dm.plain (s.dm.keyTag slot) sec then (BitVec.ofNat 256 (ofBytes (Memory.getAll s.dm.mem (sec * 32) 32)), t.poison, s)
  else
    let (n, s) := s.stamp
    (BitVec.ofNat 256 (ofBytes ((List.range 32).map fun i => Config.freeByte n (sec * 32 + i))), t.poison, s)

/-- The 8 bytes at an address of a table of the device, which stands under key slot 0 (R260), and whether they are poisoned. -/
def State.tableWord (s : State) (a : Nat) : Word × Bool × State :=
  let (v, poisoned, s) := s.readSector 0 (a / 32)
  (BitVec.ofNat 64 (v.toNat / 2 ^ (8 * (a % 32))), poisoned, s)

/-- Write the bytes of a sector that `mask` selects. -/
def DieMem.writeSector (d : DieMem) (key sec : Nat) (mask : BitVec 32) (v : Sector) : DieMem :=
  let d' := { d with mem := Memory.setWhere d.mem (sec * 32) (bytesOf v 32) fun a => bitAt mask (a - sec * 32) }
  d'.setTag sec ⟨if sec * 32 < 2 ^ 37 then key else 0, d.epochOf (sec * 32), (d.tag sec).poison && mask != BitVec.allOnes 32⟩

/-! ### Virtual functions and records -/

def DieLaunch.vf (d : DieLaunch) (v : BitVec 6) : VFn := getAt VFn.reset d.vfs v.toNat
def DieLaunch.setVf (d : DieLaunch) (v : BitVec 6) (x : VFn) : DieLaunch := { d with vfs := putAt VFn.reset d.vfs v.toNat x }

/-- Raise an MSI-X vector of a virtual function, or of the physical function (R301, R306). -/
def State.raise (s : State) (fn : Option (BitVec 6)) (vec : Nat) : State :=
  { s with dl := { s.dl with msix := s.dl.msix ++ [(fn, vec)] } }

/-- An event or fault record (R302). -/
structure Record where
  (kind sub : Nat) (job : BitVec 12) (asid : BitVec 13) (vf : BitVec 6) (launch : Word) (iter : Word32) (idx : BitVec 20)
  (pc addr detail : Word)
  deriving DecidableEq, Repr

/-- The eight words of a record (R302). -/
def Record.words (r : Record) (die : BitVec 2) (dcyc pseq : Word) : List Word :=
  [BitVec.ofNat 64 (r.kind * 2 ^ 56 + r.sub * 2 ^ 48 + r.job.toNat * 2 ^ 32 + r.asid.toNat * 2 ^ 19 + die.toNat * 2 ^ 6 + r.vf.toNat),
   r.launch, BitVec.ofNat 64 (r.iter.toNat * 2 ^ 32 + r.idx.toNat), r.pc, r.addr, r.detail, dcyc, pseq]

/-- PSEQ rises by one for each record written in the package; the record takes the count before it (R302). -/
def State.nextSeq (s : State) : Word × State := (s.pk.seq, { s with pk := { s.pk with seq := s.pk.seq + 1 } })

/-- Write the record of a die to a ring at `base`, slot `slot`; the cycle count of another die is not seen here, and free. -/
def State.putRecord (s : State) (die : BitVec 2) (base slot : Nat) (r : Record) : State :=
  let (q, s) := s.nextSeq
  let (now, s) := if die = s.core.die then (s.dl.dcyc, s) else let (n, s) := s.stamp; (Config.freeWord n 0, s)
  s.devWrite (base + slot * 64) ((r.words die now q).flatMap fun w => bytesOf w 8)

/-- Log a record in the fault log of a virtual function (R301). -/
def State.log (s : State) (v : BitVec 6) (r : Record) : State :=
  let f := s.dl.vf v
  let n := fieldOf f.log 43 40
  let dropped : State :=
    { s with dl := s.dl.setVf v { f with drop := if f.drop = BitVec.allOnes 32 then f.drop else f.drop + 1 } }
  if !bitAt f.log 63 then dropped
  else if (f.tail - f.head).toNat = 2 ^ n then dropped
  else
    let s := s.putRecord s.core.die (fieldOf f.log 39 12 * 4096) (f.tail.toNat % 2 ^ n) r
    let s := { s with dl := s.dl.setVf v { s.dl.vf v with tail := f.tail + 1 } }
    if f.tail = f.head then s.raise (some v) 0 else s

/-- Post the record of a die to the event ring of the physical function (R306, R312). -/
def State.postFrom (s : State) (die : BitVec 2) (r : Record) : State :=
  let n := fieldOf s.pk.evq 43 40
  let dropped : State := { s with pk := { s.pk with evdrop := if s.pk.evdrop = BitVec.allOnes 32 then s.pk.evdrop else s.pk.evdrop + 1 } }
  if !bitAt s.pk.evq 63 then dropped
  else if (s.pk.evtail - s.pk.evhead).toNat = 2 ^ n then dropped
  else
    let tail := s.pk.evtail
    let s := s.putRecord die (fieldOf s.pk.evq 39 12 * 4096) (tail.toNat % 2 ^ n) r
    let s := { s with pk := { s.pk with evtail := tail + 1 } }
    if tail = s.pk.evhead then s.raise none 0 else s

/-- Post a record of this die. -/
def State.post (s : State) (r : Record) : State := s.postFrom s.core.die r

/-- Post an event to Lantern (R4, R151, R242). -/
def State.tell (s : State) (e : LanternCause) : State :=
  let (q, s) := s.nextSeq
  { s with pk := { s.pk with lantern := s.pk.lantern ++ [⟨e, s.dl.dcyc, q⟩] } }

/-- A KIND 6 record (R312): die, detail number, place, datum. -/
def State.serviceAt (s : State) (die sub addr : Nat) (detail : Word) : State :=
  s.postFrom (BitVec.ofNat 2 die) ⟨6, sub, 0, 0, 0, 0, 0, 0, 0, BitVec.ofNat 64 (die * 2 ^ 62 + addr), detail⟩

/-- A KIND 6 record of this die. -/
def State.service (s : State) (sub addr : Nat) (detail : Word) : State := s.serviceAt s.core.die.toNat sub addr detail

/-- A count in a field of a register, saturating (R151, R264): one more. -/
def countSat (v : Word) (hi lo : Nat) : Word :=
  let m := 2 ^ (hi + 1 - lo) - 1
  let x := fieldOf v hi lo
  withField v hi lo (if x = m then m else x + 1)

end Sys2Proof.Machine
end

