-- ==== Sys2Proof/Machine/RegRead.lean ====
section
/-! DEFINITION. What a read of a system register (R75 to R77) or of a device register (R242, R287, R306) returns. -/

namespace Sys2Proof.Machine

/-! ### Context and core registers -/

/-- A resume value: address and code mode in the layout of TRAP_PC (R62). -/
def pcWord (pc : Word) (nat : Bool) : Word := BitVec.ofNat 64 (bits pc.toNat 39 2 * 4 + b2n nat)

/-- The code of a strand context in CORE_CTXSTAT (R132). Held on data (R57), and whether a wait is over, is what the selector found in this core
cycle. Handler mode and a wait show before hold pre-emption, and every wait shows 4 (log 9). -/
def State.ctxCode (s : State) (c : Fin 4) : Nat :=
  let x := s.ctx (strandCtx c)
  if x.strand.isNone then
    (if x.reserved.isSome then 8 else if s.dl.records.any fun q => q.task.isSome && q.place == some c then 2 else 0)
  else if x.svcHeld then 7
  else if x.hm then 6
  else if !x.waits.isEmpty && !x.waitOver then 4
  else if s.core.serving && s.core.cur != strandCtx c then 5
  else if x.onData then 3
  else if s.core.cur = strandCtx c then 2
  else 1

/-- The service context in CORE_CTXSTAT: 0 idle, 1 ready, 2 issuing. -/
def State.svcCode (s : State) : Nat :=
  let on := (s.ctx svc).hm || s.core.svcRun
  if s.core.cur = svc && on then 2 else if s.core.irq || on then 1 else 0

def State.ctxStat (s : State) : Word :=
  BitVec.ofNat 64 (s.svcCode * 2 ^ 16 + s.ctxCode 3 * 2 ^ 12 + s.ctxCode 2 * 2 ^ 8 + s.ctxCode 1 * 16 + s.ctxCode 0)

/-- SPAD_BANKS (R137). -/
def Core.banksWord (k : Core) : Word :=
  BitVec.ofNat 64 ((List.finRange 24).foldl (fun a b => a + (k.banks.get b).toNat * 4 ^ b.val) 0)

/-- RING_CFG (R139). -/
def Ring.cfg (r : Ring) : Word :=
  BitVec.ofNat 64 (b2n r.en * 2 ^ 63 + r.err.toNat * 2 ^ 60 + r.ctx.toNat * 2 ^ 58 + b2n r.cons * 2 ^ 57 + r.z.toNat * 2 ^ 54 +
    r.nslot.toNat * 2 ^ 42 + r.slot.toNat * 2 ^ 34 + r.base.toNat)
/-- RING_PTR and RING_CNT (R141). -/
def Ring.ptr (r : Ring) : Word := BitVec.ofNat 64 (r.tail % 2 ^ 13 * 2 ^ 16 + r.head % 2 ^ 13)
def Ring.cnt (r : Ring) : Word := BitVec.ofNat 64 (r.held % 2 ^ 13 * 2 ^ 32 + r.free % 2 ^ 13 * 2 ^ 16 + r.filled % 2 ^ 13)

/-- ACC_WM (R144). -/
def AccWm.word (w : AccWm) : Word :=
  BitVec.ofNat 64 (w.cover % 128 * 2 ^ 24 + w.lastm % 128 * 2 ^ 16 + w.infl % 16 * 2 ^ 8 + w.wm % 128)

/-- LOOP_CNT (R76). -/
def LoopLevel.word (l : LoopLevel) : Word := BitVec.ofNat 64 (b2n l.act * 2 ^ 32 + l.rem % 2 ^ 32)

/-- The loop levels in view: the handler's in handler mode (R76, R89). -/
def Ctx.levels (c : Ctx) : Vector LoopLevel 2 := if c.hm then c.hloops else c.loops

/-- CTX_STAT (R62). -/
def Ctx.stat (c : Ctx) : Word := BitVec.ofNat 64 (b2n c.xferAt * 4 + b2n c.nat * 2 + b2n c.hm)

/-- The context whose trap registers an access reaches: the service context's may be redirected (R68). -/
def State.trapCtx (s : State) (c : Fin 5) : Fin 5 := if c = svc ∧ s.core.svcEn = true then strandCtx (fin4 s.core.selReg) else c

/-- The strand whose masks CL_EMASK and CL_WAYS show (R195). -/
def State.maskStrand (s : State) (c : Fin 5) : Option Strand :=
  if c = svc then (if s.core.svcEn then (s.ctx (strandCtx (fin4 s.core.selReg))).strand else none) else (s.ctx c).strand

/-- DL_VMASK of this cluster for a virtual function (R295). -/
def State.vmask (s : State) (v : BitVec 6) : Word :=
  if h : s.core.cluster.toNat < 12 then (s.dl.vf v).masks.get ⟨s.core.cluster.toNat, h⟩ else 0

/-- ENG_STAT (R196). -/
def Engine.stat (e : Engine) : Word :=
  BitVec.ofNat 64 (e.tests.toNat * 2 ^ 32 + e.queued % 16 * 2 ^ 16 + e.state.toNat * 2 ^ 8 + e.bmap.toNat)

/-! ### Package registers -/

/-- PK_SVC (R306). -/
def Package.svcWord (p : Package) : Word :=
  BitVec.ofNat 64 (b2n p.req * 2 ^ 63 + p.bxlost % 2 ^ 15 * 2 ^ 48 + p.spadu % 2 ^ 16 * 2 ^ 32 + p.chret % 2 ^ 9 * 2 ^ 23 + p.causes.toNat)

/-- PV_STAT (R322). -/
def Pavane.stat (p : Pavane) : Word :=
  BitVec.ofNat 64 (b2n p.done * 2 ^ 63 + b2n p.stall * 2 ^ 62 + p.block.toNat * 2 ^ 60 + p.err.toNat * 2 ^ 56 +
    p.stash.length % 256 * 2 ^ 40 + p.run.toNat * 2 ^ 32 + p.wraps.toNat)

/-- The Pavane registers 0x480 to 0x48D (R321), by number − 0x480. -/
def Pavane.reg (p : Pavane) (n : Nat) : Word :=
  match n with
  | 0 => p.base
  | 1 => p.count.setWidth 64
  | 2 => p.head.setWidth 64
  | 3 => p.stashBase
  | 4 => p.stashSlots
  | 5 => p.up
  | 6 => p.down
  | 7 => BitVec.ofNat 64 (p.upc.toNat * 2 ^ 16 + p.dnc.toNat)
  | 8 => p.ten
  | 9 => p.arg
  | 10 => p.stat
  | 11 => p.bub.get 0
  | 12 => p.bub.get 1
  | 13 => p.bub.get 2
  | _ => 0

/-- The package block, register n at offset 8n (R306, R321); PK_MSI is write-only. -/
def Package.reg (p : Package) (n : Nat) : Word :=
  match n with
  | 0 => BitVec.ofNat 64 (0xFF09 * 2 ^ 48 + p.step.toNat * 2 ^ 8 + 4)
  | 1 => p.seq
  | 2 => BitVec.ofNat 64 (p.fail.toNat * 2 ^ 8 + p.stage.toNat)
  | 3 => p.svcWord
  | 4 => p.lcyc
  | 5 => BitVec.ofNat 64 (b2n p.marginEn * 2 ^ 63 + p.period.toNat * 2 ^ 32 + p.rounds.toNat)
  | 6 => p.watts.setWidth 64
  | 7 => p.evq
  | 8 => p.evhead.setWidth 64
  | 9 => BitVec.ofNat 64 (p.evdrop.toNat * 2 ^ 32 + p.evtail.toNat)
  | 10 => p.attest
  | n => if 0x80 ≤ n then p.pv.reg (n - 0x80) else 0

/-! ### Fabric registers -/

/-- PORT_BIND (R339). -/
def Port.bindWord (p : Port) : Word :=
  BitVec.ofNat 64 (b2n p.bound * 2 ^ 63 + b2n p.dep * 2 ^ 62 + p.peer.ldie.toNat * 2 ^ 48 + p.peer.cluster.toNat * 2 ^ 44 +
    p.peer.core.toNat * 2 ^ 40 + p.peer.ctx.toNat * 2 ^ 36 + p.peer.port.toNat * 2 ^ 16 + p.cred % 128)

/-- FI_GROUP (R339); GO reads 0. -/
def Fabric.groupWord (f : Fabric) : Word :=
  BitVec.ofNat 64 (b2n f.dark * 2 ^ 62 + b2n f.busy * 2 ^ 61 + f.err.toNat * 2 ^ 52 + f.count.toNat * 2 ^ 42 + f.base.toNat * 2 ^ 6)

/-! ### System registers -/

/-- Registers that only handler mode reaches (R62), and RESUME, which a strand context never reaches (R68). -/
def handlerOnly (n : Nat) : Bool := decide ((0x018 ≤ n ∧ n ≤ 0x01D) ∨ (0x020 ≤ n ∧ n ≤ 0x029))

/-- DIE_POS, DIE_CYC, STRAND_TEN, STRAND_LAUNCH (R305). Sub-launch d is that of logical die d (R294). -/
def State.dieReg (s : State) (c : Fin 5) (n : Nat) : Word :=
  let st := (s.ctx c).strand
  match n with
  | 0x300 =>
    let ld := match st with | some t => if t.task.isSome then 0 else t.point.toNat | none => 0
    BitVec.ofNat 64 (ld % 2 ^ 12 * 2 ^ 16 + s.core.die.toNat)
  | 0x301 => s.dl.dcyc
  | 0x302 => match st with
    | some t => BitVec.ofNat 64 (t.job.toNat * 2 ^ 32 + t.asid.toNat * 2 ^ 8 + t.vf.toNat)
    | none => 0
  | _ => match st with | some t => if t.task.isSome then 0 else t.launch | none => 0

/-- RING_CNT as context `c` reads it: in the core cycle in which another context's abort restores the ring, HELD is that before the restore and
FILLED that after it (R390, both steppings). -/
def State.ringCount (s : State) (c : Fin 5) (n : Fin 32) : Word :=
  let r := s.ring n
  match s.core.restored.find? fun e => e.1 != c && e.2.1 == n with
  | some e => { r with held := e.2.2 }.cnt
  | none => r.cnt

/-- The value of system register `n` as context `c` reads it (R77). -/
def State.sysReg (s : State) (c : Fin 5) (n : Nat) : Word :=
  let x := s.ctx c
  let t := s.ctx (s.trapCtx c)
  match n with
  | 0x010 => x.fflags.setWidth 64
  | 0x011 => x.ccyc
  | 0x012 => match x.strand with | some t => if t.task.isSome then 0 else t.point.setWidth 64 | none => 0
  | 0x013 => match x.strand with | some t => t.iter.setWidth 64 | none => 0
  | 0x014 => match x.strand with | some t => if t.task.isSome then 0 else t.idx.setWidth 64 | none => 0
  | 0x015 => (x.levels.get 0).word
  | 0x016 => (x.levels.get 1).word
  | 0x018 => t.trapCause
  | 0x019 => t.trapPc
  | 0x01A => t.trapNpc
  | 0x01B => t.trapWord
  | 0x01C => t.trapAddr
  | 0x01D => t.trapVec
  | 0x028 => t.stat
  | 0x100 => s.ctxStat
  | 0x101 => BitVec.ofNat 64 (s.core.die.toNat * 2 ^ 12 + s.core.cluster.toNat * 2 ^ 8 + s.core.core.toNat)
  | 0x102 => s.core.banksWord
  | 0x103 => s.core.coreErr
  | 0x104 => BitVec.ofNat 64 (b2n s.core.svcEn * 2 ^ 63 + s.core.selReg.toNat)
  | 0x210 => match s.maskStrand c with | some t => s.vmask t.vf &&& 0x1FFFFF | none => 0
  | 0x211 => match s.maskStrand c with | some t => BitVec.ofNat 64 (fieldOf (s.vmask t.vf) 47 32) | none => 0
  | 0x212 => s.cl.refcnt
  | 0x213 => x.view
  | 0x214 => s.cl.install.setWidth 64
  | 0x216 => BitVec.ofNat 64 (s.cl.prismPend.toNat * 2 ^ 32 + b2n s.cl.prismEn)
  | 0x218 => BitVec.ofNat 64 (x.mirrorCount.toNat * 2 ^ 32 + x.mirrorRecipe.toNat * 2 + b2n x.mirrorAct)
  | 0x510 => x.outst.setWidth 64
  | 0x520 => BitVec.ofNat 64 (s.fi.inc.toNat * 2 ^ 16 + s.fi.fid.toNat)
  | 0x521 => s.fi.groupWord
  | 0x522 => BitVec.ofNat 64 (s.fi.seq.toNat * 2 ^ 32 + s.fi.idx.toNat)
  | 0x523 => s.fi.qwint.setWidth 64
  | 0x524 => 0
  | n =>
    if h : 0x020 ≤ n ∧ n ≤ 0x027 then t.trapOpd.get ⟨n - 0x020, by omega⟩
    else if h : 0x108 ≤ n ∧ n ≤ 0x10F then
      (if n % 2 = 0 then s.core.partA.get ⟨(n - 0x108) / 2, by omega⟩ else s.core.partB.get ⟨(n - 0x108) / 2, by omega⟩)
    else if h : 0x110 ≤ n ∧ n ≤ 0x117 then
      (if n % 2 = 0 then s.core.arenaBase.get ⟨(n - 0x110) / 2, by omega⟩ else s.core.arenaBound.get ⟨(n - 0x110) / 2, by omega⟩)
    else if h : 0x150 ≤ n ∧ n ≤ 0x17F then (s.core.accWm.get ⟨n - 0x150, by omega⟩).word
    else if h : 0x180 ≤ n ∧ n ≤ 0x19F then (s.ring ⟨n - 0x180, by omega⟩).cfg
    else if h : 0x1A0 ≤ n ∧ n ≤ 0x1BF then (s.ring ⟨n - 0x1A0, by omega⟩).ptr
    else if h : 0x1C0 ≤ n ∧ n ≤ 0x1DF then s.ringCount c ⟨n - 0x1C0, by omega⟩
    else if h : 0x200 ≤ n ∧ n ≤ 0x20F then (s.cl.engines.get ⟨n - 0x200, by omega⟩).stat
    else if h : 0x220 ≤ n ∧ n ≤ 0x223 then s.cl.frames.get ⟨n - 0x220, by omega⟩
    else if h : 0x260 ≤ n ∧ n ≤ 0x27F then x.capE.get ⟨n - 0x260, by omega⟩
    else if 0x300 ≤ n ∧ n ≤ 0x303 then s.dieReg c n
    else if 0x400 ≤ n ∧ n < 0x500 then s.pk.reg (n - 0x400)
    else if h : 0x500 ≤ n ∧ n ≤ 0x50F then (x.ports.get ⟨n - 0x500, by omega⟩).bindWord
    else 0

/-! ### Device registers -/

/-- The die memory block (R242 to R264), by offset. -/
def DieMem.reg (d : DieMem) (o : Nat) : Word :=
  match o with
  | 0x000 => d.asidt
  | 0x008 => BitVec.ofNat 64 (b2n d.tlbDone * 2 ^ 63 + d.tlbinv.toNat % 2 ^ 61)
  | 0x010 => BitVec.ofNat 64 (b2n d.sweepDone * 2 ^ 63 + d.sweep.toNat)
  | 0x018 => BitVec.ofNat 64 (b2n d.carveBusy * 2 ^ 63 + d.carveWays.toNat)
  | 0x020 => d.frameReg
  | 0x028 => BitVec.ofNat 64 (d.scrub.length % 2 ^ 32 * 2 ^ 32 + b2n d.refused * 4 + b2n d.lastRet * 2 + b2n d.lastPend)
  | 0x030 => d.keyReg
  | 0x038 => BitVec.ofNat 64 (b2n d.keyDone * 2 ^ 63 + (d.keys.get ⟨d.keyLast.toNat, d.keyLast.isLt⟩).state.toNat * 2 ^ 6 + d.keyLast.toNat)
  | 0x040 => d.chan0
  | 0x048 => d.chan1
  | 0x050 => d.merr
  | 0x058 => d.code
  | 0x060 => d.mapReg
  | 0x068 => BitVec.ofNat 64 (d.mapRank.toNat * 2 ^ 8 + d.mapCode.toNat)
  | o =>
    if h : 0x100 ≤ o ∧ o < 0x180 ∧ o % 8 = 0 then
      let r := d.regions.get ⟨(o - 0x100) / 16, by omega⟩
      if o % 16 = 0 then r.state.setWidth 64 else BitVec.ofNat 64 (b2n r.mode * 2 ^ 8 + r.limit.toNat * 8 + r.base.toNat)
    else if h : 0x200 ≤ o ∧ o < 0x280 ∧ o % 8 = 0 then d.stage.get ⟨(o - 0x200) / 8, by omega⟩
    else 0

/-- Launches ready and launches running (R289). -/
def DieLaunch.running (d : DieLaunch) : Nat := (d.pool.filter fun l => l.state == .running).length

/-- A dependence named by a DEP word is met (R292). -/
def DieLaunch.depMet (d : DieLaunch) (w : Word) : Bool :=
  !bitAt w 63 || decide (((getAt Queue.reset d.queues (fieldOf w 56 48)).ret - 1 - BitVec.ofNat 32 (fieldOf w 31 0)).toNat < 2 ^ 31)

/-- Every dependence of a launch is met: DEP0 to DEP3 are words 5 to 8 of its record (R12). -/
def DieLaunch.ready (d : DieLaunch) (l : Launch) : Bool :=
  l.state == .waiting && ((l.record.drop 5).take 4).all d.depMet

/-- DL_POOL (R289). -/
def DieLaunch.poolWord (d : DieLaunch) : Word :=
  BitVec.ofNat 64 (d.running % 128 * 2 ^ 32 + (d.pool.filter d.ready).length % 512 * 2 ^ 16 + d.pool.length % 512)

/-- LQ_A, LQ_B, LQ_C (R288). -/
def Queue.word (q : Queue) (k : Nat) : Word :=
  match k with
  | 0 => BitVec.ofNat 64 (b2n q.en * 2 ^ 63 + b2n q.frozen * 2 ^ 62 + b2n q.swap * 2 ^ 61 + q.vf.toNat * 2 ^ 52 + q.log2n.toNat * 2 ^ 43 + q.base.toNat * 2 ^ 7)
  | 1 => BitVec.ofNat 64 (q.tail.toNat * 2 ^ 32 + q.head.toNat)
  | 2 => BitVec.ofNat 64 (q.ret.toNat * 2 ^ 32 + q.pend % 512)
  | _ => 0

/-- DL_VFA (R295). -/
def VFn.wordA (v : VFn) : Word :=
  BitVec.ofNat 64 (b2n v.en * 2 ^ 63 + b2n v.flr * 2 ^ 62 + v.feat.toNat * 2 ^ 40 + v.qw.toNat * 2 ^ 16 + v.cw.toNat * 2 ^ 8 + v.bw.toNat)

/-- The die launch block (R287), by offset. -/
def DieLaunch.reg (d : DieLaunch) (o : Nat) : Word :=
  match o with
  | 0x000 => d.qarea
  | 0x008 => d.jobt
  | 0x010 => d.faultq
  | 0x018 => d.fres
  | 0x020 => BitVec.ofNat 64 (b2n d.shootDone * 2 ^ 63 + d.shoot.toNat % 2 ^ 61)
  | 0x030 => d.poolWord
  | o =>
    if o % 8 ≠ 0 then 0
    else if 0x1000 ≤ o ∧ o < 0x5000 then (getAt Queue.reset d.queues ((o - 0x1000) / 32)).word ((o - 0x1000) % 32 / 8)
    else if 0x5000 ≤ o ∧ o < 0x6000 then
      let v := d.vf (BitVec.ofNat 6 ((o - 0x5000) / 64))
      match o % 64 / 8 with
      | 0 => v.wordA
      | 1 => v.vfb
      | 2 => v.log
      | _ => 0
    else if 0x6000 ≤ o ∧ o < 0x8000 then
      if h : (o - 0x6000) % 128 / 8 < 12 then (d.vf (BitVec.ofNat 6 ((o - 0x6000) / 128))).masks.get ⟨(o - 0x6000) % 128 / 8, h⟩ else 0
    else 0

/-- The launch page of a virtual function (R287): the doorbells are write-only. -/
def VFn.pageReg (v : VFn) (o : Nat) : Word :=
  match o with
  | 0x1000 => v.head.setWidth 64
  | 0x1008 => v.tail.setWidth 64
  | 0x1010 => v.drop.setWidth 64
  | 0x1800 => v.attest
  | _ => 0

/-- An 8-byte register of the MMIO range at an offset from 0x80_4000_0000 (R241); an unlisted one reads zero. -/
def State.mmio (s : State) (o : Nat) : Word :=
  if 0x10000 ≤ o ∧ o < 0x20000 then s.dm.reg (o - 0x10000)
  else if 0x20000 ≤ o ∧ o < 0x30000 then s.dl.reg (o - 0x20000)
  else if 0x30000 ≤ o ∧ o < 0x40000 then s.pk.reg ((o - 0x30000) / 8)
  else 0

end Sys2Proof.Machine
end

