-- ==== Sys2Proof/Machine/Mem.lean ====
section
/-! DEFINITION. The path of an access: translation and its checks at the owner die (R243 to R248), homes, the caches L1 and
L2 (R147, R210, R211), what a load returns (R95, R268), publication (R106, R268) and write-back. -/

namespace Sys2Proof.Machine

/-! ### Translation -/

/-- A check of R245 that failed: its order and detail. Order 0 is an uncorrectable error: SUB 0 in the data, SUB 1 in a table (R263). -/
structure Bad where (order sub : Nat)
  deriving DecidableEq, Repr

/-- What an access does (R245). -/
inductive AccKind | load | store | ald | atomic | engRead | engWrite | wload | reduce
  deriving DecidableEq, Repr

/-- Order 3 of R245: which permissions an access needs. -/
def AccKind.reads : AccKind → Bool
  | .load | .ald | .atomic | .engRead | .wload | .reduce => true
  | .store | .engWrite => false
def AccKind.writes : AccKind → Bool
  | .store | .atomic | .engWrite | .reduce => true
  | .load | .ald | .engRead | .wload => false
/-- Order 4: engine operations. -/
def AccKind.engine : AccKind → Bool
  | .engRead | .engWrite | .wload | .reduce => true
  | .load | .store | .ald | .atomic => false
/-- Order 6: atomics and CPYR. -/
def AccKind.atHome : AccKind → Bool
  | .ald | .atomic | .reduce => true
  | .load | .store | .engRead | .engWrite | .wload => false

def State.who (s : State) (c : Fin 5) : Who :=
  match (s.ctx c).strand with
  | some t => ⟨decide (c = svc), t.asid, t.vf, t.job, t.recAddr⟩
  | none => ⟨decide (c = svc), 0, 0, 0, 0⟩

/-- The page holds the type (R244). -/
def pteType (p : Word) : Nat := fieldOf p 7 6
def pteSlot (p : Word) : Fin 64 := ⟨fieldOf p 13 8, by unfold fieldOf bits; omega⟩

/-- The format errors of a valid PTE at a level (R244). -/
def pteMalformed (lvl : Nat) (p : Word) : Bool :=
  let leaf := bitAt p 1
  fieldOf p 63 40 != 0 || bitAt p 14 ||
  (if leaf then bitAt p 15 || lvl == 1 || (lvl == 2 && fieldOf p 27 16 != 0) || pteType p == 3 || (bitAt p 5 && bitAt p 2)
   else lvl == 3 || fieldOf p 13 2 != 0)

/-- The walk of R243 through the levels of `l`, from the table at `t`: the size and the leaf. Tables stand under key slot 0 (R260). -/
def State.walk (s : State) (off : Nat) (l : List Nat) (t : Nat) : Except Bad (Nat × Word) × State :=
  match l with
  | [] => (.error ⟨2, 2⟩, s)
  | lvl :: r =>
    if !s.dm.live t then (.error ⟨2, 5⟩, s)
    else
      let (p, poisoned, s) := s.tableWord (t + 8 * bits off (63 - 12 * lvl) (52 - 12 * lvl))
      if poisoned then (.error ⟨0, 1⟩, s)
      else if !bitAt p 0 then (.error ⟨2, 1⟩, s)
      else if pteMalformed lvl p then (.error ⟨2, 2⟩, s)
      else if bitAt p 1 then (.ok (if lvl = 3 then 2 ^ 16 else 2 ^ 28, p), s)
      else State.walk s off r (fieldOf p 39 16 * 2 ^ 16 + fieldOf p 15 15 * 2 ^ 15)

/-- The address of an ASID table entry (R246). -/
def State.asidAt (s : State) (asid : BitVec 13) : Nat := fieldOf s.dm.asidt 39 17 * 2 ^ 17 + 16 * asid.toNat

/-- The ASID table entry as memory holds it, and whether it is well formed: one with a reserved field translates as free (R246). A table that reaches no
live storage is a translation fault (R244); a poisoned entry is an error in a table (R263). -/
def State.asidRead (s : State) (asid : BitVec 13) : Except Bad (Word × Bool) × State :=
  let a := s.asidAt asid
  if !s.dm.live a then (.error ⟨2, 5⟩, s)
  else
    let (w, poisoned, s) := s.tableWord a
    let (v, _, s) := s.tableWord (a + 8)
    if poisoned then (.error ⟨0, 1⟩, s)
    else (.ok (w, fieldOf w 63 40 == 0 && fieldOf w 14 8 == 0 && fieldOf w 1 0 != 3 && v == 0), s)

/-- The ASID table entry in force: STATE as memory holds it, ROOT and VF as the last invalidation of the ASID found them (R246). -/
def State.asidEntry (s : State) (asid : BitVec 13) : Except Bad Word × State :=
  match s.asidRead asid with
  | (.error b, s) => (.error b, s)
  | (.ok (w, ok), s) => (.ok (withField (getAt 0 s.dm.roots asid.toNat) 1 0 (if ok then fieldOf w 1 0 else 0)), s)

/-- The entry in force as the launch sequencer and the fault service read it, 0 where none can be read. -/
def State.asidWord (s : State) (asid : BitVec 13) : Word := match (s.asidEntry asid).1 with | .ok w => w | .error _ => 0

/-- The entry of the memory-side TLB for an address. -/
def DieMem.tlbFind (d : DieMem) (asid : BitVec 13) (off : Nat) : Option TlbEntry :=
  d.tlb.find? fun e => e.asid == asid && e.page == off / e.size

/-- A free choice below `n`. -/
def State.pick (s : State) (n : Nat) : Nat × State :=
  let (k, s) := s.stamp
  (Config.freeNat k 0 % n, s)

/-- Install an entry in the memory-side TLB, which holds 64 Ki (R248). -/
def State.tlbFill (s : State) (e : TlbEntry) : State :=
  if s.dm.tlb.length < 65536 then { s with dm := { s.dm with tlb := e :: s.dm.tlb } }
  else
    let (i, s) := s.pick 65536
    { s with dm := { s.dm with tlb := e :: s.dm.tlb.eraseIdx i } }

/-- The leaf for an offset, from the TLB or by a walk (R243, R248), and whether the TLB holds it. -/
def State.leaf (s : State) (asid : BitVec 13) (vf : BitVec 6) (off : Nat) : Except Bad (TlbEntry × Bool) × State :=
  match s.asidEntry asid with
  | (.error b, s) => (.error b, s)
  | (.ok e, s) =>
    if fieldOf e 1 0 ≠ 1 ∨ fieldOf e 7 2 ≠ vf.toNat then (.error ⟨2, 3⟩, s)
    else match s.dm.tlbFind asid off with
      | some t => (.ok (t, true), s)
      | none =>
        match s.walk off [1, 2, 3] (fieldOf e 39 15 * 2 ^ 15) with
        | (.error b, s) => (.error b, s)
        | (.ok (size, p), s) => (.ok (⟨asid, off / size, size, p⟩, false), s)

/-- The frame is retired (R259, R263); the dump area counts as retired (R316). -/
def DieMem.frameRetired (d : DieMem) (f : Nat) : Bool := d.retired.contains f || (d.dumpSet && decide (0x1FF000 ≤ f ∧ f < 0x200000))

/-- A pending frame stands in the mapping (R259). -/
def DieMem.framePending (d : DieMem) (pa size : Nat) : Bool := d.scrub.any fun f => f / (size / 2 ^ 16) == pa / size

/-- Offset in MMIO (R241). -/
def inMmio (pa : Nat) : Bool := decide (0x8040000000 ≤ pa ∧ pa < 0x8050000000)
/-- The code arena (R241): only service contexts store there (R149). -/
def inArena (pa : Nat) : Bool := decide (0x8100000000 ≤ pa ∧ pa < 0x8200000000)

/-- Orders 3 to 10 of R245 on a leaf. `n` is the length of the access. Slot 0 is bound to no tenant (R260). -/
def State.checkLeaf (s : State) (w : Who) (k : AccKind) (n pa size : Nat) (p : Word) : Option Bad :=
  let key := s.dm.keys.get (pteSlot p)
  if k.reads ∧ bitAt p 3 = false then some ⟨3, 1⟩
  else if k.writes ∧ bitAt p 2 = false then some ⟨3, 2⟩
  else if k.engine ∧ bitAt p 4 = false then some ⟨4, 3⟩
  else if k = .wload ∧ bitAt p 5 = false then some ⟨5, 4⟩
  else if pteType p = 2 ∧ (k.atHome ∨ 8 < n) then some ⟨6, 5⟩
  else if !(key.state == 1 && key.vf == w.vf && pteSlot p != 0) then some ⟨7, 6⟩
  else if pa < 2 ^ 37 ∧ s.dm.frameRetired (pa / 2 ^ 16) then some ⟨8, 6⟩
  else if pa < 2 ^ 37 ∧ s.dm.framePending pa size then some ⟨9, 1⟩
  else if !(s.dm.live pa || (pteType p == 2 && inMmio pa) || (w.svc && inArena pa)) then some ⟨10, 5⟩
  else none

/-- The unit that a machine check of this die's memory names (R314). -/
def State.dieUnit (s : State) : Word32 := BitVec.ofNat 32 (s.core.die.toNat * 2 ^ 30)

/-- An access at its owner die, this die: the physical address and the leaf, or the check that failed (R245). A fill that meets checks 7 to 10
faults and installs nothing (R259, R261); an uncorrectable error in a table is a machine check, whoever made the access (R263, R314). -/
def State.access (s : State) (w : Who) (off : Nat) (k : AccKind) (n : Nat) : Except Bad (Nat × Word) × State :=
  match s.leaf w.asid w.vf off with
  | (.error b, s) => (.error b, if b = ⟨0, 1⟩ then s.enqueue (.machineCheck 2 s.dieUnit) else s)
  | (.ok (e, held), s) =>
    let pa := fieldOf e.pte 39 16 * 2 ^ 16 + off % e.size
    let bad := s.checkLeaf w k n pa e.size e.pte
    let s := if held || (bad.any fun b => decide (7 ≤ b.order)) then s else s.tlbFill e
    match bad with
    | some b => (.error b, s)
    | none => (.ok (pa, e.pte), s)

/-! ### Homes -/

/-- The Mirror frame of a context in Mirror service (R206). -/
def State.mirrorFrame (s : State) (c : Fin 5) : Option Nat :=
  match asStrand c with
  | some i => if (s.ctx c).mirrorAct then some (fieldOf (s.cl.frames.get i) 39 18 * 2 ^ 18) else none
  | none => none

/-- The key tag of a write: HBM stands under the leaf's slot, the code arena under slot 0 (R242, R250). -/
def State.tagFor (s : State) (pa : Nat) (p : Word) : Nat := s.dm.keyTag (if inArena pa then 0 else pteSlot p)

/-- A sector at its home as the leaf's key reads it; MMIO registers are read in place. -/
def State.homeRead (s : State) (pa : Nat) (p : Word) : Sector × Bool × State :=
  let base := pa / 32 * 32
  if inMmio pa then
    (BitVec.ofNat 256 ((List.range 4).foldl (fun a i => a + (s.mmio (base - 0x8040000000 + 8 * i)).toNat * 2 ^ (64 * i)) 0), false, s)
  else match s.dm.backing base with
    | some b => s.readSector (if inArena pa then 0 else pteSlot p) (b / 32)
    | none => (0, false, s)

/-- The event of a store to an MMIO register (R242, R287, R306): a command runs as its own step, another sets fields. -/
def mmioEvent (o : Nat) (v : Word) : Event :=
  match o with
  | 0x10008 => .tlbInvalidate v
  | 0x10010 => .asidSweep v
  | 0x10018 => .carveResize v
  | 0x10020 => if fieldOf v 63 62 = 1 then .frameFree v else if fieldOf v 63 62 = 2 then .frameQuery v else .registerWrite .service (0x10000 + o) v
  | 0x10030 => if fieldOf v 63 62 = 1 then .keyGenerate v else if fieldOf v 63 62 = 2 then .keyDestroy v else .registerWrite .service (0x10000 + o) v
  | 0x10060 => if fieldOf v 5 0 = 1 then .mapArm v else if fieldOf v 5 0 = 2 then .mapWithdraw v else if fieldOf v 5 0 = 3 then .mapRead v
               else .registerWrite .service (0x10000 + o) v
  | 0x20000 => .queueAreaConfig v
  | 0x20018 => if fieldOf v 63 62 = 1 then .faultResume (BitVec.ofNat 12 v.toNat) else if fieldOf v 63 62 = 2 then .faultFail (BitVec.ofNat 12 v.toNat)
               else .registerWrite .service (0x10000 + o) v
  | 0x20020 => .shootDown v
  | 0x30050 => .attestRequest none v
  | 0x30058 => .msiSignal v
  | 0x30400 => if bitAt v 63 then .registerWrite .service (0x10000 + o) v else .pavaneDisable v
  | 0x30410 => .pavaneTableLoad v
  | o =>
    if 0x21000 ≤ o ∧ o < 0x25000 ∧ o % 32 = 0 then .launchQueueConfig (BitVec.ofNat 9 ((o - 0x21000) / 32)) v
    else if 0x25000 ≤ o ∧ o < 0x26000 ∧ o % 64 = 0 ∧ bitAt v 62 then .functionLevelReset (BitVec.ofNat 6 ((o - 0x25000) / 64))
    else .registerWrite .service (0x10000 + o) v

/-- Bytes stored to one 8-byte MMIO word: the bytes not stored keep what the register reads (log 13). -/
def State.mmioStore (s : State) (o : Nat) (mask : Nat) (v : Word) : State :=
  if mask = 0 then s
  else
    let v := mergeBits (s.mmio o) v (BitVec.ofNat 64 (spread 8 mask 8))
    match mmioEvent o v with
    | .functionLevelReset f => (s.later (.registerWrite .service (0x10000 + o) (v &&& ~~~(1#64 <<< 62)))).later (.functionLevelReset f)
    | e => s.later e

/-- Write the bytes of a sector at its home. MMIO takes stores of service contexts only; one to the code arena beyond its size is discarded, and
Lantern is told (R242). -/
def State.homeWrite (s : State) (w : Who) (pa : Nat) (p : Word) (mask : BitVec 32) (v : Sector) : State :=
  let base := pa / 32 * 32
  if inMmio pa then
    if w.svc then
      loopUp 4 (fun i s => s.mmioStore (base - 0x8040000000 + 8 * i) (fieldOf mask (8 * i + 7) (8 * i)) (BitVec.ofNat 64 (fieldOf v (64 * i + 63) (64 * i)))) s
    else s
  else match s.dm.backing base with
    | some b =>
      let key := s.tagFor pa p
      let s := if mask = BitVec.allOnes 32 then s else s.refill key (b / 32)
      let s := { s with dm := s.dm.writeSector key (b / 32) mask v }
      if inArena pa then { s with core := { s.core with icache := eraseAt s.core.icache (pa / 256) } } else s
    | none => if inArena pa && w.svc then s.tell (.arenaStore (pa - 0x8100000000)) else s

/-- Code that the device's own software writes into the arena (R149, R214, R384): what lies beyond the arena's size is discarded, and Lantern is told
(R242); what its backing would place outside HBM reaches nothing (R241). The lines written leave the instruction cache. -/
def State.arenaWrite (s : State) (a : Nat) (code : List Byte) : State :=
  let o := a - 0x8100000000
  let size := fieldOf s.dm.code 47 40 * 2 ^ 24
  let b := fieldOf s.dm.code 23 0 * 2 ^ 16 + o
  let bs := code.take (min (size - o) (2 ^ 37 - b))
  let s := s.devWrite b bs
  let s := if size < o + code.length then s.tell (.arenaStore (max o size)) else s
  { s with core := { s.core with icache := s.core.icache.filter fun e => !decide (a < e.1 * 256 + 256 ∧ e.1 * 256 < a + bs.length) } }

/-- A sector written at its home carries poison with it (R150, R263). -/
def State.homePoison (s : State) (pa : Nat) : State :=
  match s.dm.backing pa with
  | some a => { s with dm := s.dm.setTag (a / 32) { s.dm.tag (a / 32) with poison := true } }
  | none => s

/-! ### Caches -/

/-- The key of a sector in L1 and L2: ASID and sector number. -/
def ckey (asid : BitVec 13) (sec : Nat) : Nat := asid.toNat * 2 ^ 59 + sec
def keyAsid (k : Nat) : BitVec 13 := BitVec.ofNat 13 (k / 2 ^ 59)
def keySec (k : Nat) : Nat := k % 2 ^ 59

/-- Change or drop every entry. -/
def SMap.mapOpt {α : Type} (m : SMap α) (f : Nat → α → Option α) : SMap α :=
  m.filterMap fun e => (f e.1 e.2).map fun v => (e.1, v)

def L1Sector.none : L1Sector := ⟨0, 0, 0, 0, 0, 0, false⟩
def L2Sector.none : L2Sector := ⟨0, 0, 0, 0, 0, 0, 0, false, 0⟩

def State.l1At (s : State) (k : Nat) : L1Sector := (lookup s.core.l1 k).getD L1Sector.none
def State.l2At (s : State) (k : Nat) : L2Sector := (lookup s.cl.l2 k).getD L2Sector.none

/-- Store an L1 entry; one without a valid byte is dropped. -/
def State.setL1 (s : State) (k : Nat) (e : L1Sector) : State :=
  { s with core := { s.core with l1 := if e.valid = 0 then eraseAt s.core.l1 k else insertAt s.core.l1 k e } }
def State.setL2 (s : State) (k : Nat) (e : L2Sector) : State :=
  { s with cl := { s.cl with l2 := if e.valid = 0 then eraseAt s.cl.l2 k else insertAt s.cl.l2 k e } }

/-- The dirty bytes of an L1 sector outside a mask; one with none names no publisher. -/
def L1Sector.without (e : L1Sector) (mask : BitVec 32) : L1Sector :=
  let d := e.dirty &&& ~~~mask
  { e with valid := d, dirty := d, by_ := if d = 0 then 0 else e.by_ }
def L2Sector.without (e : L2Sector) (mask : BitVec 32) : L2Sector :=
  { e with valid := (e.dirty ||| e.out) &&& ~~~mask, dirty := e.dirty &&& ~~~mask, out := e.out &&& ~~~mask }

/-- The loads under way of a sector fill no cache: it changes before they are answered. -/
def Ctx.noFill (x : Ctx) (sec : Nat) : Ctx :=
  { x with reqs := x.reqs.map fun r => match r.kind with
      | .load parts (some _) => if r.addr.toNat / 32 = sec then { r with kind := .load parts none } else r
      | _ => r }
def State.noFill (s : State) (k : Nat) : State :=
  { s with core := { s.core with ctxs := s.core.ctxs.map fun (x : Ctx) => x.noFill (keySec k) } }

/-- Bytes of a sector become newer elsewhere: L1 and L2 give up their copies of them, and the clean bytes of the sector, so that what they go on serving is
of one age (R274). -/
def State.supersede (s : State) (k : Nat) (mask : BitVec 32) : State :=
  ((s.setL1 k ((s.l1At k).without mask)).setL2 k ((s.l2At k).without mask)).noFill k
/-- A row written at a home elsewhere: the clean copies of a sector give way. -/
def State.supersedeClean (s : State) (k : Nat) : State := s.supersede k 0

/-- A refresh of the view of context `c` (R106, R211): clean L1 sectors of the ASID are dropped and the count rises. -/
def State.dropClean (s : State) (asid : BitVec 13) : State :=
  let l1 := SMap.mapOpt s.core.l1 fun k e => if keyAsid k = asid then (if e.dirty = 0 then none else some { e with valid := e.dirty }) else some e
  { s with core := { s.core with l1 := l1 } }
/-- A refresh of a context's view (R106, R211). -/
def State.refresh (s : State) (c : Fin 5) : State :=
  let n := s.cl.refcnt + 1
  let s := s.dropClean (s.who c).asid
  ({ s with cl := { s.cl with refcnt := n } } : State).modCtx c fun x => { x with view := n }

/-! ### Requests to other dies -/

/-- A sector leaves for another die: a stream of the context waits for one more acknowledgement (R272). -/
def Ctx.sent (x : Ctx) (die : BitVec 12) : Ctx :=
  let old := (x.streams.find? fun e => e.1 == die).map (·.2)
  { x with outst := x.outst + 1, streams := match old with
    | some n => x.streams.map fun e => if e.1 = die then (die, n + 1) else e
    | none => x.streams ++ [(die, 1)] }

/-- The sending unit of a context. -/
def State.srcOf (s : State) (c : Fin 5) : UnitId := s.unitOf c (s.who c).job 0

/-- Ask for acknowledgements on every stream with unacknowledged sectors (R272, R359). -/
def State.askAcks (s : State) (c : Fin 5) : State :=
  (s.ctx c).streams.foldl (fun (s : State) (e : BitVec 12 × Word) =>
    if e.2 == 0#64 then s
    else match s.dieOf (s.who c).job e.1.toNat with
      | .other fid die => s.send ⟨fid, die, false, .ackRequest (s.unitOf c (s.who c).job 0)⟩
      | _ => s) s

/-- Some stream of the context is unacknowledged. -/
def Ctx.owesAcks (x : Ctx) : Bool := x.streams.any fun e => e.2 != 0

/-- How a sector met its home. -/
inductive Sent | own | other | lost
  deriving DecidableEq, Repr

/-- Send the bytes of one sector toward the home: performed now where this die is the home, discarded where the home's
translation no longer admits it (R265). Poison goes with them (R150). -/
def State.toHome (s : State) (c : Fin 5) (w : Who) (sec : Nat) (mask : BitVec 32) (v : Sector) (counted flush poison : Bool) : Sent × State :=
  let ld := sec / 2 ^ 47
  let off := sec % 2 ^ 47 * 32
  match s.dieOf w.job ld with
  | .own =>
    match s.access w off .store (if mask.toNat < 256 ∨ fieldOf mask 7 0 = 0 then 8 else 1) with
    | (.ok (pa, p), s) =>
      let s := s.homeWrite w pa p mask v
      (.own, if poison then s.homePoison pa else s)
    | (.error _, s) => (.own, s)
  | .other fid die =>
    let s := if counted then s.count w.job 1 0 0 else s
    let s := s.send ⟨fid, die, flush, .store ⟨s.unitOf c w.job 0, counted, w.job, w.vf, w.asid, off, mask, v, flush, poison⟩⟩
    let s := { s with core := { s.core with flying := s.core.flying ++ [(⟨BitVec.ofNat 12 ld, c, BitVec.ofNat 64 (sec * 32), ckey w.asid sec, w.job, counted⟩ : Flight)] } }
    (.other, s.modCtx c fun x => x.sent (BitVec.ofNat 12 ld))
  | _ => (.lost, if counted then s.count w.job 1 0 1 else s)

/-- A write-back lost to a departed home, not forced by an instruction, is posted (R396). -/
def State.postLost (s : State) (asid : BitVec 13) (vf : BitVec 6) (sec : Nat) : State :=
  s.log vf ⟨7, 1, 0, asid, vf, 0, 0, 0, 0, BitVec.ofNat 64 (sec * 32), 0⟩

/-- Bytes of an L2 sector have gone to their home: on this die they are clean from now on, on another once it acknowledges them (R211, R268); the sector's
older clean bytes are not kept with them, since the fill count is one for the sector. A poisoned sector is not kept. -/
def L2Sector.gone (b : L2Sector) (r : Sent) (now : Word) : L2Sector :=
  if b.poison then L2Sector.none
  else match r with
    | .own => { b with valid := b.dirty ||| b.out, dirty := 0, fc := if b.out = 0 then now else b.fc }
    | .other => { b with dirty := 0, out := b.out ||| b.dirty }
    | .lost => L2Sector.none

/-- Write the dirty bytes of an L2 sector back to their home; the sector stays, clean (R211). The flag says that the home has left. -/
def State.writeBack (s : State) (c : Fin 5) (k : Nat) : Bool × State :=
  let b := s.l2At k
  if b.dirty = 0 then (false, s)
  else
    let w : Who := ⟨false, keyAsid k, b.vf, b.job, 0⟩
    let (r, s) := s.toHome c w (keySec k) b.dirty b.data false false b.poison
    (r == .lost, s.setL2 k ((s.l2At k).gone r s.cl.refcnt))

/-- Write an L2 sector back and drop it. -/
def State.dropL2 (s : State) (c : Fin 5) (k : Nat) : Bool × State :=
  let (lost, s) := s.writeBack c k
  (lost, s.setL2 k L2Sector.none)

/-- A write-back forced by no instruction, which counts for context `c`: what is lost is posted (R396). -/
def State.spill (s : State) (c : Fin 5) (k : Nat) : State :=
  let vf := (s.l2At k).vf
  let (lost, s) := s.dropL2 c k
  if lost then s.postLost (keyAsid k) vf (keySec k) else s

/-! ### Room (R147, R149, R210): the index function and the replacement are not architectural, so they are free (log 8) -/

/-- The lines that hold the sectors of a map, each once. -/
def linesOf (ks : List Nat) : List Nat := ks.foldr (fun k l => if l.head? = some (k / 8) then l else k / 8 :: l) []

/-- Two lines stand in one of the `n` sets of a cache. -/
def sameSet (cache n a b : Nat) : Bool := Config.cacheSet cache a % n == Config.cacheSet cache b % n

/-- A way of the L2 for a line of a virtual function: its own, a free way of its WAYS mask, or one whose line is replaced (R210). The L2 has 4096
sets of 16 ways. -/
def State.l2Way (s : State) (vf : BitVec 6) (k : Nat) : Nat × State :=
  match s.cl.l2.find? fun e => e.1 / 8 == k / 8 with
  | some e => (e.2.way, s)
  | none =>
    let ways := (List.range 16).filter fun i => bitAt (s.vmask vf) (32 + i)
    match ways.find? fun i => s.cl.l2.all fun e => e.2.way != i with
    | some i => (i, s)
    | none =>
      let set := s.cl.l2.filter fun e => sameSet 1 4096 (e.1 / 8) (k / 8)
      match ways.find? fun i => set.all fun e => e.2.way != i with
      | some i => (i, s)
      | none =>
        let (n, s) := s.pick ways.length
        let i := (ways[n]?).getD 0
        (i, ((set.filter fun e => e.2.way == i).map (·.1)).foldl (fun s k => s.spill svc k) s)

/-- Enter a sector in L2, in the way of its line. -/
def State.putL2 (s : State) (k : Nat) (e : L2Sector) : State :=
  if e.valid = 0 then s.setL2 k e
  else
    let (i, s) := s.l2Way e.vf k
    s.setL2 k { e with way := i }

/-- A dirty L1 sector goes to L2; its poison goes with it (R147, R150). -/
def State.l1ToL2 (s : State) (k : Nat) : State :=
  let a := s.l1At k
  if a.dirty = 0 then s
  else
    let b := s.l2At k
    let s := s.putL2 k { b with data := mergeBits b.data a.data (sectorBits a.dirty), valid := b.valid ||| a.dirty, dirty := b.dirty ||| a.dirty,
                                vf := a.vf, job := a.job, poison := a.poison || b.poison }
    s.setL1 k (if a.poison then L1Sector.none else { a with valid := a.dirty, dirty := 0, by_ := 0 })

/-- A sector of L1 is replaced: a dirty one goes to L2 (R147). -/
def State.dropL1 (s : State) (k : Nat) : State := (s.l1ToL2 k).setL1 k L1Sector.none

/-- Room in L1, which has 160 sets of 16 ways, for the line of a sector. -/
def State.l1Room (s : State) (k : Nat) : State :=
  let ks := s.core.l1.map (·.1)
  let lines := linesOf ks
  if lines.contains (k / 8) || decide (lines.length < 16) then s
  else
    let set := lines.filter fun l => sameSet 0 160 l (k / 8)
    if set.length < 16 then s
    else
      let (n, s) := s.pick set.length
      (ks.filter fun a => some (a / 8) == set[n]?).foldl State.dropL1 s

/-- Enter a sector in L1. -/
def State.putL1 (s : State) (k : Nat) (e : L1Sector) : State := if e.valid = 0 then s.setL1 k e else (s.l1Room k).setL1 k e

/-- Fill L2 and L1 with clean bytes of a sector from its home, asked for when CL_REFCNT was `fc`; dirty bytes stay, older clean bytes go (R147, R211). -/
def State.fillPart (s : State) (w : Who) (k : Nat) (mask : BitVec 32) (v : Sector) (fc : Word) (l1 l2 : Bool) : State :=
  let b := s.l2At k
  let mine := b.dirty ||| b.out
  let d2 := mergeBits v b.data (sectorBits mine)
  let s := if l2 then s.putL2 k { b with data := d2, valid := mask ||| mine, fc := fc, vf := w.vf, job := w.job } else s
  let a := s.l1At k
  if l1 then s.putL1 k { a with data := mergeBits d2 a.data (sectorBits a.dirty), valid := mask ||| a.dirty, vf := w.vf, job := w.job } else s
/-- Fill L2 and L1 with a clean sector read at its home now. -/
def State.fill (s : State) (w : Who) (k : Nat) (v : Sector) (l1 l2 : Bool) : State := s.fillPart w k (BitVec.allOnes 32) v s.cl.refcnt l1 l2

/-- Accept published bytes in L2 as dirty (R268). -/
def State.l2Accept (s : State) (w : Who) (k : Nat) (mask : BitVec 32) (v : Sector) : State :=
  let s := (s.setL1 k ((s.l1At k).without mask)).noFill k
  let b := s.l2At k
  s.putL2 k { b with data := mergeBits b.data v (sectorBits mask), valid := b.valid ||| mask, dirty := b.dirty ||| mask, out := b.out &&& ~~~mask,
                     vf := w.vf, job := w.job }

/-- Write back and drop a sector of L1 and L2. -/
def State.flushSector (s : State) (c : Fin 5) (k : Nat) : Bool × State := ((s.noFill k).dropL1 k).dropL2 c k

/-- Write back and drop every sector of L1 and L2 whose key is selected, posting what is lost (R247, R269, R300); the write-backs count for context
`c`. -/
def State.flushAll (s : State) (c : Fin 5) (p : Nat → Bool) : State :=
  let ks := ((s.core.l1.map (·.1)).filter p) ++ ((s.cl.l2.map (·.1)).filter p)
  ks.foldl (fun s k => (s.dropL1 k).spill c k) s

/-- A home has acknowledged sectors: those with no other copy on the way are clean in L2 from now on (R211, R268). -/
def State.settleL2 (s : State) (done : List Flight) : State :=
  done.foldl (fun s f =>
    let b := s.l2At f.key
    if b.out = 0 ∨ (s.core.flying.any fun g => g.key == f.key) = true then s
    else s.setL2 f.key { b with valid := b.dirty ||| b.out, out := 0, fc := if b.dirty = 0 then s.cl.refcnt else b.fc }) s

/-! ### Reading -/

/-- The pieces of a span, one a sector: sector, place in it, length, place in the span (R94). -/
structure Piece where (sec at_ len pos : Nat)
  deriving DecidableEq, Repr

/-- Cut `n` bytes from address `a` into pieces; addresses wrap modulo 2^64. -/
def pieces (fuel a n pos : Nat) : List Piece :=
  match fuel with
  | 0 => []
  | f + 1 =>
    if n = 0 then []
    else
      let a := a % 2 ^ 64
      let k := if n ≤ 32 - a % 32 then n else 32 - a % 32
      ⟨a / 32, a % 32, k, pos⟩ :: pieces f (a + k) (n - k) (pos + k)

/-- The bytes of a sector that a piece covers. -/
def Piece.mask (p : Piece) : BitVec 32 := BitVec.ofNat 32 ((2 ^ p.len - 1) * 2 ^ p.at_)

/-- What a read of bytes of one sector finds. -/
inductive Got
  /-- The bytes, in their places; `missing` are still to come from another die. -/
  | data (v : Sector) (missing : BitVec 32) (fid : BitVec 16) (die : BitVec 2)
  | bad (b : Bad)
  /-- A dirty L1 sector lost to an error (R150). -/
  | lost
  /-- The die has left the group (R94). -/
  | gone
  /-- An address outside the Mirror frame, in Mirror service (R206). -/
  | noFrame
  deriving DecidableEq, Repr

/-- What a load by context `c` of the bytes `mask` of sector `sec` finds (R94, R95, R268): first whether its die is there, then the phase buffer, what
the core and the cluster have published and not sent home, then clean bytes of L1, of L2 under the refresh rule, or of the home: all from one of them, so
that a racing write is seen whole or not at all (R274). `n` is the length of the access. -/
def State.readSec (s : State) (c : Fin 5) (sec : Nat) (mask : BitVec 32) (n : Nat) : Got × State :=
  let x := s.ctx c
  let w := s.who c
  let k := ckey w.asid sec
  if (s.mirrorFrame c).isSome ∧ sec / 2 ^ 47 = 0xFFF then
    let o := sec % 2 ^ 47 * 32
    if o < 2 ^ 18 then
      match s.dm.backing ((s.mirrorFrame c).getD 0 + o) with
      | some b => (if s.dm.poisoned b 32 then .bad ⟨0, 0⟩ else .data (BitVec.ofNat 256 (ofBytes (Memory.getAll s.dm.mem b 32))) 0 0 0, s)
      | none => (.noFrame, s)
    else (.noFrame, s)
  else
  let b0 := (lookup x.buf sec).getD ⟨0, 0, false⟩
  let m1 := mask &&& ~~~b0.mask
  match s.dieOf w.job (sec / 2 ^ 47) with
  | .bad => (.bad ⟨1, 4⟩, s)
  | .gone _ _ => (.gone, s)
  | home =>
  if m1 = 0 then (.data b0.data 0 0 0, s)
  else
  let a := s.l1At k
  if a.poison then (.lost, s)
  else
  let b := s.l2At k
  let mine := if b.poison then 0 else (b.dirty ||| b.out) &&& ~~~a.dirty
  let v := mergeBits (mergeBits b0.data a.data (sectorBits (m1 &&& a.dirty))) b.data (sectorBits (m1 &&& mine))
  let m3 := m1 &&& ~~~(a.dirty ||| mine)
  if m3 &&& ~~~a.valid = 0 then (.data (mergeBits v a.data (sectorBits m3)) 0 0 0, s)
  else if b.poison then (.bad ⟨0, 0⟩, s)
  else if x.view ≤ b.fc ∧ m3 &&& ~~~b.valid = 0 then (.data (mergeBits v b.data (sectorBits m3)) 0 0 0, s)
  else match home with
    | .other fid die => (.data v m3 fid die, s)
    | _ =>
      match s.access w (sec % 2 ^ 47 * 32) .load n with
      | (.error e, s) => (.bad e, s)
      | (.ok (pa, p), s) =>
        let (h, poisoned, s) := s.homeRead pa p
        if poisoned then (.bad ⟨0, 0⟩, s)
        else
          let s := if pteType p = 0 then s.fill w k h true true else s
          (.data (mergeBits v h (sectorBits m3)) 0 0 0, s)

/-! ### The phase buffer -/

/-- Enter bytes into the phase buffer: a later store replaces an earlier one (R96). -/
def bufStore (b : SMap BufSector) (p : Piece) (v : Nat) : SMap BufSector :=
  let e := (lookup b p.sec).getD ⟨0, 0, false⟩
  let d : Sector := BitVec.ofNat 256 (v / 2 ^ (8 * p.pos) % 2 ^ (8 * p.len) * 2 ^ (8 * p.at_))
  insertAt b p.sec { e with mask := e.mask ||| p.mask, data := mergeBits e.data d (sectorBits p.mask) }

/-- Sectors a phase buffer holds (R96). -/
def bufLimit : Nat := 2048

/-! ### Publication -/

/-- The page of a buffered sector is cached (R244): its home has told (log 17). -/
def State.cacheable (s : State) (w : Who) (sec : Nat) (e : BufSector) : Bool × State :=
  match s.dieOf w.job (sec / 2 ^ 47) with
  | .own => match s.access w (sec % 2 ^ 47 * 32) .store 1 with
    | (.ok (_, p), s) => (pteType p == 0, s)
    | (.error _, s) => (true, s)
  | _ => (!e.uncached, s)

/-- Publication at the home of one sector: copies elsewhere in the core and cluster give way. Where it must be visible in the cluster before a home
on another die has performed it, L2 accepts it first and keeps it until the acknowledgement (R268). A departed home is noted with the first address
and the count (R352). -/
def State.publishHome (s : State) (c : Fin 5) (w : Who) (sec : Nat) (e : BufSector) (counted flush accept : Bool) : State :=
  let k := ckey w.asid sec
  let other := match s.dieOf w.job (sec / 2 ^ 47) with | .other _ _ => true | _ => false
  let s := if accept && other && !e.uncached then
      let s := s.l2Accept w k e.mask e.data
      let b := s.l2At k
      s.setL2 k { b with dirty := b.dirty &&& ~~~e.mask, out := b.out ||| e.mask }
    else s.supersede k e.mask
  match s.toHome c w sec e.mask e.data counted flush false with
  | (.lost, s) => s.modCtx c fun x => { x with lost := match x.lost with
      | none => some (BitVec.ofNat 64 (sec * 32), 1)
      | some (a, n) => some (a, n + 1) }
  | (_, s) => s

/-- A write-back that an instruction of the context forces toward a departed home (R396). -/
def State.noteLost (s : State) (c : Fin 5) (lost : Bool) (sec : Nat) : State :=
  if lost then s.modCtx c fun x => { x with lost := match x.lost with | none => some (BitVec.ofNat 64 (sec * 32), 0) | some l => some l } else s

/-- Publish one buffered sector at a scope (R106, R147, R268). -/
def State.publishSector (s : State) (c : Fin 5) (w : Who) (scope : Scope) (sec : Nat) (e : BufSector) : State :=
  let k := ckey w.asid sec
  match scope with
  | .core =>
    let (cached, s) := s.cacheable w sec e
    if cached then
      let a := s.l1At k
      s.putL1 k { a with data := mergeBits a.data e.data (sectorBits e.mask), valid := a.valid ||| e.mask, dirty := a.dirty ||| e.mask,
                         by_ := a.by_ ||| BitVec.ofNat 5 (2 ^ c.val), vf := w.vf, job := w.job }
    else s.publishHome c w sec e false false false
  | .cluster =>
    let (cached, s) := s.cacheable w sec e
    if cached then s.l2Accept w k e.mask e.data else s.publishHome c w sec e false false false
  | .die => s.publishHome c w sec e true false true
  | .package | .fabric => s.publishHome c w sec e true true true

/-- Step 1 of a close (R106): at cluster scope or wider the context's own dirty L1 sectors go to L2 first (R147). -/
def State.publish (s : State) (c : Fin 5) (scope : Scope) : State :=
  let w := s.who c
  let s := if scope = .core then s
    else (s.core.l1.filter fun e => bitAt e.2.by_ c.val && e.2.dirty != 0).foldl (fun s e => s.l1ToL2 e.1) s
  let buf := (s.ctx c).buf
  let s := s.modCtx c fun x => { x with buf := [] }
  buf.foldl (fun s e => s.publishSector c w scope e.1 e.2) s

/-- A release sends every buffered store to its home (R104). -/
def State.release (s : State) (c : Fin 5) : State :=
  let w := s.who c
  let buf := (s.ctx c).buf
  let s := s.modCtx c fun x => { x with buf := [] }
  buf.foldl (fun s e => s.publishHome c w e.1 e.2 true false false) s

/-! ### Atomics at the home -/

/-- New value of an atomic of `n` bytes (R102); none where nothing is written. `f` is the f field of the word. -/
def atomicNew (axch : Bool) (f : BitVec 6) (n old w e : Nat) : Option Nat :=
  let m := 2 ^ (8 * n)
  let neg (v : Nat) : Int := if v < m / 2 then (v : Int) else (v : Int) - m
  if axch then
    match f.toNat % 4 with
    | 0 => some w
    | 1 => if old = e then some w else none
    | 2 => none
    | _ => some w
  else
    match f.toNat % 8 with
    | 0 => some ((old + w) % m)
    | 1 => some (if neg w < neg old then w else old)
    | 2 => some (if neg old < neg w then w else old)
    | 3 => some (if w < old then w else old)
    | 4 => some (if old < w then w else old)
    | 5 => some (old &&& w)
    | 6 => some (old ||| w)
    | _ => some (old ^^^ w)

/-- Bytes an atomic acts on, from its f field. -/
def atomicBytes (axch : Bool) (f : BitVec 6) : Nat := if bitAt f (if axch then 2 else 3) then 8 else 4
/-- The atomic only reads. -/
def atomicIsLoad (axch : Bool) (f : BitVec 6) : Bool := axch && f.toNat % 4 == 2

/-- Perform an atomic at its home, this die (R102, R262): the old value, or the failed check. -/
def State.homeAtomic (s : State) (wh : Who) (off : Nat) (axch : Bool) (f : BitVec 6) (w e : Word) : Except Bad Nat × State :=
  let n := atomicBytes axch f
  match s.access wh off (if atomicIsLoad axch f then .ald else .atomic) n with
  | (.error b, s) => (.error b, s)
  | (.ok (pa, p), s) =>
    let (v, poisoned, s) := s.homeRead pa p
    if poisoned then (.error ⟨0, 0⟩, s)
    else
      let old := v.toNat / 2 ^ (8 * (pa % 32)) % 2 ^ (8 * n)
      match atomicNew axch f n old (w.toNat % 2 ^ (8 * n)) (e.toNat % 2 ^ (8 * n)) with
      | none => (.ok old, s)
      | some x => (.ok old, s.homeWrite wh pa p (BitVec.ofNat 32 ((2 ^ n - 1) * 2 ^ (pa % 32))) (BitVec.ofNat 256 (x * 2 ^ (8 * (pa % 32)))))

end Sys2Proof.Machine
end

