-- ==== Sys2Proof/Machine/Close.lean ====
section
/-! DEFINITION. What a region's close performs after its publication (R24, R106 step 2): freed slots, port messages and
their counts (R340, R343, R347), recorded Pavane requests and credits (R328 to R330). -/

namespace Sys2Proof.Machine

/-! ### Port messages -/

/-- Deliver a port message toward its peer: an event of this core, or a packet; to one that has left it is discarded by the sender (R348). -/
def State.deliver (s : State) (c : Fin 5) (n : Fin 16) (job : BitVec 12) (peer : UnitId) (words : List Word) : State :=
  let msg : PortMsg := ⟨s.unitOf c job n.val, job, fin4 peer.ctx, fin16 peer.port, words⟩
  match s.dieOf job peer.ldie.toNat with
  | .own => if s.onCore peer then s.later (.portMessageArrive msg) else s.send ⟨s.fi.fid, s.core.die, false, .port msg peer⟩
  | .other fid die => s.send ⟨fid, die, false, .port msg peer⟩
  | _ => s.count job 0 0 1

/-- A message to this peer must wait for the dark interval to end (R351): it stands in another package, of the group or out of it. -/
def State.darkFor (s : State) (job : BitVec 12) (ld : Nat) : Bool :=
  s.fi.dark && (match s.dieOf job ld with | .other fid _ => fid != s.fi.fid | .gone _ _ => true | _ => false)

/-- Send waiting messages of a port, in order, while the peer has room (R343). -/
def State.flushPort (s : State) (c : Fin 5) (n : Fin 16) : Nat → State
  | 0 => s
  | k + 1 =>
    let p := s.port c n
    match p.unsent with
    | [] => s
    | m :: r =>
      if m.length ≤ p.cred && !s.darkFor p.job p.peer.ldie.toNat then
        let s := s.setPort c n { p with unsent := r, cred := p.cred - m.length }
        State.flushPort (s.deliver c n p.job p.peer m) c n k
      else s

/-- What a close finds wrong: the strand fault SUB and its ADDR. -/
abbrev CloseFault := Option (Nat × Word)

/-- The close of one port: injections, consumptions, discards and the fault of its send (R340, R343, R352). The words read
are freed and their credit returned. -/
def State.closePort (s : State) (c : Fin 5) (n : Fin 16) (job : BitVec 12) (acc : Nat × Nat × Nat × CloseFault) : State × (Nat × Nat × Nat × CloseFault) :=
  let (i, k, d, f) := acc
  let p := s.port c n
  let (q, used, credits) := freeWords p.queue p.read
  let s := s.setPort c n { p with queue := q, read := 0 }
  let s := credits.foldl (fun s e => s.creditBack job e.1 e.2) s
  let p := s.port c n
  if p.pushed.isEmpty then (s, (i, k + used, d, f))
  else
    let s := s.setPort c n { p with pushed := [] }
    match s.dieOf job p.peer.ldie.toNat with
    | .bad => (s, (i + 1, k + used, d + 1, f.orElse fun _ => some (10, p.bindWord)))
    | .gone _ _ => (s, (i + 1, k + used, d + 1, f.orElse fun _ => some (2, p.bindWord)))
    | _ => (s.setPort c n { s.port c n with unsent := p.unsent ++ [p.pushed], job := job }, (i + 1, k + used, d, f))

/-- The close of every port of a context: one update of the job's counters (R347), then the sends. -/
def State.closePorts (s : State) (c : Fin 5) : State × CloseFault :=
  let job := (s.who c).job
  let (s, i, k, d, f) := (List.finRange 16).foldl (fun a n => let (s, acc) := a; s.closePort c n job acc) (s, ((0 : Nat), (0 : Nat), (0 : Nat), (none : CloseFault)))
  let s := s.count job i k d
  ((List.finRange 16).foldl (fun s n => s.flushPort c n 64) s, f)

/-! ### The Pavane table (R324) -/

def PvEntry.kind (e : PvEntry) : Nat := fieldOf e.w0 63 62
def PvEntry.wrap (e : PvEntry) : Bool := bitAt e.w0 55
def PvEntry.noDest (e : PvEntry) : Bool := bitAt e.w0 54
def PvEntry.noIn (e : PvEntry) : Bool := bitAt e.w0 53
def PvEntry.isLocal (e : PvEntry) : Bool := bitAt e.w0 52
def PvEntry.hasStash (e : PvEntry) : Bool := bitAt e.w0 51
def PvEntry.mb (e : PvEntry) : Word32 := BitVec.ofNat 32 e.w0.toNat
def PvEntry.lrec (e : PvEntry) : Nat := fieldOf e.w1 39 6 * 64
/-- The destination unit, read on the peer (R324). -/
def PvEntry.dest (e : PvEntry) : UnitId :=
  ⟨BitVec.ofNat 12 (fieldOf e.w3 27 16), BitVec.ofNat 4 (fieldOf e.w3 13 10), BitVec.ofNat 3 (fieldOf e.w3 9 7), BitVec.ofNat 2 (fieldOf e.w3 6 5), 0⟩
def PvEntry.destRing (e : PvEntry) : Fin 32 := fin32 (BitVec.ofNat 5 e.w3.toNat)
/-- The placement context and input ring. -/
def PvEntry.ctx (e : PvEntry) : Fin 4 := fin4 (BitVec.ofNat 2 (fieldOf e.w2 6 5))
def PvEntry.iring (e : PvEntry) : Fin 32 := fin32 (BitVec.ofNat 5 e.w2.toNat)
/-- The placement stands on this core. -/
def State.placedHere (s : State) (e : PvEntry) : Bool :=
  fieldOf e.w2 15 14 == s.core.die.toNat && fieldOf e.w2 13 10 == s.core.cluster.toNat && fieldOf e.w2 9 7 == s.core.core.toNat

def Pavane.slotBytes (p : Pavane) : Nat := (fieldOf p.stashSlots 39 32 + 1) * 256
def Pavane.slots (p : Pavane) : Nat := fieldOf p.stashSlots 6 0
def Pavane.stashDie (p : Pavane) : Nat := fieldOf p.stashBase 41 40
def Pavane.stashAt (p : Pavane) (slot : Nat) : Nat := fieldOf p.stashBase 39 8 * 256 + slot * p.slotBytes
def Pavane.job (p : Pavane) : BitVec 12 := BitVec.ofNat 12 (fieldOf p.ten 43 32)
def Pavane.vf (p : Pavane) : BitVec 6 := BitVec.ofNat 6 p.ten.toNat
def State.pv (s : State) : Pavane := s.pk.pv
def State.modPv (s : State) (f : Pavane → Pavane) : State := { s with pk := { s.pk with pv := f s.pk.pv } }

/-- The peer register of an output: downstream for a forward entry, upstream for a backward one (R324). -/
def Pavane.outReg (p : Pavane) (e : PvEntry) : Word := if e.kind = 1 then p.up else p.down
/-- Where a task's credit goes: the other direction (R329). -/
def Pavane.creditReg (p : Pavane) (e : PvEntry) : Word := if e.kind = 1 then p.down else p.up

/-- The entry of the task that a context runs. -/
def State.taskEntry (s : State) (c : Fin 5) : Option (Nat × PvEntry) :=
  match (s.ctx c).strand with
  | some t => match t.task with
    | some i => (s.pv.table[i]?).map fun e => (i, e)
    | none => none
  | none => none

/-- The number of a ring of another core, of any package. -/
def ringNo (fid : BitVec 16) (die : BitVec 2) (cluster core : Nat) (ring : Fin 32) : Nat :=
  (((fid.toNat * 4 + die.toNat) * 16 + cluster) * 8 + core) * 32 + ring.val

/-- RING_CFG of a ring of another core, as its own steps have left it (log 14). -/
def State.ringAt (s : State) (fid : BitVec 16) (die : BitVec 2) (cluster core : Nat) (ring : Fin 32) : Word :=
  getAt 0 s.pk.ringElse (ringNo fid die cluster core ring)

/-- The size of a ring's slot, of its RING_CFG (R139). -/
def slotSize (cfg : Word) : Nat := (fieldOf cfg 41 34 + 1) * 256

/-- The size of the destination slot (R328): the ring's where it stands on this core, else as the peer's ring is configured (log 14). -/
def State.destBytes (s : State) (e : PvEntry) : Nat :=
  let u := e.dest
  let far (fid : BitVec 16) (die : BitVec 2) : Nat := slotSize (s.ringAt fid die u.cluster.toNat u.core.toNat e.destRing)
  match s.dieOf s.pv.job u.ldie.toNat with
  | .own => if s.onCore u then (s.ring e.destRing).bytes else far s.fi.fid s.core.die
  | .other fid die => far fid die
  | .gone fid die => far fid die
  | .bad => 256

/-- The window bytes [o, o + n) of a context, none where the span leaves the window or stands on mapped-out storage (R135, R137). -/
def State.window (s : State) (c : Fin 5) (o n : Nat) : Option Nat :=
  match asStrand c with
  | none => none
  | some i =>
    let base := s.core.spBase i * 256 + o
    if o + n ≤ s.core.spLen i * 256 && !s.core.spanOut base n then some base else none

/-- The check of PVPOST (R328): none where it passes, else the strand fault's SUB. -/
def State.postCheck (s : State) (c : Fin 5) (xa : Word) : Option Nat :=
  match s.taskEntry c with
  | none => some 9
  | some (_, e) =>
    if e.noDest ∨ 2 ≤ e.kind then some 9
    else if !bitAt (s.pv.outReg e) 63 then some 2
    else if (s.window c xa.toNat (s.destBytes e)).isSome then none
    else some 9

/-- The check of PVSTASH (R328). -/
def State.stashCheck (s : State) (c : Fin 5) (xa : Word) : Option Nat :=
  match s.taskEntry c with
  | none => some 9
  | some (_, e) => if e.kind = 0 ∧ e.hasStash = true ∧ (s.window c xa.toNat s.pv.slotBytes).isSome = true then none else some 9

/-- The ring of a PVTAKE: enabled, of the partition, slots large enough. -/
def State.takeRing (s : State) (c : Fin 5) (xa : Word) : Option (Fin 32) :=
  match asStrand c with
  | none => none
  | some i => match s.core.physRing i xa.toNat with
    | none => none
    | some r => if (s.ring r).en ∧ fieldOf s.pv.stashSlots 39 32 ≤ (s.ring r).slot.toNat then some r else none

/-- The check of PVTAKE (R328). -/
def State.takeCheck (s : State) (c : Fin 5) (xa : Word) : Option Nat :=
  match s.taskEntry c with
  | none => some 9
  | some (_, e) => if e.kind = 1 ∧ e.hasStash = true ∧ (s.takeRing c xa).isSome = true then none else some 9

/-- The unit evaluates its head (R321, R325). -/
def Pavane.active (p : Pavane) : Bool := bitAt p.base 63 && p.loaded && !p.done

/-- The stash slot of a forward task, whose record stands at `task`: the last one that was given to a task with that record. -/
def Pavane.ownStash (p : Pavane) (i task : Nat) : Option Stash := (p.stash.filter fun t => t.entry == i && t.task == task).getLast?
/-- The stash slot of a backward task: the one allocated earliest to its micro-batch, once present (R325). -/
def Pavane.mbStash (p : Pavane) (mb : Word32) : Option Stash := (p.stash.find? fun t => t.mb == mb).filter fun t => t.present

/-- The address of the record of the strand that a context holds. -/
def State.recOf (s : State) (c : Fin 5) : Nat := (((s.ctx c).strand.map (·.recAddr))).getD 0

/-- A strand fault of a task leaves the stash slot that its entry was given allocated and not present (R328; log 111). -/
def State.voidStash (s : State) (task : Option Nat) (rec_ : Nat) : State :=
  match task.bind fun i => s.pv.ownStash i rec_ with
  | none => s
  | some t => s.modPv fun p => { p with stash := p.stash.map fun u => if u.serial = t.serial then { u with present := false } else u }

/-- Bytes are written to a stash slot, which is then present (R328). -/
def State.keepStash (s : State) (t : Stash) (bs : List Byte) : State :=
  let here := s.pv.stashDie == s.core.die.toNat
  let s := if here then s.devWrite (s.pv.stashAt t.slot) bs else s
  let t' := { t with present := true, away := if here then [] else bs }
  s.modPv fun p => { p with stash := p.stash.map fun u => if u.serial = t.serial then t' else u }

/-- PVSTASH at the close. -/
def State.doStash (s : State) (c : Fin 5) (xa : Word) : State × CloseFault :=
  match s.stashCheck c xa, s.taskEntry c with
  | none, some (i, _) =>
    match s.pv.ownStash i (s.recOf c), s.window c xa.toNat s.pv.slotBytes with
    | some t, some a =>
      let bs := s.core.spadRead a s.pv.slotBytes
      (s.keepStash t bs, none)
    | _, _ => (s, some (9, xa))
  | _, _ => (s, some (9, xa))

/-- PVTAKE at the close: a claim as the Pavane producer, the copy, the zeros, the completion, the slot freed. -/
def State.doTake (s : State) (c : Fin 5) (xa : Word) : State × CloseFault :=
  match s.takeCheck c xa, s.taskEntry c, s.takeRing c xa with
  | none, some (_, e), some r =>
    match s.pv.mbStash e.mb, (s.ring r).claim with
    | some t, some (slot, ring) =>
      let bs := if s.pv.stashDie = s.core.die.toNat then Memory.getAll s.dm.mem (s.pv.stashAt t.slot) s.pv.slotBytes else t.away
      let bs := bs ++ List.replicate (ring.bytes - bs.length) 0
      let s := { s with core := s.core.spadWrite (ring.slotAt slot) bs }
      let s := s.setRing r (ring.complete slot)
      (s.modPv fun p => { p with stash := p.stash.filter fun u => u.serial != t.serial }, none)
    | _, _ => (s, some (9, xa))
  | _, _, _ => (s, some (9, xa))

/-- Send a Pavane message of the unit's job to a logical die: `here` is its event on this die. -/
def State.pvSend (s : State) (ld : Nat) (here : Option Event) (body : Body) : State :=
  match s.dieOf s.pv.job ld with
  | .own => match here with | some ev => s.later ev | none => s.send ⟨s.fi.fid, s.core.die, false, body⟩
  | .other fid die => s.send ⟨fid, die, false, body⟩
  | _ => s

/-- A credit is added, and with that consumed (R329, R330). -/
def State.addCredit (s : State) (up : Bool) (job : BitVec 12) : State :=
  let s := s.modPv fun p =>
    if up then { p with upc := BitVec.ofNat 13 (capAt 4096 (p.upc.toNat + 1)) } else { p with dnc := BitVec.ofNat 13 (capAt 4096 (p.dnc.toNat + 1)) }
  s.count job 0 1 0

/-- A credit held through the dark interval: added, or discarded where its peer has departed (R332, R352). -/
def State.freeCredit (s : State) (e : Bool × BitVec 12) : State :=
  if bitAt (if e.1 then s.pv.up else s.pv.down) 63 then s.addCredit e.1 e.2 else s.count e.2 0 0 1

/-- A Pavane credit has arrived at the unit: it is added as an event (R329). -/
def State.creditCame (s : State) (job : BitVec 12) (up : Bool) : State :=
  (s.modPv fun p => { p with credits := p.credits ++ [(up, job)] }).later (.pavaneCredit up)

/-- The logical die is of the group. -/
def State.reachable (s : State) (job : BitVec 12) (ld : Nat) : Bool :=
  match s.dieOf job ld with | .own => true | .other _ _ => true | _ => false

/-- PVPOST at the close (R328, R330): where the peer has departed, which clears V, the message is counted and discarded by the sender. -/
def State.doPost (s : State) (c : Fin 5) (xa : Word) : State × CloseFault :=
  let job := s.pv.job
  match s.postCheck c xa, s.taskEntry c with
  | some 2, _ => (s.count job 1 0 1, some (2, xa))
  | none, some (_, e) =>
    match s.window c xa.toNat (s.destBytes e) with
    | none => (s, some (9, xa))
    | some a =>
      if s.reachable job e.dest.ldie.toNat then
        let m : PvMsg := ⟨job, fin4 e.dest.ctx, e.destRing, 0, s.core.spadRead a (s.destBytes e), true⟩
        let s := s.count job 1 0 0
        (s.pvSend e.dest.ldie.toNat (if s.onCore e.dest then some (.pavaneOutput m) else none) (.pavane m e.dest), none)
      else (s.count job 1 0 1, some (2, xa))
  | _, _ => (s, some (9, xa))

/-- The recorded requests, in the order PVSTASH, PVTAKE, PVPOST (R328). -/
def State.doPavane (s : State) (c : Fin 5) : State × CloseFault :=
  let r := (s.ctx c).pav
  let (s, f1) := match r.stash with | some xa => s.doStash c xa | none => (s, none)
  let (s, f2) := match r.take with | some xa => s.doTake c xa | none => (s, none)
  let (s, f3) := match r.post with | some xa => s.doPost c xa | none => (s, none)
  (s.modCtx c fun x => { x with pav := PavReqs.none }, f1.orElse fun _ => f2.orElse fun _ => f3)

/-- A recorded PVTAKE still waits for a free slot of its ring: one is free now, or this close frees it first (R24). -/
def State.takeWaits (s : State) (c : Fin 5) : Bool :=
  match (s.ctx c).pav.take with
  | none => false
  | some xa => match s.takeCheck c xa, s.takeRing c xa with
    | none, some r => (s.ring r).free + (s.ring r).held == 0
    | _, _ => false

/-- The jobs of the peers' outputs in the slots of a ring that the close of context `c` frees. -/
def State.postedIn (s : State) (c : Fin 5) (n : Fin 32) : List (BitVec 12) :=
  let r := s.ring n
  if r.en && r.ctx.toNat == c.val then (r.posted.filter fun t => r.heldSlots.contains t.1).map (·.2) else []

/-- The outputs that this close consumes, in every ring of the context (R330). -/
def State.postedHeld (s : State) (c : Fin 5) : List (BitVec 12) := (List.finRange 32).flatMap (s.postedIn c)

/-- The credits that this close owes: those of the task's input ring, none for a ring filled by a local producer (R329). -/
def State.creditsOwed (s : State) (c : Fin 5) : Nat :=
  match s.taskEntry c with
  | some (_, e) => if e.noIn || e.isLocal then 0 else (s.postedIn c e.iring).length
  | none => 0

/-- A credit of the unit's job is sent to the peer of the task's direction; to one that left the group it is lost and counted (R329, R330). -/
def State.sendCredit (s : State) (e : PvEntry) : State :=
  let r := s.pv.creditReg e
  let job := s.pv.job
  let up := e.kind == 1
  if !bitAt r 63 then s
  else match s.dieOf job (fieldOf r 11 0) with
    | .own => (s.count job 1 0 0).creditCame job up
    | .other fid die =>
      if fid = s.fi.fid then (s.count job 1 0 0).creditCame job up else (s.count job 1 0 0).send ⟨fid, die, false, .pvCredit job up⟩
    | _ => s.count job 1 0 1

/-- The credits of a close and the consumptions of its outputs: each credit is injected before its output is counted consumed (R329, R330). -/
def State.returnCredits (s : State) (c : Fin 5) (n : Nat) (jobs : List (BitVec 12)) : State :=
  let s := match s.taskEntry c with
    | some (_, e) => iterate (fun s => s.sendCredit e) n s
    | none => s
  jobs.foldl (fun s j => s.count j 0 1 0) s

/-- Step 2 of a close (R106): slots freed, messages, consumptions, Pavane requests. -/
def State.closeEffects (s : State) (c : Fin 5) : State × CloseFault :=
  let jobs := s.postedHeld c
  let n := s.creditsOwed c
  let s := s.mapRings c fun _ r => r.close
  let (s, f1) := s.closePorts c
  let s := s.returnCredits c n jobs
  let (s, f2) := s.doPavane c
  (s, f1.orElse fun _ => f2)

end Sys2Proof.Machine
end

