-- ==== Sys2Proof/Machine/Ops.lean ====
section
/-! DEFINITION. Named operations on strands and regions: cancelling engine operations (R142, R188, R234), regions and their
checkpoints (R23, R27), abort (R26), strand fault (R29), the end of a strand (R28), eviction (R31), TAKING AN EXCEPTION
(R61 to R65) and the return from one (R66, R67). -/

namespace Sys2Proof.Machine

/-! ### Tiles -/

/-- A row watermark from its register form (R144). -/
def AccWm.ofWord (w : Word) : AccWm := ⟨fieldOf w 30 24, fieldOf w 22 16, fieldOf w 11 8, fieldOf w 6 0⟩

/-- The watermark of physical tile `t`, or of the service tile of context `c` (R217). -/
def State.tileWm (s : State) (c : Fin 5) (t : Nat) : AccWm :=
  if h : t < 48 then s.core.accWm.get ⟨t, h⟩ else AccWm.ofWord (s.ctx c).svcTile
def State.setTileWm (s : State) (c : Fin 5) (t : Nat) (w : AccWm) : State :=
  if h : t < 48 then { s with core := { s.core with accWm := s.core.accWm.set t w h } } else s.modCtx c fun x => { x with svcTile := w.word }

/-- The tiles an operation names, each once (R222). -/
def TileRec.tiles (o : TileRec) : List Nat :=
  match o.kind with
  | .store => [o.dst]
  | _ => match o.src with
    | some t => if t = o.dst then [o.dst] else [o.dst, t]
    | none => [o.dst]

/-- The operation forked most recently on a tile, in flight or not (R144). -/
def State.lastOf (s : State) (c : Fin 5) (t : Nat) : Nat := if h : t < 48 then s.core.accLast.get ⟨t, h⟩ else (s.ctx c).svcLast
def State.setLast (s : State) (c : Fin 5) (t n : Nat) : State :=
  if h : t < 48 then { s with core := { s.core with accLast := s.core.accLast.set t n h } } else s.modCtx c fun x => { x with svcLast := n }

/-- The placeholder that a context's Mirror service serves (R207). -/
def State.served (s : State) (c : Fin 5) (o : TileRec) : Bool := o.placeholder && (s.ctx c).mirrorAct && (s.ctx c).mirrorOp == o.id

/-- COVER of a tile: the greatest row count among its unretired operations but the one forked most recently (R144). Mirror's operations run in the
place of the placeholder they serve, which therefore covers nothing (R207). -/
def State.coverOf (s : State) (c : Fin 5) (t : Nat) : Nat :=
  (s.core.ops.filter fun o => o.dst == t && o.id != s.lastOf c t && !s.served c o).foldl (fun a o => max a o.count) 0

/-- An operation leaves: INFL of each named tile drops by one, COVER is computed anew, its engine has one record fewer. -/
def State.dropOp (s : State) (o : TileRec) : State :=
  let ops := s.core.ops.filter fun p => p.id != o.id
  let s := { s with core := { s.core with ops := ops } }
  let s := o.tiles.foldl (fun s t =>
    let w := s.tileWm (strandCtx o.ctx) t
    s.setTileWm (strandCtx o.ctx) t { w with infl := w.infl - 1, cover := s.coverOf (strandCtx o.ctx) t }) s
  match o.engine with
  | none => s
  | some e =>
    if h : e < 16 then
      let g := s.cl.engines.get ⟨e, h⟩
      { s with cl := { s.cl with engines := s.cl.engines.set e { g with queued := g.queued - 1 } h } }
    else s

/-- Cancel the tile operations selected; rows already written stay (R234). -/
def State.cancelTiles (s : State) (p : TileRec → Bool) : State := (s.core.ops.filter p).foldl State.dropOp s

/-! ### Copy channels -/

def State.chan (s : State) (c : Fin 4) (ch : Fin 8) : Chan := (s.ctx (strandCtx c)).chans.get ch
def State.setChan (s : State) (c : Fin 4) (ch : Fin 8) (x : Chan) : State :=
  s.modCtx (strandCtx c) fun k => { k with chans := k.chans.set ch.val x ch.isLt }

/-- The partition ring number an operation uses, from its c register (R173). -/
def Chan.ringNo (x : Chan) : Option Nat :=
  match x.op with
  | .mr | .subs => some (fieldOf x.cb 4 0)
  | .drn => some (fieldOf x.ca 4 0)
  | _ => none

/-- A row is complete; every row of an inner step is (R170). -/
def Chan.rowDone (x : Chan) (r : Nat) : Bool := decide (r < x.complete) || x.done.contains r
def Chan.stepDone (x : Chan) (i2 : Nat) : Bool := (List.range (x.pat.getPat .n1)).all fun j => x.rowDone (i2 * x.pat.getPat .n1 + j)

/-- The physical ring that a channel's operand names. -/
def State.chanRing (s : State) (c : Fin 4) (x : Chan) : Option (Fin 32) := x.ringNo.bind fun r => s.core.physRing c r

/-- The claims of ring `n` that end with the channels selected (R142): where the open region goes, those of the operations forked in it that are cancelled,
the slots they completed among them; and those not yet completed of the others. An operation that has ended is not cancelled: its slots stay (R193). -/
def State.chanClaims (s : State) (c : Fin 4) (n : Fin 32) (region : Bool) (p : Chan → Bool) : List Nat :=
  (List.finRange 8).flatMap fun ch =>
    let x := s.chan c ch
    if x.op = .drn ∨ x.state = .idle ∨ s.chanRing c x ≠ some n then []
    else if region ∧ x.region then x.held.map (·.2)
    else if p x then (x.held.filter fun e => !x.stepDone e.1).map (·.2)
    else []

/-- The slot held for an inner step. -/
def Chan.slotOf (x : Chan) (i2 : Nat) : Option Nat := (x.held.find? fun e => e.1 == i2).map (·.2)

/-- The channel waits to claim a slot of its ring for its next row. -/
def Chan.wantsSlot (x : Chan) : Bool :=
  (match x.op with | .mr | .subs => true | _ => false) && (x.state == .running || x.state == .standing) && !x.parked && x.asked.isEmpty &&
    (x.op != .subs || x.installed) && (x.slotOf (x.complete / x.pat.getPat .n1)).isNone

/-- The channels that wait for a slot of a ring, in the order in which claims are granted: subscriptions, then copies, by channel (R143). -/
def State.wanting (s : State) (n : Fin 32) : List (Fin 4 × Fin 8) :=
  let all := (List.finRange 4).flatMap fun c => (List.finRange 8).filterMap fun ch =>
    if (s.chan c ch).wantsSlot && s.chanRing c (s.chan c ch) == some n then some (c, ch) else none
  all.filter (fun e => (s.chan e.1 e.2).op == .subs) ++ all.filter fun e => (s.chan e.1 e.2).op != .subs

/-- A recorded PVTAKE finds a free slot for which another producer waits: that one claims first (R143). -/
def State.takeOutranked (s : State) (c : Fin 5) : Bool :=
  match (s.ctx c).pav.take with
  | none => false
  | some xa => match s.takeCheck c xa, s.takeRing c xa with
    | none, some r => (s.ring r).free != 0 && !(s.wanting r).isEmpty
    | _, _ => false

/-- Cancel a channel: it is idle, and a drain's slots are freed (R188). -/
def State.cancelChan (s : State) (c : Fin 4) (ch : Fin 8) : State :=
  let x := s.chan c ch
  let s := s.setChan c ch { x with state := .idle, held := [], sent := [], asked := [], buf := [], patch := none, parked := false, region := false,
                                   cancel := false, ctrl := none }
  match (if x.op = .drn then s.chanRing c x else none) with
  | some n => s.setRing n { s.ring n with free := (s.ring n).free + x.held.length }
  | none => s

/-- Cancel the channel operations selected (R26, R188). -/
def State.cancelChans (s : State) (c : Fin 4) (p : Chan → Bool) : State :=
  (List.finRange 8).foldl (fun s ch => if p (s.chan c ch) then s.cancelChan c ch else s) s

/-- Cancelled claims leave a ring (R142). Where another producer claimed too in the region, the contents of the filled slots are undefined: free
bytes (log 93). -/
def State.retractRing (s : State) (n : Fin 32) (l : List Nat) : State :=
  let r := (s.ring n).retract l
  let s := s.setRing n r
  if l.isEmpty ∨ r.tail = r.start then s
  else
    let (k, s) := s.stamp
    r.filledSlots.foldl (fun s slot =>
      { s with core := s.core.spadWrite (r.slotAt slot) ((List.range r.bytes).map fun i => Config.freeByte k (r.slotAt slot + i)) }) s

/-! ### Regions -/

/-- A region begins: checkpoint, unsealed, loop levels empty, ring tails noted (R23, R89, R106, R142). -/
def State.newRegion (s : State) (c : Fin 5) (pc : Word) (nat : Bool) : State :=
  (s.mapRings c fun _ r => { r with start := r.tail }).modCtx c fun x =>
    { x with pc := pc, nat := nat, ckpt := ⟨pc, nat, x.liveVals nat⟩, regTag := s.tags, sealed := false, first := true,
             loops := Vector.replicate 2 LoopLevel.idle, pav := PavReqs.none, lost := none,
             chans := x.chans.map fun h => { h with region := false, held := h.held.filter fun e => !h.stepDone e.1 } }

/-- The tile operations and channels of the closed region are no longer its own (R26 names those forked in the region). -/
def State.agedOps (s : State) (c : Fin 5) : State :=
  { s with core := { s.core with ops := s.core.ops.map fun o => if o.ctx.val = c.val then { o with region := false } else o } }

/-- A request after the region is sealed by another instruction: an atomic that fails no longer leaves it unsealed. -/
def Req.sealed (r : Req) : Req := match r.kind with | .atomic _ => { r with kind := .atomic false } | _ => r

/-- Seal the region (R25). -/
def State.seal (s : State) (c : Fin 5) : State := s.modCtx c fun x => { x with sealed := true, reqs := x.reqs.map Req.sealed }

/-- The eight words of a strand record (R19). -/
def recordWords (t : Strand) (k : Checkpoint) : List Word :=
  [BitVec.ofNat 64 (t.asid.toNat * 2 ^ 51 + t.vf.toNat * 2 ^ 45 + t.prio.toNat * 2 ^ 42 + bits k.rpc.toNat 39 2 * 4),
   BitVec.ofNat 64 (t.job.toNat * 2 ^ 52 + t.lrec % 2 ^ 40),
   BitVec.ofNat 64 (t.lcore.toNat * 2 ^ 48 + b2n k.rnat * 2 ^ 32 + t.iter.toNat),
   k.live.get 0, k.live.get 1, k.live.get 2, k.live.get 3, k.live.get 4]

/-- The queued form of a strand's record. -/
def queueForm (t : Strand) (c : Fin 5) (now : Nat) : QRec :=
  ⟨t.recAddr, t.vf, t.prio, now, if t.pinned then asStrand c else none, t.task, t.stage, t.idx, t.point, t.launch, false⟩

/-- A context gives up its strand: what belongs to the strand alone goes; partitions, rings, ports, the channel and tile operations of closed
regions with the traps they leave pending, and unacknowledged streams stay. -/
def Ctx.vacate (x : Ctx) (reserved : Option Nat) : Ctx :=
  { x with strand := none, reserved := reserved, pend := [], hpend := [], xfer := none, hxfer := none, boundary := none,
           waits := [], aside := [], reqs := [], buf := [], pav := PavReqs.none, hm := false, svcHeld := false, evict := none, sealed := false,
           first := false, lost := none, mirrorAct := false, loops := Vector.replicate 2 LoopLevel.idle,
           hloops := Vector.replicate 2 LoopLevel.idle }

/-- Zero a Mirror frame (R207). -/
def State.zeroFrame (s : State) (c : Fin 5) : State :=
  match s.mirrorFrame c with
  | some a => { s with dm := { s.dm with mem := s.dm.mem.filter fun e => !decide (a ≤ e.1 ∧ e.1 < a + 2 ^ 18) } }
  | none => s

/-- A context leaves: the strand is gone from it; a pinned one reserves it (R136). -/
def State.leave (s : State) (c : Fin 5) (reserved : Option Nat) : State := (s.zeroFrame c).modCtx c fun x => x.vacate reserved

/-- The trap of an operation that an abort cancels: it is not taken (R26). -/
def Ctx.cancelsTrap (x : Ctx) (a : Async) : Bool :=
  if a.trap.cause = 11 then (x.chans.get (fin8 (BitVec.ofNat 3 (a.trap.opd.get 0).toNat))).region else decide (x.regTag ≤ a.op)

/-- Cancel channel operations, those of the open region among them where it goes, and settle the rings of the context that they fill: `first` acts
on each ring before the cancelled claims leave it (R142). -/
def State.cancelFills (s : State) (c : Fin 4) (region : Bool) (p : Chan → Bool) (first : Ring → Ring) : State :=
  let claims (n : Fin 32) : List Nat := s.chanClaims c n region p
  (List.finRange 32).foldl (fun s n =>
    if (s.ring n).en && (s.ring n).ctx.toNat == c.val then (s.setRing n (first (s.ring n))).retractRing n (claims n) else s) (s.cancelChans c p)

/-- The rings of a context with held slots, which an abort restores (R142, R390). -/
def State.restores (s : State) (c : Fin 5) : List (Fin 5 × Fin 32 × Nat) :=
  (List.finRange 32).filterMap fun n =>
    let r := s.ring n
    if r.en && strandCtx (fin4 r.ctx) == c && r.held != 0 then some (c, n, r.held) else none

/-- An atomic that waits to be sent to another die, and was counted at its issue, is not sent: the sender counts it discarded (R346, R348). -/
def State.dropAtomics (s : State) (c : Fin 5) : State :=
  let job := (s.who c).job
  let x := s.ctx c
  (x.waits ++ x.aside).foldl (fun (s : State) w => match w with
    | .atomic _ ea _ _ _ _ _ _ _ => (match s.dieOf job (ea.toNat / 2 ^ 52) with | .own => s | .bad => s | _ => s.count job 0 0 1)
    | _ => s) s

/-- Abort of the region's effects, whatever the seal (R26): results, engine operations, stores, pushed words, requests; ring
and port heads go back. -/
def State.undoRegion (s : State) (c : Fin 5) : State :=
  let s := (s.dropAtomics c).modCtx c fun x => { x with asyncs := x.asyncs.filter fun a => !x.cancelsTrap a }
  let s := s.cancelTiles fun o => o.ctx.val == c.val && o.region
  let back := s.restores c
  let s := match asStrand c with | some i => s.cancelFills i true (·.region) Ring.unpop | none => s
  let s := { s with core := { s.core with restored := s.core.restored ++ back } }
  s.modCtx c fun x => { x with buf := [], pav := PavReqs.none, pend := [], reqs := [], ports := x.ports.map fun p => { p with pushed := [], read := 0 } }

/-- Write a strand's record from the checkpoint (R19, R26). -/
def State.writeRecord (s : State) (t : Strand) (k : Checkpoint) : State :=
  s.devWrite t.recAddr ((recordWords t k).flatMap fun w => bytesOf w 8)

/-- The die that owns an address for a strand's job. -/
def State.ownerOf (s : State) (t : Strand) (addr : Word) : DieRef := s.dieOf t.job (fieldOf addr 63 52)

/-- The four words of a strand's fault queue entry (R299). -/
def faultEntryOf (die : BitVec 2) (t : Strand) (a : AbortInfo) : FaultWords :=
  ⟨BitVec.ofNat 64 (die.toNat * 2 ^ 62 + t.recAddr % 2 ^ 40), a.addr, BitVec.ofNat 64 (a.order * 2 ^ 8 + a.sub), t.asid.setWidth 64⟩

/-! ### The end of a strand -/

/-- The queued records of a loop record: those waiting, those away. -/
def State.recordsOf (s : State) (lrec : Nat) : List QRec :=
  (s.dl.records ++ s.dl.away.map (·.q)).filter fun q => fieldOf (s.devWord (q.addr + 8)) 39 6 * 64 == lrec

/-- The iterations that a strand has completed: in the epilogue, all of them (R22). -/
def completedIters (trip : Nat) (g : Stage) (iter : Nat) : Nat := if g = .epilogue then trip else iter

/-- LOWITER of a loop record (R21): the lowest iteration not yet completed by every live strand, which is the least number completed; TRIP where
none is left (log 98). -/
def State.lowIter (s : State) (lrec : Nat) : Nat :=
  let trip := fieldOf (s.devWord (lrec + 0x18)) 31 0
  let run := (List.finRange 5).filterMap fun c => match (s.ctx c).strand with
    | some t => if t.lrec = lrec then some (completedIters trip t.stage t.iter.toNat) else none
    | none => none
  let wait := (s.recordsOf lrec).map fun q => completedIters trip q.stage (fieldOf (s.devWord (q.addr + 16)) 31 0)
  (run ++ wait).foldl min trip

/-- LOWITER and LIVECNT after a change (R21). -/
def State.updateLoop (s : State) (lrec : Nat) (ended : Bool) : State :=
  let w := s.devWord (lrec + 0x18)
  let n := s.devWord (lrec + 0x30)
  let s := s.devPut (lrec + 0x18) (withField w 63 32 (s.lowIter lrec))
  if ended then s.devPut (lrec + 0x30) (withField n 31 0 (fieldOf n 31 0 - 1)) else s

/-- A context that holds no strand of the job drops its queued words (R343). -/
def State.dropPorts (s : State) (c : Fin 5) (job : BitVec 12) : State :=
  (List.finRange 16).foldl (fun s n =>
    let p := s.port c n
    let mine := p.queue.filter fun a => a.job == job
    if mine.isEmpty then s
    else (s.setPort c n { p with queue := p.queue.filter fun a => a.job != job, read := 0 }).dropMessages mine) s

/-- The job of the strand that a context holds: running, held, or reserved (R343, R352). -/
def State.heldJob (s : State) (c : Fin 5) : Option (BitVec 12) :=
  match (s.ctx c).strand with
  | some t => some t.job
  | none => (s.ctx c).reserved.map fun a => BitVec.ofNat 12 (fieldOf (s.devWord (a + 8)) 63 52)

/-- A context holds a strand of the job, or takes one with the task that is queued for it (R336, R343). -/
def State.keepsJob (s : State) (c : Fin 5) (job : BitVec 12) : Bool :=
  s.heldJob c == some job ||
    s.dl.records.any fun q => q.task.isSome && (q.place.map strandCtx) == some c && BitVec.ofNat 12 (fieldOf (s.devWord (q.addr + 8)) 63 52) == job

/-- Sub-launches leave the die; a kernel of theirs that was queued for Prism is queued no longer (R195, R214). -/
def State.dropSubs (s : State) (p : Sub → Bool) : State :=
  let n := (s.dl.subs.filter fun u => p u && u.prism).length
  { s with dl := { s.dl with subs := s.dl.subs.filter fun u => !p u }, cl := { s.cl with prismPend := s.cl.prismPend - BitVec.ofNat 16 n } }

/-- The end of a sub-launch is reported to its home; to nobody where the home has left the group (R294). -/
def State.reportEnd (s : State) (home : Option (BitVec 16 × BitVec 2)) (id : Word) (d status faults : Nat) (job : BitVec 12) : State :=
  match home with
  | none => s.later (.sublaunchEnded id d status faults)
  | some (fid, die) => if s.fi.inGroup fid then s.send ⟨fid, die, false, .subEnded id d status faults job⟩ else s

/-- The strand's sub-launch or task has one strand fewer (R14, R28, R294, R326). -/
def State.countEnd (s : State) (c : Fin 5) (t : Strand) (fault : Bool) : State :=
  match t.task with
  | some _ =>
    let s := s.modPv fun p => { p with run := p.run - 1 }
    let s := if fault then s.voidStash t.task t.recAddr else s
    if s.keepsJob c t.job then s else s.dropPorts c t.job
  | none =>
    match s.dl.subs.find? fun u => u.lrec == t.lrec with
    | none => s
    | some u =>
      let u' : Sub := { u with live := u.live - 1, faults := u.faults + b2n fault }
      if u'.live = 0 then
        let s := s.dropSubs fun v => v.lrec == t.lrec
        let s := (List.finRange 5).foldl (fun s i => if s.keepsJob i t.job then s else s.dropPorts i t.job) s
        s.reportEnd u'.home u'.id u'.d u'.status u'.faults t.job
      else { s with dl := { s.dl with subs := s.dl.subs.map fun v => if v.lrec = t.lrec then u' else v } }

/-- The strand of a context ends (R28, R29). -/
def State.endStrand (s : State) (c : Fin 5) (fault : Bool) : State :=
  match (s.ctx c).strand with
  | none => s
  | some t =>
    let s := s.leave c none
    let s := s.updateLoop t.lrec true
    s.countEnd c t fault

/-- The fault log record of a strand (R302). -/
def strandRecord (t : Strand) (sub : Nat) (pc addr detail : Word) : Record :=
  ⟨1, sub, t.job, t.asid, t.vf, t.launch, t.iter, t.idx, pc, addr, detail⟩

/-! ### Leaving a context -/

/-- What the strand published at core or cluster scope and is still dirty goes home (R269). -/
def State.flushStrand (s : State) (c : Fin 5) : State :=
  let asid := (s.who c).asid
  s.flushAll c fun k => decide (keyAsid k = asid) && ((s.l1At k).dirty != 0 || (s.l2At k).dirty != 0)

/-- The strand has left with nothing unacknowledged: its record is queued at its priority (R31, R34, R73), or waits at the owner die's fault
service (R26), or the strand has ended (R15). A fault's address of no die has no owner; this die's service takes it (log 15). -/
def State.finishLeave (s : State) (c : Fin 5) (l : Leave) : State :=
  match (s.ctx c).strand with
  | none => s
  | some t =>
    let place := if t.pinned then some t.recAddr else none
    match l with
    | .over => s.endStrand c true
    | .evict =>
      let s := s.writeRecord t (s.ctx c).ckpt
      let q := queueForm t c s.dl.dcyc.toNat
      ({ s with dl := { s.dl with records := s.dl.records ++ [q] } } : State).leave c place
    | .fault a cause =>
      let s := s.writeRecord t (s.ctx c).ckpt
      let q := queueForm t c s.dl.dcyc.toNat
      let (n, s) := s.newTag
      let s := { s with dl := { s.dl with away := s.dl.away ++ [(⟨2 * n, q, a.addr, cause⟩ : AwayRec)] } }
      let s := s.leave c place
      let w := faultEntryOf s.core.die t a
      match s.ownerOf t a.addr with
      | .other fid die => s.send ⟨fid, die, false, .faultEntry w (2 * n) t.job⟩
      | _ => s.later (.faultEntry w)

/-- The strand issues no more; it stays in its context until what it has sent is acknowledged (R15, R269). -/
def Ctx.quit (x : Ctx) (l : Leave) : Ctx := { (x.vacate none) with strand := x.strand, waits := [.leave l] }

/-- The strand is leaving its context. -/
def Ctx.leaving (x : Ctx) : Bool := match x.waits with | .leave _ :: _ => true | _ => false

/-- Acknowledgements that a strand awaits before it leaves: its own, and where its record goes on, those of sectors of its address space that a command
or a displacement sent home (R269). -/
def State.leaveOwes (s : State) (c : Fin 5) (l : Leave) : Bool :=
  (s.ctx c).owesAcks || (l != .over && s.core.flying.any fun f => f.ctx == svc && keyAsid f.key == (s.who c).asid)

/-- A strand leaves: a record takes its dirty sectors home first (R269), and every acknowledgement is awaited. -/
def State.startLeave (s : State) (c : Fin 5) (l : Leave) : State :=
  let s := if l = .over then s else s.flushStrand c
  let s := s.askAcks c
  if s.leaveOwes c l then (s.zeroFrame c).modCtx c fun x => x.quit l else s.finishLeave c l

/-- Abort an unsealed region on a region-abort fault (R26): the record waits at the owner die's fault service. -/
def State.abortRegion (s : State) (c : Fin 5) (a : AbortInfo) : State := (s.undoRegion c).startLeave c (.fault a (s.ctx c).trapCause)

/-- Eviction by abort (R26, R31). -/
def State.evictByAbort (s : State) (c : Fin 5) : State := (s.undoRegion c).startLeave c .evict

/-- The operations that a strand left behind in other contexts end with it (R15, R188, R234). -/
def State.cancelOwned (s : State) (t : Strand) : State :=
  let s := s.cancelTiles fun o => o.who.record == t.recAddr
  (List.finRange 4).foldl (fun s i => s.cancelFills i false (fun x => x.who.record == t.recAddr) id) s

/-- A strand fault (R29): the region's effects are disposed of, every engine operation of the context and of the strand is cancelled (R188,
R234), the fault is logged, the strand ends once its earlier stores are acknowledged; what it published at core scope goes on to L2, as a PHASE at
package scope would take it (R15, R147). The slots it popped are freed, and then the cancelled claims leave their rings (R142). -/
def State.strandFault (s : State) (c : Fin 5) (sub : Nat) (addr detail pc : Word) : State :=
  match (s.ctx c).strand with
  | none => s
  | some t =>
    let s := (s.dropAtomics c).cancelTiles fun o => o.ctx.val == c.val
    let s := match asStrand c with | some i => s.cancelFills i true (fun _ => true) Ring.close | none => s
    let s := s.cancelOwned t
    let s := (List.finRange 16).foldl (fun s n =>
      let p := s.port c n
      let (gone, rest) := touched p.queue p.read
      let s := s.setPort c n { p with queue := rest, read := 0, pushed := [] }
      let s := s.dropMessages gone
      if p.pushed.isEmpty then s else s.count t.job 1 0 1) s
    let s := (s.log t.vf (strandRecord t sub pc addr detail)).voidStash t.task t.recAddr
    ((s.modCtx c fun x => { x with asyncs := [], buf := [] }).publish c .package).startLeave c .over

/-- Where a context stands, in the layout of TRAP_PC. -/
def State.pcOf (s : State) (c : Fin 5) : Word := pcWord (s.ctx c).pc (s.ctx c).nat

/-- A strand fault whose DETAIL is TRAP_CAUSE as it stands (R302). -/
def State.faultHere (s : State) (c : Fin 5) (sub : Nat) (addr : Word) : State := s.strandFault c sub addr (s.ctx c).trapCause (s.pcOf c)

/-- A strand fault that a wait of the last bundle meets, at that bundle (R352). -/
def State.faultLast (s : State) (c : Fin 5) (sub : Nat) (addr : Word) : State :=
  s.strandFault c sub addr (s.ctx c).trapCause (if (s.ctx c).hm then s.pcOf c else (s.ctx c).lastPc)

/-- Sectors lost to a departed peer fault the strand at its PHASE, RWAIT or DONE: DETAIL is their count (R352). -/
def State.faultLost (s : State) (c : Fin 5) (addr : Word) (n : Nat) : State :=
  s.strandFault c 2 addr (BitVec.ofNat 64 n) (if (s.ctx c).hm then s.pcOf c else (s.ctx c).lastPc)

/-- A region-abort fault (R26); in a sealed region a strand fault (R29). An uncorrectable error in a table has
halted the package (R263, R314). -/
def State.regionFault (s : State) (c : Fin 5) (a : AbortInfo) : State :=
  if a.order = 0 ∧ a.sub = 1 then s
  else if (s.ctx c).sealed then s.faultHere c 1 a.addr
  else s.abortRegion c a

/-! ### Taking an exception -/

/-- TRAP_CAUSE (R62). -/
def causeWord (t : TrapRec) (async sealed : Bool) : Word :=
  BitVec.ofNat 64 (t.sub % 2 ^ 16 * 2 ^ 16 + b2n sealed * 2 ^ 12 + b2n async * 2 ^ 11 + t.slot % 8 * 2 ^ 8 + t.cause % 256)

/-- A trap record without data. -/
def TrapRec.plain (cause sub slot : Nat) (word addr : Word) : TrapRec := ⟨cause, sub, slot, word, addr, Vector.replicate 8 0⟩

/-- The registers that every trap entry writes (R64). -/
def Ctx.record (x : Ctx) (t : TrapRec) (async : Bool) (pc npc : Word) : Ctx :=
  { x with trapCause := causeWord t async x.sealed, trapWord := t.word, trapAddr := t.addr, trapOpd := t.opd,
           trapPc := pc, trapNpc := npc, entryPc := pc, xferAt := x.xfer.isSome }

/-- The context handler takes over at TRAP_VEC (R64, R65): a handler cycle count from 0, empty loop levels; a wait of the strand goes on
after ERET. -/
def Ctx.toHandler (x : Ctx) : Ctx :=
  { x with hm := true, pc := BitVec.ofNat 64 (bits x.trapVec.toNat 39 2 * 4), nat := bitAt x.trapVec 0, hcyc := 0, hpend := [], hxfer := none,
           waits := [], aside := x.waits, hloops := Vector.replicate 2 LoopLevel.idle }

/-- The address that would follow the bundle in issue (R64): the pending transfer's target after its delay bundle. -/
def State.trapNext (s : State) (c : Fin 5) : Word := match (s.ctx c).xfer with | some t => t.target | none => s.issue.next

/-- The service context falls idle: a trap in its handler, its SUSP or DONE (log 16). -/
def State.stopService (s : State) : State :=
  let s := s.modCtx svc fun x => { x with hm := false, hpend := [], hxfer := none, pend := [], xfer := none, waits := [], aside := [] }
  { s with core := { s.core with svcRun := false, cur := if s.core.serving then s.core.resumeAt else s.core.cur, serving := false } }

/-- Take a precise trap in context `c` (R61 to R65, R394): nothing of the bundle commits. In handler mode it ends the strand
(R65), whose record takes the first trap's registers as they stand, with what the handler itself has written there (log 91); causes 5 and 9
hold a strand context for the service context (R67). -/
def State.takeTrapIn (s : State) (c : Fin 5) (t : TrapRec) : State :=
  let x := s.ctx c
  let s := { s with verdict := .trapped }
  if x.hm then
    if c = svc then s.stopService else s.strandFault c 7 x.trapCause (causeWord t false x.sealed) x.trapPc
  else
    let pc := pcWord s.issue.addr x.nat
    let npc := pcWord (s.trapNext c) x.nat
    let s := s.modCtx c fun x => x.record t false pc npc
    if c ≠ svc ∧ (t.cause = 5 ∨ t.cause = 9) then
      let s := s.modCtx c fun x => { x with svcHeld := true }
      { s with core := { s.core with irq := true } }
    else s.modCtx c Ctx.toHandler

/-- Take a precise trap in the context in issue. -/
def State.takeTrap (s : State) (t : TrapRec) : State := s.takeTrapIn s.core.cur t

/-- Enter an asynchronous trap at a bundle boundary (R64). -/
def State.enterAsync (s : State) (c : Fin 5) (t : TrapRec) : State :=
  s.modCtx c fun x => (x.record t true (pcWord x.pc x.nat) (pcWord x.pc x.nat)).toHandler

/-! ### Returning from one -/

/-- The placeholder that Mirror served retires (R207). -/
def State.retirePlaceholder (s : State) (c : Fin 5) : State :=
  match s.core.ops.find? fun o => o.id == (s.ctx c).mirrorOp && o.placeholder with
  | none => s
  | some o =>
    let w := s.tileWm c o.dst
    (s.setTileWm c o.dst { w with wm := w.lastm }).dropOp o

/-- Issue resumes at a resume value in the layout of TRAP_PC (R66, R67): the pending transfer is kept only for the recorded
address. -/
def Ctx.resumeAt (x : Ctx) (v : Word) : Ctx :=
  { x with xfer := if v = x.entryPc ∧ x.xferAt = true then x.xfer else none, hm := false, svcHeld := false, nat := bitAt v 0,
           pc := BitVec.ofNat 64 (bits v.toNat 39 2 * 4), hpend := [], hxfer := none, waits := x.aside, aside := [], hloops := Vector.replicate 2 LoopLevel.idle }

/-- ERET from the context handler (R66, R207). From the service context it ends the interrupt it serves; its own program goes on at TRAP_PC,
or begins there where its handler has written a new one (R133; log 16). -/
def State.returnFrom (s : State) (c : Fin 5) : State :=
  if c = svc then
    let s := { s with core := { s.core with svcRun := s.core.svcRun || decide ((s.ctx svc).trapPc ≠ (s.ctx svc).entryPc),
                                            cur := if s.core.serving then s.core.resumeAt else svc, serving := false } }
    s.modCtx svc fun x => x.resumeAt x.trapPc
  else
    let s := if (s.ctx c).mirrorAct then
        (s.retirePlaceholder c).modCtx c fun x => { x with mirrorAct := false }
      else s
    s.modCtx c fun x => x.resumeAt x.trapPc

/-- Every result of the handler lands, then ERET returns (R66). -/
def State.endHandler (s : State) (c : Fin 5) : State := (s.modCtx c Ctx.drain).returnFrom c

/-- RESUME written by the service context (R67, R68): only for a context held for cause 5 or 9. -/
def State.resumeHeld (s : State) (v : Word) : State :=
  let c := strandCtx (fin4 s.core.selReg)
  if s.core.svcEn ∧ (s.ctx c).svcHeld then s.modCtx c fun x => x.resumeAt v else s

/-! ### The close of a region -/

/-- Where a YIELD goes: next iteration, epilogue, or the epilogue again (R22). The words are read from the loop record now. -/
def State.yieldTo (s : State) (t : Strand) : Strand × Word × Bool :=
  let kernel := s.devWord (t.lrec + 8)
  let epilogue := s.devWord (t.lrec + 16)
  let trip := fieldOf (s.devWord (t.lrec + 0x18)) 31 0
  let next := match t.stage with | .prologue => 0 | _ => t.iter.toNat + 1
  if t.stage ≠ .epilogue ∧ next < trip then
    ({ t with iter := BitVec.ofNat 32 next, stage := .kernel }, BitVec.ofNat 64 (bits kernel.toNat 39 2 * 4), bitAt kernel 63)
  else ({ t with stage := .epilogue }, BitVec.ofNat 64 (bits epilogue.toNat 39 2 * 4), bitAt epilogue 63)

/-- The tile operations that a close waits for: TSTOREs not yet entered (R231), operations holding a popped slot (R142), placeholders among them. -/
def State.closeWaitsTile (s : State) (c : Fin 5) : Bool :=
  s.core.ops.any fun o => o.ctx.val == c.val && (o.kind == .store || o.aSlot.isSome || o.bSlot.isSome)

/-- The streams of a context that a close at a scope waits for (R106). -/
def State.acksOwed (s : State) (c : Fin 5) (scope : Scope) : Bool :=
  let job := (s.who c).job
  (s.ctx c).streams.any fun e => e.2 != 0 &&
    (match scope with
     | .package => (match s.dieOf job e.1.toNat with | .other fid _ => fid == s.fi.fid | _ => false)
     | .fabric => true
     | _ => false)

/-- After step 3 of a close: the next region, the next iteration, the eviction or the join of DONE (R73, R106). -/
def State.afterClose (s : State) (c : Fin 5) (after : After) : State :=
  let x := s.ctx c
  let s := s.agedOps c
  let go (s : State) : State := if (s.ctx c).evict.isSome then s.modCtx c fun x => { x with waits := [.evict] } else s
  match after with
  | .phase => go (s.newRegion c x.pc x.nat)
  | .yield => match x.strand with
    | none => s
    | some t =>
      let (t', pc, nat) := s.yieldTo t
      let s := s.modCtx c fun x => { x with strand := some t', xfer := none }
      go ((s.updateLoop t.lrec false).newRegion c pc nat)
  | .susp =>
    if c = svc then s.stopService
    else ((s.modCtx c fun x => { x with pend := [] }).newRegion c x.pc x.nat).modCtx c fun x => { x with waits := [.evict], xfer := none }
  | .done =>
    if c = svc then s.stopService
    else (s.askAcks c).modCtx c fun x => { x with waits := [.finish], xfer := none, loops := Vector.replicate 2 LoopLevel.idle }

/-- The close of a region once it need not wait (R106): effects, refresh, next region. A departed peer or a failed request is a
strand fault at this close (R107, R328, R340, R352). -/
def State.finishClose (s : State) (c : Fin 5) (scope : Scope) (after : After) : State :=
  match (s.ctx c).lost with
  | some (addr, n) => s.faultLost c addr n
  | none =>
    let (s, f) := s.closeEffects c
    let s := if scope = .core then s else s.refresh c
    match f with
    | some (sub, addr) => s.faultLast c sub addr
    | none => s.afterClose c after

/-- One attempt at a close: none while it must wait (R106, R142, R231, R270). -/
def State.tryClose (s : State) (c : Fin 5) (scope : Scope) (after : After) : State × Bool :=
  if !(s.ctx c).reqs.isEmpty || s.core.ops.any (fun o => o.ctx.val == c.val && o.kind == .store) then (s, false)
  else
    let s := s.publish c scope
    if (s.ctx c).lost.isNone && (s.acksOwed c scope || s.closeWaitsTile c || s.takeWaits c || s.takeOutranked c) then (s, false)
    else ((s.modCtx c fun x => { x with waits := x.waits.drop 1 }).finishClose c scope after, true)

end Sys2Proof.Machine
end

