-- ==== Sys2Proof/Machine/Operands.lean ====
section
/-! DEFINITION. Operand forms: rebased fields (R46), port and stream operands (R47), masks (R54, R152), lanes (R48), and the
scheduling of results. A reader answers none where the bundle must hold (R57). -/

namespace Sys2Proof.Machine

/-- A field rebased in a file of 2^n registers (R46). -/
def rebase {n : Nat} (i : Bool) (raw base : BitVec n) : BitVec n := if i then raw + base else raw

/-- The port that a raw X field names (R47): none in handler mode (R65), for a rebased field, or while the port is unbound. -/
def State.portField (s : State) (i : Bool) (raw : BitVec 5) : Option (Fin 16) :=
  if h : i = false ∧ s.me.hm = false ∧ 16 ≤ raw.toNat then
    let n : Fin 16 := ⟨raw.toNat - 16, by have := raw.isLt; omega⟩
    if (s.me.ports.get n).bound then some n else none
  else none

/-- The value of an X source field without popping (for the checks of R52). -/
def State.peekX (s : State) (i : Bool) (raw : BitVec 5) : Option Word :=
  match s.portField i raw with
  | some n => (s.me.ports.get n).peek
  | none => some (s.me.getX (rebase i raw s.me.xb))

/-- Read an X source field (R46, R47): a bound port pops one word, and holds where none has arrived. -/
def State.readX (s : State) (i : Bool) (raw : BitVec 5) : Option (Word × State) :=
  match s.portField i raw with
  | some n =>
    match (s.me.ports.get n).peek with
    | some w => some (w, s.modMe fun x => { x with ports := x.ports.set n.val { x.ports.get n with read := (x.ports.get n).read + 1 } n.isLt })
    | none => none
  | none => some (s.me.getX (rebase i raw s.me.xb), s)

/-- Write an X destination field: a bound port takes the word at issue, and holds where it has no room (R47, R57). -/
def State.writeX (s : State) (i : Bool) (raw : BitVec 5) (v : Word) (lat : Nat) : Option State :=
  match s.portField i raw with
  | some n =>
    let p := s.me.ports.get n
    if p.buffered < 64 then some (s.modMe fun x => { x with ports := x.ports.set n.val { p with pushed := p.pushed ++ [v] } n.isLt })
    else none
  | none => some (s.land (.x (bank s.me.hm (rebase i raw s.me.xb)) v) lat)

/-- Read a Y field. -/
def State.readY (s : State) (i : Bool) (raw : BitVec 5) : Word := s.me.getY (rebase i raw s.me.yb)
/-- The home of a Y destination field. -/
def State.homeY (s : State) (i : Bool) (raw : BitVec 5) : Fin 38 := bank s.me.hm (rebase i raw s.me.yb)
/-- The register of a V field that always names a v register. -/
def State.homeV (s : State) (i : Bool) (raw : BitVec 5) : Fin 32 := fin32 (rebase i raw s.me.vb)
/-- Read a V field that always names a v register (R47: the d field, and the fields of VMEM). -/
def State.plainV (s : State) (i : Bool) (raw : BitVec 5) : Vec := s.me.v.get (s.homeV i raw)

/-- The ring that a raw V source field names (R47). -/
def State.streamField (s : State) (i : Bool) (raw : BitVec 5) : Option (Fin 32) :=
  if i = false ∧ s.me.hm = false ∧ 24 ≤ raw.toNat then s.zRing s.core.cur (BitVec.ofNat 3 (raw.toNat - 24)) else none

/-- What a V source read gives: the value, or the scratchpad offset of a slot lost to an uncorrectable error (R150). -/
inductive VRead | val (v : Vec) | lost (at_ : Nat)
  deriving DecidableEq, Repr

/-- Read a V source field: a bound stream pops one slot, whose first 256 bytes are read, however large it is (R139, R152; log 118). -/
def State.readV (s : State) (i : Bool) (raw : BitVec 5) : Option (VRead × State) :=
  match s.streamField i raw with
  | some n =>
    match (s.ring n).pop with
    | none => none
    | some (slot, r) =>
      let a := (s.ring n).slotAt slot
      let s := s.setRing n r
      if s.core.spadLost a 256 then some (.lost a, s) else some (.val (BitVec.ofNat 2048 (ofBytes (s.core.spadRead a 256))), s)
  | none => some (.val (s.plainV i raw), s)

/-- Read a mask register. -/
def State.readK (s : State) (k : BitVec 3) : Mask := s.me.getK k

/-- The issue of the bundle ends here: nothing of it commits. -/
def State.stop (s : State) : State := { s with verdict := .trapped }

/-! ### Lanes (R48) -/

/-- Width of a lane in bits. -/
def laneW : LaneType → Nat
  | .b8 | .i8 | .n8 | .e4m3 | .e5m2 | .e8m0 => 8
  | .i16 | .n16 | .f16 | .bf16 => 16
  | .i32 | .n32 | .f32 => 32
  | .i64 | .n64 => 64
  | .e2m1 => 4

/-- Lanes of a vector. -/
def laneN (t : LaneType) : Nat := 2048 / laneW t

/-- Lane `j` of `w` bits. -/
def lane (v : Vec) (w j : Nat) : Nat := v.toNat / 2 ^ (w * j) % 2 ^ w

/-- The low `n` lanes of a vector, each from the given function. -/
def laneSum (w : Nat) (f : Nat → Nat) : Nat → Nat
  | 0 => 0
  | n + 1 => laneSum w f n + f n % 2 ^ w * 2 ^ (w * n)

/-- A vector of `n` lanes of `w` bits. -/
def ofLanes (w n : Nat) (f : Nat → Nat) : Vec := BitVec.ofNat 2048 (laneSum w f n)

/-- The bits of the lanes that a mask enables. -/
def laneBits (w n : Nat) (k : Mask) : Vec := BitVec.ofNat 2048 (spread w (k.toNat % 2 ^ n) n)

/-- A lane as a signed number. -/
def signedOf (w v : Nat) : Int := if v < 2 ^ (w - 1) then (v : Int) else (v : Int) - 2 ^ w

/-- The pattern of a number in `w` bits. -/
def patternOf (w : Nat) (i : Int) : Nat := (i % (2 ^ w : Nat)).toNat

/-- Schedule the enabled lanes of a vector result; a result of no lane writes nothing (R60). -/
def State.writeV (s : State) (i : Bool) (d : BitVec 5) (t : LaneType) (k : Mask) (v : Vec) (lat : Nat) : State :=
  s.land (.v (s.homeV i d) (laneBits (laneW t) (laneN t) k) v) lat

/-- Schedule a mask result: bits above the type's lanes become zero (R54). -/
def State.writeK (s : State) (d : BitVec 3) (lanes : Nat) (m : Nat) (lat : Nat) : State :=
  s.land (.k (fin8 d) (BitVec.ofNat 512 (m % 2 ^ lanes))) lat

end Sys2Proof.Machine
end

