-- ==== Sys2Proof/Machine/Flags.lean ====
section
/-! DEFINITION. Flags (R55), compare conditions (R84, R158), and the checks made on a performed instruction (R51, R52 step 4:
use checks, privilege, feature), with the frame in which every instruction word runs. -/

namespace Sys2Proof.Machine

/-! ### Flags -/

/-- A flag set of FFLAGS (R55). -/
structure FFlags where (nv dz of uf nx : Bool)
  deriving DecidableEq, Repr

def FFlags.none : FFlags := ⟨false, false, false, false, false⟩
def FFlags.join (a b : FFlags) : FFlags := ⟨a.nv || b.nv, a.dz || b.dz, a.of || b.of, a.uf || b.uf, a.nx || b.nx⟩
def FFlags.bits (f : FFlags) : BitVec 5 := BitVec.ofNat 5 (b2n f.nv * 16 + b2n f.dz * 8 + b2n f.of * 4 + b2n f.uf * 2 + b2n f.nx)

/-- Schedule a flag set beside a result; an empty one lands nothing. -/
def State.landFlags (s : State) (f : FFlags) (lat : Nat) : State := if f.bits = 0 then s else s.land (.flags f.bits) lat

/-! ### Conditions -/

/-- The truth of a compare (R84). -/
def Cond.holds (c : Cond) (a b : Word) : Bool :=
  match c with
  | .eq => a == b
  | .ne => a != b
  | .lt => a.slt b
  | .ge => !a.slt b
  | .ltn => a.ult b
  | .gen => !a.ult b
  | .le => !b.slt a

/-! ### Checks -/

/-- The trap record of a check on the word in issue. -/
def State.trapOf (s : State) (cause sub : Nat) : TrapRec := TrapRec.plain cause sub s.issue.slot (s.issue.word.setWidth 64) 0

/-- The op field of the word in issue (R394). -/
def State.opField (s : State) : Nat := opOf s.issue.word.toNat

/-- The tenant's FEAT withholds the feature (R296): bit 0 fabric, 1 Pavane, 2 subscriptions, 3 privileged registers. The service
context has no tenant. -/
def State.withheld (s : State) (bit : Nat) : Bool :=
  match s.me.strand with
  | some t => s.core.cur != svc && bitAt (s.dl.vf t.vf).feat bit
  | none => false

/-- System registers that only the service context writes (R131, R195, R306, R321, R339); those of R305 nobody writes. -/
def mtsPrivileged (n : Nat) : Bool :=
  decide (n = 0x103 ∨ n = 0x104 ∨ (0x108 ≤ n ∧ n ≤ 0x117) ∨ (0x180 ≤ n ∧ n ≤ 0x19F) ∨ n = 0x216 ∨ (0x220 ≤ n ∧ n ≤ 0x223) ∨
    (0x400 ≤ n ∧ n ≤ 0x489) ∨ (0x500 ≤ n ∧ n ≤ 0x50F) ∨ n = 0x520 ∨ n = 0x521 ∨ n = 0x523 ∨ n = 0x524)

/-- MFS or MTS of register `n` raises the privilege trap (R62, R68, R77, R131, R195, R305). The service context never takes it for 0x018 to 0x028, in
whatever mode it runs (log 117). -/
def State.sysPrivileged (s : State) (write : Bool) (n : Nat) : Bool :=
  let strand := s.core.cur != svc
  (strand && handlerOnly n && !s.me.hm) || (strand && n == 0x029) ||
  (strand && !s.me.hm && decide (0x260 ≤ n ∧ n ≤ 0x27F)) ||
  (write && ((strand && mtsPrivileged n) || decide (0x300 ≤ n ∧ n ≤ 0x303)))

/-- MFS or MTS of register `n` needs a feature that is withheld (R296). -/
def State.sysWithheld (s : State) (n : Nat) : Bool :=
  (decide (0x400 ≤ n ∧ n < 0x480) && s.withheld 3) || (decide (0x480 ≤ n ∧ n < 0x500) && s.withheld 1) ||
  (decide (0x500 ≤ n ∧ n < 0x600) && s.withheld 0)

/-- The innermost levels are both active (R90). -/
def Ctx.loopsFull (c : Ctx) : Bool := (c.levels.get 0).act && (c.levels.get 1).act

/-- A transfer is pending: the bundle in issue is a delay bundle (R87). -/
def Ctx.pendingXfer (c : Ctx) : Bool := if c.hm then c.hxfer.isSome else c.xfer.isSome

/-- Use checks (R51): illegal-instruction traps of an assigned encoding in a stated state. -/
def useCheck (i : Instr) (s : State) : Option TrapRec :=
  match i with
  | .yield _ | .susp _ | .done _ => if s.me.hm then some (s.trapOf 1 s.opField) else none
  | .phase _ _ => if s.me.hm ∨ s.issue.hasXfer = true ∨ s.me.pendingXfer = true then some (s.trapOf 1 0x28) else none
  | .br _ _ | .call _ _ | .jmpr _ | .callr _ | .ret _ => if s.me.pendingXfer then some (s.trapOf 1 s.opField) else none
  | .loop _ a _ => if s.me.loopsFull && (s.peekX false a).any (· != 0) then some (s.trapOf 1 0x17) else none
  | _ => none

/-- Privilege checks (R52 step 4, R394). -/
def privCheck (i : Instr) (s : State) : Option TrapRec :=
  match i with
  | .eret _ => if s.me.hm then none else some (s.trapOf 4 s.opField)
  | .mfs f => if s.sysPrivileged false f.n.toNat then some (s.trapOf 4 f.n.toNat) else none
  | .mts f => if s.sysPrivileged true f.n.toNat then some (s.trapOf 4 f.n.toNat) else none
  | .cfixRetry _ _ | .cfixSkip _ _ | .cfixPatch _ _ _ => if s.me.hm then none else some (s.trapOf 4 s.opField)
  | _ => none

/-- Feature checks (R296, R394). -/
def featCheck (i : Instr) (s : State) : Option TrapRec :=
  match i with
  | .mfs f | .mts f => if s.sysWithheld f.n.toNat then some (s.trapOf 5 f.n.toNat) else none
  | .phase _ sc => if (sc = .package ∨ sc = .fabric) ∧ s.withheld 0 = true then some (s.trapOf 5 s.opField) else none
  | .qwait _ | .jset _ | .rflush _ | .rwait _ | .qmark _ | .qstat _ | .grpq _ | .lstat _ =>
    if s.withheld 0 then some (s.trapOf 5 s.opField) else none
  | .pvpost _ | .pvstash _ | .pvtake _ | .pvbub _ _ _ _ | .pvstat _ _ _ => if s.withheld 1 then some (s.trapOf 5 s.opField) else none
  | .subs _ | .subsCancel _ _ => if s.withheld 2 then some (s.trapOf 5 s.opField) else none
  | _ => none

/-- The checks of R52 step 4 in their order. -/
def slotCheck (i : Instr) (s : State) : Option TrapRec := (useCheck i s).orElse fun _ => (privCheck i s).orElse fun _ => featCheck i s

/-! ### The frame of an instruction word -/

/-- What a slot answers: a next state. -/
abbrev Out := Host.Outcome State Fault Refusal

/-- Run a body that may hold its bundle before any effect (R57). -/
def runBody (s : State) (body : State → Option State) : Out :=
  match body s with
  | some t => .next t
  | none => .next { s with verdict := .held }

/-- Perform an instruction word in the context in issue: guard (R45), checks (R52), effect. -/
def perform (i : Instr) (g : BitVec 4) (s : State) (body : State → Option State) : Out :=
  if s.me.getP g then
    match slotCheck i s with
    | some t => .next (s.takeTrap t)
    | none => runBody s body
  else .next s

end Sys2Proof.Machine
end

