-- ==== Sys2Proof/Machine/Waits.lean ====
section
/-! DEFINITION. Memory accesses of a strand as shared operations: loads, stores, atomics (R94 to R105), and the waits of a
context after its bundle has issued (R104, R106, R108, R181, R233, R359). -/

namespace Sys2Proof.Machine

/-! ### Faults at issue -/

/-- A region-abort fault at the bundle in issue: nothing of the bundle commits. -/
def State.abortHere (s : State) (addr : Word) (b : Bad) : State := (s.regionFault s.core.cur ⟨addr, b.order, b.sub⟩).stop
/-- A strand fault at the bundle in issue. -/
def State.faultStop (s : State) (sub : Nat) (addr : Word) : State := (s.faultHere s.core.cur sub addr).stop

/-- Record an asynchronous trap of a context (R64). -/
def State.recordAsync (s : State) (c : Fin 5) (a : Async) : State := s.modCtx c fun x => { x with asyncs := x.asyncs ++ [a] }

/-- The record of an access outside the Mirror frame, SUB 4 (R206, R224): it names no tile, and no row is left unwritten. -/
def frameTrap (word : Word32) : TrapRec := ⟨12, 4, 3, word.setWidth 64, 0, #v[0, 0, 0, 0, 0, 0, 64, 0]⟩

/-- The tile operation error of an access outside the Mirror frame, SUB 4 (R206, R224). -/
def State.frameError (s : State) : State :=
  s.recordAsync s.core.cur ⟨frameTrap s.issue.word, none, s.tags, 0⟩

/-- A load or atomic of an earlier bundle is still to be performed: no engine operation is forked before it (R270; log 94). -/
def State.loadsOwed (s : State) : Bool :=
  s.me.reqs.any fun r => decide (r.tag < s.issue.tags) && (match r.kind with | .load _ _ | .atomic _ => true | .probe | .check => false)

/-! ### Loads -/

/-- What reading a span found: the bytes of this die as one number, and the pieces still owed with their die. -/
inductive Span
  | data (raw : Nat) (owed : List (Piece × BitVec 16 × BitVec 2))
  | bad (addr : Word) (b : Bad)
  | lost (addr : Word)
  | gone (addr : Word)
  | noFrame
  deriving DecidableEq, Repr

/-- The contiguous runs of the missing bytes of a piece: place in the sector and length. -/
def runsOf (missing : BitVec 32) (i n : Nat) : List (Nat × Nat) :=
  match n with
  | 0 => []
  | n + 1 =>
    match runsOf missing (i + 1) n with
    | (j, k) :: r => if bitAt missing i then (if j = i + 1 then (i, k + 1) :: r else (i, 1) :: (j, k) :: r) else (j, k) :: r
    | [] => if bitAt missing i then [(i, 1)] else []

/-- Read the pieces of a span in address order (R94, R95): the first that fails decides. -/
def State.readSpan (s : State) (c : Fin 5) (n : Nat) (l : List Piece) : Span × State :=
  match l with
  | [] => (.data 0 [], s)
  | p :: r =>
    let addr : Word := BitVec.ofNat 64 (p.sec * 32 + p.at_)
    match s.readSec c p.sec p.mask n with
    | (.bad b, s) => (.bad addr b, s)
    | (.lost, s) => (.lost addr, s)
    | (.gone, s) => (.gone addr, s)
    | (.noFrame, s) => (.noFrame, s)
    | (.data v missing fid die, s) =>
      match State.readSpan s c n r with
      | (.data raw owed, s) =>
        let mine := v.toNat / 2 ^ (8 * p.at_) % 2 ^ (8 * p.len)
        let gaps := (runsOf missing p.at_ p.len).map fun g => ((⟨p.sec, g.1, g.2, p.pos + (g.1 - p.at_)⟩ : Piece), fid, die)
        (.data (mine * 2 ^ (8 * p.pos) + raw) (gaps ++ owed), s)
      | (x, s) => (x, s)

/-- Bytes of missing pieces read as zero until they come. -/
def clearGaps (raw : Nat) (owed : List (Piece × BitVec 16 × BitVec 2)) : Nat :=
  owed.foldl (fun raw g => raw - raw / 2 ^ (8 * g.1.pos) % 2 ^ (8 * g.1.len) * 2 ^ (8 * g.1.pos)) raw

/-- The read requests of a load for result `id` (R355 kind 7), one for all that it reads of a sector, so that the home answers whole (R274); the tags
answered are what the result waits for. -/
def State.requestSecs (s : State) (id : Nat) (owed : List (Piece × BitVec 16 × BitVec 2)) (secs : List Nat) : List Nat × State :=
  match secs with
  | [] => ([], s)
  | sec :: r =>
    let mine := owed.filter fun g => g.1.sec == sec
    match mine with
    | [] => State.requestSecs s id owed r
    | (p, fid, die) :: _ =>
      let (tag, s) := s.newTag
      let w := s.who s.core.cur
      let lo := mine.foldl (fun a g => min a g.1.at_) p.at_
      let hi := mine.foldl (fun a g => max a (g.1.at_ + g.1.len)) 0
      let addr := sec * 32 + lo
      let parts := mine.map fun g => (⟨g.1.at_ - lo, g.1.len, g.1.pos⟩ : LoadPart)
      let s := s.send ⟨fid, die, false, .read ⟨s.srcOf s.core.cur, w.job, w.vf, w.asid, addr % 2 ^ 52, hi - lo, false, false, tag⟩⟩
      let s := s.modMe fun x => { x with reqs := x.reqs ++ [⟨tag, id, hi - lo, BitVec.ofNat 64 addr, .load parts (some s.cl.refcnt)⟩] }
      let (tags, s) := State.requestSecs s id owed r
      (tag :: tags, s)

/-- Ask other dies for what a load still lacks. -/
def State.requestAll (s : State) (id : Nat) (owed : List (Piece × BitVec 16 × BitVec 2)) : List Nat × State :=
  s.requestSecs id owed (owed.map fun g => g.1.sec).eraseDups

/-- A load by the strand reads bytes that a copy which it forked in its context has still to write (R183): one that a former strand of the context left
behind holds no load. -/
def State.loadWaits (s : State) (ea n : Nat) : Bool :=
  s.me.chans.any fun h => h.state != .idle && h.who.record == (s.who s.core.cur).record && (h.op == .mm || h.op == .sm || h.op == .drn || (match h.op with | .red _ => true | _ => false)) &&
    (let e := match h.op with | .red .xsaddf => 16 * h.pat.getPat .esize | _ => h.pat.getPat .esize
     (List.range h.rows).any fun r =>
       let n1 := h.pat.getPat .n1
       let d := (h.cb.toNat + r / n1 * h.pat.getPat .ds2 + r % n1 * h.pat.getPat .ds1) % 2 ^ 64
       decide (d < ea + n ∧ ea < d + e ∧ h.wm.toNat < min (ea + n) (d + e)))

/-- A scalar load of `n` bytes into y-register `d` (R98): the result lands at latency 6. -/
def State.loadY (s : State) (d : Fin 38) (ea : Word) (n : Nat) (sx : Bool) : Option State :=
  if s.loadWaits ea.toNat n then none
  else match s.readSpan s.core.cur n (pieces 3 ea.toNat n 0) with
    | (.bad a b, s) => some (s.abortHere a b)
    | (.lost a, s) => some (s.faultStop 6 a)
    | (.gone a, s) => some (s.faultStop 2 a)
    | (.noFrame, s) =>
      let (k, s) := s.stamp
      some (s.frameError.land (.y d (Config.freeWord k 0)) 6)
    | (.data raw owed, s) =>
      let raw := BitVec.ofNat 2048 (clearGaps raw owed)
      if owed.isEmpty then some (s.land (.yload d raw n sx) 6)
      else
        let (id, s) := s.newTag
        let (tags, s) := s.requestAll id owed
        some (s.landPart (.yload d raw n sx) 6 id tags)

/-! ### Stores -/

/-- The translation probe of one sector of a store, of a strand or of a TSTORE row (R96, R231, R245): a failed check, or a die to ask. -/
def State.probe (s : State) (w : Who) (k : AccKind) (sec n : Nat) : Except (Option Bad) (Option (BitVec 16 × BitVec 2)) × State :=
  match s.dieOf w.job (sec / 2 ^ 47) with
  | .bad => (.error (some ⟨1, 4⟩), s)
  | .gone _ _ => (.error none, s)
  | .other fid die => (.ok (some (fid, die)), s)
  | .own =>
    match s.access w (sec % 2 ^ 47 * 32) k n with
    | (.error b, s) => (.error (some b), s)
    | (.ok _, s) => (.ok none, s)

/-- Ask another die to check an access (R96, R97): a read request of length 0, with the weight-stream bit for an atomic (log 17). -/
def State.askCheck (s : State) (c : Fin 5) (fid : BitVec 16) (die : BitVec 2) (addr : Nat) (atomic : Bool) (tag : Nat) : State :=
  let w := s.who c
  let s := s.send ⟨fid, die, false, .read ⟨s.srcOf c, w.job, w.vf, w.asid, addr % 2 ^ 52, 0, false, atomic, tag⟩⟩
  s.modCtx c fun x => { x with reqs := x.reqs ++ [⟨tag, 0, 0, BitVec.ofNat 64 addr, if atomic then .check else .probe⟩] }

/-- The context holds after the bundle until the probe of another die answers (R96). -/
def State.askProbe (s : State) (c : Fin 5) (fid : BitVec 16) (die : BitVec 2) (addr : Nat) : State :=
  let (tag, s) := s.newTag
  (s.askCheck c fid die addr false tag).modCtx c fun x => { x with waits := x.waits ++ [.request tag] }

/-- The home's page is not cached: the buffered sector of a store there goes past L1 and L2 (R244; log 17). -/
def Ctx.markUncached (x : Ctx) (sec : Nat) (bs : List Byte) : Ctx :=
  match lookup x.buf sec with
  | some e => if bs.any (· != 0) then { x with buf := insertAt x.buf sec { e with uncached := true } } else x
  | none => x

/-- How a store to the phase buffer ended. -/
inductive Stored | ok | bad (addr : Word) (b : Bad) | gone (addr : Word) | full (addr : Word) | noFrame
  deriving DecidableEq, Repr

/-- A piece of a store lies at the frame addresses of Mirror service, and outside the frame (R206). -/
def State.pieceOff (s : State) (frame : Option Nat) (p : Piece) : Bool :=
  match (if p.sec / 2 ^ 47 = 0xFFF then frame else none) with
  | some f =>
    let o := (p.sec * 32 + p.at_) % 2 ^ 52
    decide (2 ^ 18 < o + p.len) || (s.dm.backing (f + o)).isNone
  | none => false

/-- Buffer the pieces of a store whose bytes are those of `v` (R96), each after its probe, which `asks` says is asked of another die or answered, and is
an engine's otherwise; a frame address is written at issue (R206). The first piece, in order of address or lane, that fails or finds no room decides the
fault: the spec gives no order among the faults of one store (log 92). -/
def State.storeParts (s : State) (c : Fin 5) (w : Who) (frame : Option Nat) (asks : Bool) (n v : Nat) (l : List Piece) : Stored × State :=
  match l with
  | [] => (.ok, s)
  | p :: r =>
    let a := p.sec * 32 + p.at_
    match (if p.sec / 2 ^ 47 = 0xFFF then frame else none) with
    | some f =>
      let o := a % 2 ^ 52
      match s.dm.backing (f + o) with
      | some b => State.storeParts (s.devWrite b (bytesOf (BitVec.ofNat (8 * p.len) (v / 2 ^ (8 * p.pos))) p.len)) c w frame asks n v r
      | none => (.noFrame, s)
    | none =>
    match s.probe w (if asks then .store else .engWrite) p.sec n with
    | (.error (some b), s) => (.bad (BitVec.ofNat 64 a) b, s)
    | (.error none, s) => (.gone (BitVec.ofNat 64 a), s)
    | (.ok ask, s) =>
      let buf := (s.ctx c).buf
      if (lookup buf p.sec).isNone ∧ bufLimit ≤ buf.length then (.full (BitVec.ofNat 64 a), s)
      else
        let s := s.modCtx c fun x => { x with buf := bufStore x.buf p v }
        let s := match ask, asks with | some (fid, die), true => s.askProbe c fid die a | _, _ => s
        State.storeParts s c w frame asks n v r

/-- A store: an access outside the Mirror frame is not made, in no part (R206, R224). -/
def State.storeFor (s : State) (c : Fin 5) (w : Who) (frame : Option Nat) (asks : Bool) (n v : Nat) (l : List Piece) : Stored × State :=
  if l.any (s.pieceOff frame) then (.noFrame, s) else s.storeParts c w frame asks n v l

/-- A store of the strand in a context. -/
def State.storeSpan (s : State) (c : Fin 5) (n v : Nat) (l : List Piece) : Stored × State := s.storeFor c (s.who c) (s.mirrorFrame c) true n v l

/-- What a store's end does to the bundle in issue. -/
def State.storeEnd (s0 : State) (r : Stored × State) : State :=
  match r with
  | (.ok, s) => s
  | (.bad a b, s) => ({ s with core := s0.core, fi := s0.fi } : State).abortHere a b
  | (.gone a, s) => s.faultStop 2 a
  | (.full a, s) => s.faultStop 3 a
  | (.noFrame, s) => s.frameError

/-- A scalar store of `n` bytes (R98). -/
def State.storeY (s : State) (ea v : Word) (n : Nat) : State :=
  s.storeEnd (s.storeSpan s.core.cur n (v.toNat % 2 ^ (8 * n)) (pieces 3 ea.toNat n 0))

/-! ### Atomics -/

/-- How an attempt to perform an atomic ended: with the old value, sent to its home (R102, R103), or with a fault. -/
inductive Atomic | done (old : Nat) | sent | bad (b : Bad) | gone | lost
  deriving DecidableEq, Repr

/-- Perform an atomic whose sector no cache of the core and cluster holds dirty any longer; `tag` names the reply of another die. It seals the
region when it is performed here or sent (R25, R103). -/
def State.atomicNow (s : State) (c : Fin 5) (ea w e : Word) (f : BitVec 6) (axch : Bool) (tag : Nat) : Atomic × State :=
  let wh := s.who c
  let sec := ea.toNat / 32
  let (lost, s) := s.flushSector c (ckey wh.asid sec)
  if lost then (.lost, s)
  else match s.dieOf wh.job (sec / 2 ^ 47) with
    | .bad => (.bad ⟨1, 4⟩, s)
    | .gone _ _ => (.gone, s)
    | .own =>
      match s.homeAtomic wh (ea.toNat % 2 ^ 52) axch f w e with
      | (.error b, s) => (.bad b, s)
      | (.ok old, s) => (.done old, s.seal c)
    | .other fid die =>
      let s := s.send ⟨fid, die, false, .atomic ⟨s.unitOf c wh.job 0, true, wh.job, wh.vf, wh.asid, ea.toNat % 2 ^ 52, f, axch, w, e, tag⟩⟩
      let first := !(s.ctx c).sealed
      (.sent, (s.seal c).modCtx c fun x => { x with reqs := x.reqs ++ [⟨tag, tag, atomicBytes axch f, ea, .atomic first⟩] })

/-- The home of an atomic stands on another die. -/
def State.atomicAway (s : State) (c : Fin 5) (ea : Word) : Option (BitVec 16 × BitVec 2) :=
  match s.dieOf (s.who c).job (ea.toNat / 2 ^ 52) with | .other fid die => some (fid, die) | _ => none

/-- The dirty sector of an atomic has its home on another die: its write-back must be acknowledged first (R103). -/
def State.atomicDirty (s : State) (c : Fin 5) (ea : Word) : Bool :=
  let k := ckey (s.who c).asid (ea.toNat / 32)
  ((s.l1At k).dirty != 0 || (s.l2At k).dirty != 0) && (s.atomicAway c ea).isSome

def AOrd.isRel (o : AOrd) : Bool := match o with | .rel | .acqrel => true | .plain | .acq => false
def AOrd.isAcq (o : AOrd) : Bool := match o with | .acq | .acqrel => true | .plain | .rel => false

/-- What the end of an atomic does: the value lands in result `tag` (R102), an acquire refreshes (R104), a fault ends it; one sent to
another die holds the context until its reply, which costs no context cycle (R104). A write-back lost on the way faults with its sector's address (R396). -/
def State.atomicEnd (s : State) (c : Fin 5) (ord : AOrd) (ea : Word) (tag : Nat) (r : Atomic) : State :=
  match r with
  | .done old =>
    let s := s.modCtx c fun x => x.setFlight (fillPend x.flight tag tag 0 (BitVec.ofNat 2048 old))
    if AOrd.isAcq ord then s.refresh c else s
  | .sent => s.modCtx c fun x => { x with waits := x.waits ++ [if AOrd.isAcq ord then .acquire tag else .request tag] }
  | .bad b => s.regionFault c ⟨ea, b.order, b.sub⟩
  | .gone => s.faultLast c 2 ea
  | .lost => s.faultLast c 2 (BitVec.ofNat 64 (ea.toNat / 32 * 32))

/-- The fault that an atomic would meet at a home on this die, at an address of no die or at a departed die: it is found before anything is
published, since a fault before performing leaves no effect (R97, R105). -/
def State.atomicBad (s : State) (c : Fin 5) (ea w e : Word) (f : BitVec 6) (axch : Bool) : Option Atomic :=
  let wh := s.who c
  match s.dieOf wh.job (ea.toNat / 2 ^ 52) with
  | .bad => some (.bad ⟨1, 4⟩)
  | .gone _ _ => some .gone
  | .other _ _ => none
  | .own =>
    let k := ckey wh.asid (ea.toNat / 32)
    let s := if (s.l1At k).dirty = 0 ∧ (s.l2At k).dirty = 0 then s else (s.flushSector c k).2
    match (s.homeAtomic wh (ea.toNat % 2 ^ 52) axch f w e).1 with | .error b => some (.bad b) | .ok _ => none

/-- Before an atomic is performed: a release sends the buffered stores to their homes (R104), and a dirty copy of its sector goes back to a home
on another die (R103). Whether acknowledgements must now be awaited. -/
def State.atomicFlush (s : State) (c : Fin 5) (ea : Word) (ord : AOrd) : Bool × State :=
  let s := if AOrd.isRel ord then s.release c else s
  let dirty := s.atomicDirty c ea
  let s := if dirty then (s.flushSector c (ckey (s.who c).asid (ea.toNat / 32))).2 else s
  ((dirty || AOrd.isRel ord) && (s.ctx c).owesAcks, s)

/-- An atomic at issue (R102 to R105), where one for another die is counted as injected (R346): alignment, faults, release, performance; where something must be acknowledged, performed or checked first
the context waits after the bundle. `dst` is none for AST, which returns nothing. -/
def State.atomicIssue (s : State) (dst : Option (Fin 38)) (ea w e : Word) (f : BitVec 6) (axch : Bool) (ord : AOrd) : State :=
  let c := s.core.cur
  let n := atomicBytes axch f
  if ea.toNat % n ≠ 0 then s.faultStop 4 ea
  else if (s.mirrorFrame c).isSome ∧ ea.toNat / 2 ^ 52 = 0xFFF then
    let (k, s) := s.stamp
    match dst with | some d => s.frameError.land (.y d (Config.freeWord k 0)) 6 | none => s.frameError
  else
    match s.atomicBad c ea w e f axch with
    | some (.bad b) => ((if b = ⟨0, 1⟩ then s.enqueue (.machineCheck 2 s.dieUnit) else s).regionFault c ⟨ea, b.order, b.sub⟩).stop
    | some _ => s.faultStop 2 ea
    | none =>
      let (tag, s) := s.newTag
      let s := if (s.atomicAway c ea).isSome then s.count (s.who c).job 1 0 0 else s
      let result (s : State) : State := match dst with | some d => s.landPart (.yload d 0 n false) 6 tag [tag] | none => s
      let later (s : State) (st : AtomicStage) : State := (result s).modMe fun x => { x with waits := x.waits ++ [.atomic (dst.getD 0) ea w e f axch ord tag st] }
      match (if AOrd.isRel ord && !s.me.buf.isEmpty then s.atomicAway c ea else none) with
      | some (fid, die) =>
        let (t, s) := s.newTag
        later (s.askCheck c fid die ea.toNat true t) (.check t)
      | none =>
        if AOrd.isRel ord && !s.me.reqs.isEmpty then later s .release
        else
          match s.atomicFlush c ea ord with
          | (true, s) => later s .acks
          | (false, s) =>
            match s.atomicNow c ea w e f axch tag with
            | (.bad b, s2) => (s2.regionFault c ⟨ea, b.order, b.sub⟩).stop
            | (.gone, s2) => s2.faultStop 2 ea
            | (.lost, s2) => s2.faultStop 2 (BitVec.ofNat 64 (ea.toNat / 32 * 32))
            | (r, s2) => (result s2).atomicEnd c ord ea tag r

/-! ### Waits -/

/-- Every engine operation of a context has reached its completion object (R188, R234). -/
def State.ctxEnginesDone (s : State) (c : Fin 5) : Bool :=
  (s.core.ops.all fun o => o.ctx.val != c.val) && (s.ctx c).chans.all (·.state == .idle)

/-- Every engine operation that the strand in a context forked has reached its completion object, in whatever context it was forked (R28, R108);
none of the context's goes on either. -/
def State.enginesDone (s : State) (c : Fin 5) : Bool :=
  s.ctxEnginesDone c && (match (s.ctx c).strand with
    | none => true
    | some t => (s.core.ops.all fun o => o.who.record != t.recAddr) &&
        (List.finRange 4).all fun i => (s.ctx (strandCtx i)).chans.all fun h => h.state == .idle || h.who.record != t.recAddr)

/-- Every message sent stands in its peer's arrival queue (R108): delivered in order, once CRED admits it. -/
def State.portsDone (s : State) (c : Fin 5) : Bool := (s.ctx c).ports.all (·.unsent.isEmpty)

/-- A row of a tile waits (R145). -/
def AccWm.rowWaits (w : AccWm) (r : Nat) : Bool := (decide (0 < w.infl) && decide (r < w.lastm) && decide (w.wm ≤ r)) || decide (r < w.cover)

/-- One attempt at the first wait of a context: none while it must go on waiting. A CWAIT refreshes whatever the operation writes (R268, R271; log 120). -/
def State.pumpOne (s : State) (c : Fin 5) : Option State :=
  let x := s.ctx c
  let next (s : State) : State := s.modCtx c fun x => { x with waits := x.waits.drop 1 }
  match x.waits with
  | [] => none
  | w :: _ =>
    match w with
    | .close scope after => match s.tryClose c scope after with
      | (t, true) => some t
      | (t, false) => if (t.ctx c).buf.length = x.buf.length then none else some t
    | .atomic d ea v e f axch ord tag stage =>
      let move (s : State) (st : AtomicStage) : State := s.modCtx c fun x => { x with waits := .atomic d ea v e f axch ord tag st :: x.waits.drop 1 }
      match stage with
      | .check t => if x.reqs.any (·.tag == t) then none else some (move s .release)
      | .release => if AOrd.isRel ord && !x.reqs.isEmpty then none else some (move (s.atomicFlush c ea ord).2 .acks)
      | .acks =>
        if x.owesAcks then none
        else if s.atomicDirty c ea then some (s.flushSector c (ckey (s.who c).asid (ea.toNat / 32))).2
        else match s.atomicNow c ea v e f axch tag with
          | (.gone, s2) => some ((next (s2.dropAtomics c)).atomicEnd c ord ea tag .gone)
          | (r, s2) => some ((next s2).atomicEnd c ord ea tag r)
    | .fence kind =>
      let eng := s.enginesDone c
      let port := s.portsDone c
      let acks := !x.owesAcks
      match kind with
      | .eng => if eng then some ((next s).refresh c) else none
      | .port => if port then some (next s) else none
      | .all => if eng && port && acks then some ((next s).refresh c) else none
    | .channel ch bound =>
      let h := x.chans.get ch
      if h.state == .idle || bound.any (fun b => decide (b.toNat ≤ h.wm.toNat)) then some ((next s).refresh c) else none
    | .tile t rows =>
      let w := s.tileWm c t
      match rows with
      | none => if w.infl = 0 then some (next s) else none
      | some b =>
        -- in Mirror service the placeholder served is not waited for (R207)
        let served := x.mirrorAct && s.lastOf c t == x.mirrorOp
        let w := if served then { w with wm := w.lastm } else w
        if (List.range b).any w.rowWaits then none else some (next s)
    | .allTiles => if s.core.ops.all (fun o => o.ctx.val != c.val) then some (next s) else none
    | .acks false => if x.owesAcks then none else some (next s)
    | .acks true => if x.owesAcks then none else match x.lost with
      | some (a, k) => some ((next s).faultLost c a k)
      | none => some (next s)
    | .quiet after => match (s.fi.job (s.who c).job).decl with
      | some d => if d.quiet ∧ after < d.number then some (next s) else none
      | none => none
    | .request tag => if x.reqs.any (·.tag == tag) then none else some (next s)
    | .acquire tag => if x.reqs.any (·.tag == tag) then none else some ((next s).refresh c)
    | .finish =>
      if x.owesAcks then none
      else match x.lost with
        | some (a, k) => some (s.faultLost c a k)
        | none => if s.enginesDone c then some (s.endStrand c false) else none
    | .evict => if s.ctxEnginesDone c then some (s.startLeave c .evict) else none
    | .leave l => if s.leaveOwes c l then none else some (s.finishLeave c l)
    | .eret => if x.allReady then some (s.endHandler c) else none

/-- Satisfy the waits of a context as far as they go now. -/
def State.pump (s : State) (c : Fin 5) : Nat → State
  | 0 => s
  | n + 1 => match s.pumpOne c with | some s => State.pump s c n | none => s

end Sys2Proof.Machine
end

