-- ==== Sys2Proof/Machine/Traps.lean ====
section
/-! DEFINITION. Asynchronous traps at a bundle boundary (R64), among them the capability miss that Mirror serves (R204 to R208). -/

namespace Sys2Proof.Machine

/-- Twice the bytes of an element of an MMA format (R219). -/
def fmtBytes2 (f : MmaFmt) : Nat :=
  match f with
  | .bf16 | .f16 => 4
  | .e4m3 | .e5m2 | .e4m3e5m2 | .e5m2e4m3 | .i8 => 2
  | .mxfp4 => 1

/-- The bit of the capability class of a format in BMAP (R49, R196). -/
def fmtClass (f : MmaFmt) : Nat :=
  match f with
  | .bf16 | .f16 => 0
  | .e4m3 | .e5m2 | .e4m3e5m2 | .e5m2e4m3 => 1
  | .mxfp4 => 2
  | .i8 => 3

/-- The class of a tile operation: TS for all but MMA (R199). -/
def TileKind.cls (k : TileKind) : Nat := match k with | .mma f => fmtClass f | _ => 4

/-- Bytes of the A operand and of the B operand from their first to their last (R219). -/
def aExtent (f : MmaFmt) (h : Rec8) : Nat := (h.getShape .m - 1) * h.getShape .apitch + h.getShape .k * fmtBytes2 f / 2
def bExtent (f : MmaFmt) (h : Rec8) : Nat := (h.getShape .k - 1) * h.getShape .bpitch + h.getShape .n * fmtBytes2 f / 2

/-- The engines a tenant's mask admits and that are not retired (R204). -/
def State.permitted (s : State) (vf : BitVec 6) : List Engine :=
  ((List.finRange 16).filter fun e => bitAt (s.vmask vf) e.val).filterMap fun e =>
    let g := s.cl.engines.get e
    if g.state = 2 then none else some g

/-- A class misses: no permitted engine holds it within CMASK (R204). -/
def State.misses (s : State) (vf : BitVec 6) (cls : Nat) : Bool :=
  !(bitAt (s.vmask vf) (16 + cls) && (s.permitted vf).any fun g => bitAt g.bmap cls)

/-- The recipe Mirror chooses (R208). -/
def State.recipe (s : State) (vf : BitVec 6) (cls : Nat) : BitVec 3 :=
  match cls with
  | 0 => if s.misses vf 1 then 2 else 1
  | 1 => 3
  | 2 => 4
  | _ => 5

/-- The Mirror frame of a context (R206). -/
def State.frameBase (s : State) (c : Fin 4) : Nat := fieldOf (s.cl.frames.get c) 39 18 * 2 ^ 18

/-- Bytes [o, o + n) of the operand of a dispatch record: of a slot, or of a block of the Mirror frame, which stands as ring 32 (R206). -/
def State.slotBytes (s : State) (c : Fin 4) (p : Option (Nat × Nat)) (o n : Nat) : List Byte :=
  match p with
  | none => []
  | some (r, slot) =>
    if h : r < 32 then s.core.spadRead ((s.ring ⟨r, h⟩).slotAt slot + o) n else Memory.getAll s.dm.mem (s.frameBase c + slot * 2 ^ 16 + o) n

/-- The first weight-buffer byte of a B descriptor (R216, R220). -/
def State.wbByte (s : State) (c : Fin 4) (mb : Word) : Nat := (s.core.wbBase c + fieldOf mb 25 16) * 256

/-- Bytes [k, k + n) of the B operand of a record: of a slot or of the weight buffer. -/
def State.bBytes (s : State) (o : TileRec) (k n : Nat) : List Byte :=
  if bitAt o.mb 5 then s.slotBytes o.ctx o.bSlot k n else Memory.getAll s.core.wbuf (s.wbByte o.ctx o.mb + k) n

/-- TRAP_OPD0 to TRAP_OPD5 of the records of R205 and R224. -/
def tileOpds (ma mb : Word) (h : Rec8) (o6 o7 : Word) : Vector Word 8 :=
  let two (a b : ShapeField) : Word := BitVec.ofNat 64 (h.getShape a * 2 ^ 32 + h.getShape b)
  #v[ma, mb, two .n .m, two .apitch .k, two .scale .bpitch, two .bsb .asb, o6, o7]

/-- Record a tile operation error of operation `op`; `row` is the first row not written, and `d` the descriptor of the tile. -/
def State.tileError (s : State) (c : Fin 5) (op sub : Nat) (word : Word32) (ma mb : Word) (h : Rec8) (row : Nat) (d : Word) : State :=
  s.recordAsync c ⟨⟨12, sub, 3, word.setWidth 64, 0, tileOpds ma mb h (BitVec.ofNat 64 (row % 128)) (d &&& 0x3F00)⟩, none, op, 0⟩

/-- The error of an operation in flight. -/
def State.opError (s : State) (o : TileRec) (sub row : Nat) : State := s.tileError (strandCtx o.ctx) o.id sub o.word o.ma o.mb o.shape row o.ma

/-- A slot of the scratchpad, or a block of the Mirror frame, holds an uncorrectable error in a span. -/
def State.slotLost (s : State) (c : Fin 4) (p : Option (Nat × Nat)) (o n : Nat) : Bool :=
  match p with
  | none => false
  | some (r, slot) =>
    if h : r < 32 then s.core.spadLost ((s.ring ⟨r, h⟩).slotAt slot + o) n else s.dm.poisoned (s.frameBase c + slot * 2 ^ 16 + o) n

/-- The B operand of a record holds an uncorrectable error. -/
def State.bLost (s : State) (o : TileRec) (n : Nat) : Bool :=
  if bitAt o.mb 5 then s.slotLost o.ctx o.bSlot 0 n
  else
    let at_ := s.wbByte o.ctx o.mb
    s.core.flaws.any fun w => w.place == .weight && decide (at_ / 32 ≤ w.idx ∧ w.idx ≤ (at_ + n - 1) / 32)

/-- The operands of a missed operation staged in blocks 0 and 1 of the Mirror frame (R206). Where they hold an uncorrectable error, what is staged
from the failing row onward is free, and the operation error SUB 2 is recorded (R150, R224). -/
def State.stage (s : State) (c : Fin 5) (o : TileRec) : State :=
  match o.kind, s.mirrorFrame c with
  | .mma f, some a =>
    let h := o.shape
    let na := aExtent f h
    let nb := bExtent f h
    let badB := s.bLost o nb
    let row := if badB then some 0
      else findIdx (h.getShape .m) fun r => s.slotLost o.ctx o.aSlot (r * h.getShape .apitch) (h.getShape .k * fmtBytes2 f / 2)
    let (k, s) := s.stamp
    let keep := match row with | some r => r * h.getShape .apitch | none => na
    let free (i n : Nat) : List Byte := (List.range n).map fun j => Config.freeByte k (i + j)
    let s1 := s.devWrite a ((s.slotBytes o.ctx o.aSlot 0 na).take keep ++ free 0 (na - keep))
    let s2 := s1.devWrite (a + 0x10000) (if badB then free 65536 nb else s.bBytes o 0 nb)
    match row with | some r => s2.opError o 2 r | none => s2
  | _, _ => s

/-- The order in which pending asynchronous traps are taken (R64): by cause, copy faults by channel (R186), the others in fork order (R224). -/
def asyncKey (a : Async) : Nat × Nat := (a.trap.cause, if a.trap.cause = 11 then fieldOf (a.trap.opd.get 0) 2 0 else a.op)

/-- The pending trap taken next, the earlier recorded of equal ones. -/
def firstAsync (l : List Async) : Option Async :=
  l.foldl (fun b a => match b with
    | none => some a
    | some b =>
      let (m, n) := asyncKey a
      let (i, j) := asyncKey b
      if m < i ∨ m = i ∧ n < j then some a else some b) none

/-- The entry of Mirror waits for a bitmap installation that waits (R202). -/
def State.asyncHeld (s : State) (c : Fin 5) : Bool :=
  match firstAsync (s.ctx c).asyncs with
  | none => false
  | some a => a.caps.isSome && s.cl.engines.any fun (g : Engine) => g.next.isSome

/-- Remove one occurrence. -/
def dropAsync (a : Async) : List Async → List Async
  | [] => []
  | b :: r => if b = a then r else b :: dropAsync a r

/-- Take the next asynchronous trap of a context, in user mode at a bundle boundary (R64); a capability miss starts Mirror
service (R206). -/
def State.takeAsync (s : State) (c : Fin 5) : State :=
  let x := s.ctx c
  if x.hm ∨ x.svcHeld ∨ s.asyncHeld c then s
  else match firstAsync x.asyncs with
    | none => s
    | some a =>
      let s := s.modCtx c fun x => { x with asyncs := dropAsync a x.asyncs }
      let s := s.enterAsync c a.trap
      match a.caps with
      | none => s
      | some e =>
        let n : Word32 := if x.mirrorCount = BitVec.allOnes 32 then x.mirrorCount else x.mirrorCount + 1
        let s := s.modCtx c fun x => { x with capE := e, mirrorOp := a.op, mirrorAct := true, mirrorCount := n, mirrorRecipe := a.recipe }
        match s.core.ops.find? fun o => o.id == a.op with
        | some o => (s.setTileWm c o.dst { s.tileWm c o.dst with cover := s.coverOf c o.dst }).stage c o
        | none => s

end Sys2Proof.Machine
end

