-- ==== Sys2Proof/Machine/Frame.lean ====
section
/-! DEFINITION. Fetch (R148, R149), framing and decoding of bundles and portable words (R36 to R42, R52 steps 1 to 3). -/

namespace Sys2Proof.Machine

/-! ### Fetch -/

/-- A word is fetchable (R148): in the context's window; for the service context, in the backed code arena (log 18). -/
def State.fetchable (s : State) (c : Fin 5) (a : Nat) : Bool :=
  match asStrand c with
  | some i => decide (fieldOf (s.core.arenaBase.get i) 39 8 * 256 ≤ a ∧ a < fieldOf (s.core.arenaBound.get i) 39 8 * 256)
  | none => inArena a && (s.dm.backing a).isSome

/-- The eight sectors of a 256-byte line, read under key slot 0 (R242, R260). -/
def State.lineAt (s : State) (line : Nat) : Nat → Nat × State
  | 0 => (0, s)
  | n + 1 =>
    let (v, s) := State.lineAt s line n
    match s.dm.backing (line * 256 + 32 * n) with
    | some b => let (d, _, s) := s.readSector 0 (b / 32); (v + d.toNat * 2 ^ (256 * n), s)
    | none => (v, s)

/-- Room for a line in the instruction cache, which has 64 sets of 8 ways; which line is replaced is free (R149; log 8). -/
def State.icacheRoom (s : State) (line : Nat) : State :=
  let set := (s.core.icache.map (·.1)).filter fun l => sameSet 2 64 l line
  if set.contains line ∨ set.length < 8 then s
  else
    let (n, s) := s.pick set.length
    { s with core := { s.core with icache := eraseAt s.core.icache ((set[n]?).getD 0) } }

/-- Fill a line of the instruction cache (R149, R213). -/
def State.fillLine (s : State) (line : Nat) : State :=
  let (v, s) := (s.icacheRoom line).lineAt line 8
  { s with core := { s.core with icache := insertAt s.core.icache line (BitVec.ofNat 2048 v) } }

/-- Fetch the word at an address through the instruction cache. -/
def State.fetch (s : State) (a : Nat) : Nat × State :=
  let s := if (lookup s.core.icache (a / 256)).isSome then s else s.fillLine (a / 256)
  (((lookup s.core.icache (a / 256)).getD 0).toNat / 2 ^ (8 * (a % 256)) % 2 ^ 32, s)

/-- Fetch `n` words from an address. -/
def State.fetchAll (s : State) (a : Nat) : Nat → List Nat × State
  | 0 => ([], s)
  | n + 1 =>
    let (w, s) := s.fetch a
    let (r, s) := State.fetchAll s (a + 4) n
    (w :: r, s)

/-! ### Framing and decoding -/

/-- A decoded word in its place. -/
structure Placed where (i : Instr) (w : Nat) (at_ : Word) (slot : Nat)
  deriving DecidableEq, Repr

/-- A decoded bundle, or portable word, and the address after it. -/
structure Bundle where (words : List Placed) (next : Word)
  deriving DecidableEq, Repr

/-- A trap of steps 1 to 3 (R52). -/
def encTrap (cause sub slot word addr : Nat) : TrapRec := TrapRec.plain cause sub slot (BitVec.ofNat 64 word) (BitVec.ofNat 64 addr)


/-- The words of a bundle decoded in slot order (R52 step 3). -/
def decodeAll (ws : List (Slot × Nat)) (a : Nat) : Except TrapRec (List Placed) :=
  match ws with
  | [] => .ok []
  | (sl, w) :: r =>
    match decode w with
    | .error e => .error (encTrap 1 e.sub sl.num w 0)
    | .ok i => match decodeAll r (a + 4) with
      | .error t => .error t
      | .ok l => .ok (⟨i, w, BitVec.ofNat 64 a, sl.num⟩ :: l)

/-- The word is a YIELD (R38): a well-formed one, so that a word with an illegal field in such a bundle is an illegal instruction (R52; log 115). -/
def isYield (w : Nat) : Bool := match decode w with | .ok (.yield _) => true | _ => false

/-- The first offending word after the header `h`, in word order (R38, R394): a header, a word of another slot, or a YIELD without SAFE, for
which the record holds the header. -/
def misplaced (h : Nat) (safe : Bool) (ws : List (Slot × Nat)) : Option TrapRec :=
  match ws with
  | [] => none
  | (sl, w) :: r =>
    if opOf w = 0x3F then some (encTrap 2 2 sl.num w 0)
    else if (slotOf (opOf w)).any (· != sl) then some (encTrap 2 3 sl.num w 0)
    else if isYield w && !safe then some (encTrap 2 5 sl.num h 0)
    else misplaced h safe r

/-- A native bundle: fetch bound over every word, then framing, then each word (R37, R38, R52). `first` asks for RSTART (R40). Where one header has both a
nonzero reserved bit and RSTART clear, SUB 1 is reported before SUB 6: the spec orders words, not two offences of one header (log 114). -/
def State.nativeBundle (s : State) (c : Fin 5) (a : Nat) (first : Bool) : Except TrapRec Bundle × State :=
  if !s.fetchable c a then (.error (encTrap 3 0 7 0 a), s)
  else
    let (h, s) := s.fetch a
    if opOf h ≠ 0x3F then (.error (encTrap 2 4 7 h 0), s)
    else
      let hd := decodeHeader h
      let n := hd.slots.length
      match (List.range n).find? fun k => !s.fetchable c (a + 4 + 4 * k) with
      | some k => (.error (encTrap 3 (k + 1) 7 h (a + 4 + 4 * k)), s)
      | none =>
        let (l, s) := s.fetchAll (a + 4) n
        let ws := hd.slots.zip l
        if !headerClean h then (.error (encTrap 2 1 7 h 0), s)
        else if first && !hd.rstart then (.error (encTrap 2 6 7 h 0), s)
        else match misplaced h hd.safe ws with
          | some t => (.error t, s)
          | none => match decodeAll ws (a + 4) with
            | .error t => (.error t, s)
            | .ok ps => (.ok ⟨ps, BitVec.ofNat 64 (a + 4 + 4 * n)⟩, s)

/-- The address of the next bundle in memory after the one at `a`, which failed (R64): its header tells its length. Where the header lies outside the window,
or the word found is no header, nothing tells a length, and it is the next word (log 116). -/
def State.bundleAfter (s : State) (c : Fin 5) (a : Word) : Word × State :=
  if !s.fetchable c a.toNat then (a + 4, s)
  else
    let (h, s) := s.fetch a.toNat
    (if opOf h = 0x3F then a + 4 + 4 * BitVec.ofNat 64 (decodeHeader h).slots.length else a + 4, s)

/-- A portable word (R41). -/
def State.portableWord (s : State) (c : Fin 5) (a : Nat) : Except TrapRec Bundle × State :=
  if !s.fetchable c a then (.error (encTrap 3 0 7 0 a), s)
  else
    let (w, s) := s.fetch a
    match decode w with
    | .error e => (.error (encTrap 1 e.sub (match slotOf (opOf w) with | some sl => sl.num | none => 7) w 0), s)
    | .ok i => (.ok ⟨[⟨i, w, BitVec.ofNat 64 a, match slotOf (opOf w) with | some sl => sl.num | none => 7⟩], BitVec.ofNat 64 (a + 4)⟩, s)

/-! ### Loops -/

/-- The innermost active level (R90). -/
def innermost (l : Vector LoopLevel 2) : Option (Fin 2) := if (l.get 1).act then some 1 else if (l.get 0).act then some 0 else none

/-- The loop step after a bundle that begins at `a` (R90): the levels, and the next address if a START is taken. -/
def loopStep (l : Vector LoopLevel 2) (a : Word) : Nat → Vector LoopLevel 2 × Option Word
  | 0 => (l, none)
  | n + 1 =>
    match innermost l with
    | none => (l, none)
    | some k =>
      let v := l.get k
      if v.fin ≠ a then (l, none)
      else if 1 < v.rem then (l.set k.val { v with rem := v.rem - 1 } k.isLt, some v.start)
      else loopStep (l.set k.val LoopLevel.idle k.isLt) a n

end Sys2Proof.Machine
end

