-- ==== Sys2Proof/Machine/Control.lean ====
section
/-! DEFINITION. Control instructions: the traps of XSYS (R72), ERET (R66), the closes of a region (R73, R106), transfers (R87,
R88) and hardware loops (R89, R90), and the empty bundle (R37). -/

namespace Sys2Proof.Machine

/-- The software traps (R72): SUB is the code, SLOT 0, TRAP_WORD the word. -/
def State.softRec (s : State) (cause : Nat) (code : BitVec 15) : TrapRec :=
  TrapRec.plain cause code.toNat 0 (s.issue.word.setWidth 64) 0
def State.softTrap (s : State) (cause : Nat) (code : BitVec 15) : State := s.takeTrap (s.softRec cause code)

/-- Begin the close of the region of the context in issue (R106). -/
def State.closeRegion (s : State) (scope : Scope) (after : After) : State :=
  (s.modMe fun x => { x with waits := x.waits ++ [.close scope after] }).pump s.core.cur 4

/-- The address of the bundle that issues after the one in issue: START where the loop step takes it (R88, R90). -/
def State.following (s : State) : Word := (loopStep s.me.levels s.issue.addr 2).2.getD s.issue.next

/-- Where a native bundle at `a` ends, from its header; none where it raises the illegal-bundle or the fetch-bound trap. -/
def State.bundleEnd (s : State) (a : Word) : Option Word × State :=
  match s.nativeBundle s.core.cur a.toNat false with
  | (.ok b, s) => (some b.next, s)
  | (.error t, s) =>
    if t.cause = 1 then
      let (h, s) := s.fetch a.toNat
      (some (a + 4 + 4 * BitVec.ofNat 64 (decodeHeader h).slots.length), s)
    else (none, s)

/-- The link value of a call (R87): a free value where the delay bundle traps by its framing. -/
def State.linkValue (s : State) : Word × State :=
  if s.me.nat then
    match s.bundleEnd s.following with
    | (some a, s) => (a, s)
    | (none, s) =>
      let (n, s) := s.stamp
      (Config.freeWord n 0, s)
  else (s.issue.at_ + 4, s)

/-- A performed transfer stands in its latch (R58, R87). -/
def State.transfer (s : State) (target : Word) (ret : Bool) : State :=
  let t : Xfer := ⟨target &&& ~~~3, ret⟩
  s.modMe fun x => if x.hm then { x with hxfer := some t } else { x with xfer := some t }

/-- The target of a displacement in words (R87). -/
def dispTarget {n : Nat} (at_ : Word) (disp : BitVec n) : Word := at_ + 4 * disp.signExtend 64

/-- Put a loop level, of the strand or of the handler (R89). -/
def State.setLevel (s : State) (k : Fin 2) (l : LoopLevel) : State :=
  s.modMe fun x => if x.hm then { x with hloops := x.hloops.set k.val l k.isLt } else { x with loops := x.loops.set k.val l k.isLt }

/-- The word after a performed LOOP with count 0: after the bundle or word at END; END itself where no header stands there, to
raise the trap (R90). -/
def State.skipLoop (s : State) (fin : Word) : State :=
  let go (s : State) (a : Word) : State := { s with issue := { s.issue with next := a } }
  if !s.me.nat then go s (fin + 4)
  else if !s.fetchable s.core.cur fin.toNat then go s fin
  else
    let (h, s) := s.fetch fin.toNat
    go s (if opOf h = 0x3F then fin + 4 + 4 * BitVec.ofNat 64 (decodeHeader h).slots.length else fin)

/-! ### Meanings -/

/-- BRK (R72): the precise trap of CAUSE 6. -/
def execBrk (g : BitVec 4) (n : BitVec 15) (s : State) : Out := perform (.brk g n) g s fun s => some (s.softTrap 6 n)
/-- TRAP (R72): the precise trap of CAUSE 7. -/
def execTrap (g : BitVec 4) (n : BitVec 15) (s : State) : Out := perform (.trap g n) g s fun s => some (s.softTrap 7 n)
/-- SVC (R72): the precise trap of CAUSE 8. -/
def execSvc (g : BitVec 4) (n : BitVec 15) (s : State) : Out := perform (.svc g n) g s fun s => some (s.softTrap 8 n)
/-- HCALL (R72): the precise trap of CAUSE 9, held for the service context (R67). -/
def execHcall (g : BitVec 4) (n : BitVec 15) (s : State) : Out := perform (.hcall g n) g s fun s => some (s.softTrap 9 n)

/-- ERET (R66): the handler is held until every result of it has landed, then issue returns to TRAP_PC. -/
def execEret (g : BitVec 4) (s : State) : Out :=
  perform (.eret g) g s fun s =>
    some (if s.me.waits.isEmpty && s.me.allReady then s.endHandler s.core.cur else s.modMe fun x => { x with waits := x.waits ++ [.eret] })

/-- YIELD (R73): the close at core scope, then the next iteration or the epilogue (R22). -/
def execYield (g : BitVec 4) (s : State) : Out := perform (.yield g) g s fun s => some (s.closeRegion .core .yield)

/-- SUSP (R73): the close at core scope; the record's RPC is the address after SUSP; the strand is evicted. -/
def execSusp (g : BitVec 4) (s : State) : Out :=
  perform (.susp g) g s fun s => some ((s.modMe fun x => { x with pc := s.issue.next }).closeRegion .core .susp)

/-- DONE (R28, R73): the close at die scope, the join of every forked operation, the end of the strand. -/
def execDone (g : BitVec 4) (s : State) : Out := perform (.done g) g s fun s => some (s.closeRegion .die .done)

/-- PHASE (R106): the close at its scope. -/
def execPhase (g : BitVec 4) (scope : Scope) (s : State) : Out := perform (.phase g scope) g s fun s => some (s.closeRegion scope .phase)

/-- BR (R87): a transfer by a displacement in words from the BR word. -/
def execBr (g : BitVec 4) (disp : BitVec 22) (s : State) : Out :=
  perform (.br g disp) g s fun s => some (s.transfer (dispTarget s.issue.at_ disp) false)

/-- CALL (R87): the transfer of BR with the link in x31. -/
def execCall (g : BitVec 4) (disp : BitVec 22) (s : State) : Out :=
  perform (.call g disp) g s fun s =>
    let (link, s) := s.linkValue
    some ((s.land (.x (bank s.me.hm 31) link) 1).transfer (dispTarget s.issue.at_ disp) false)

/-- JMPR (R87): a transfer to the address in x[a]. -/
def execJmpr (f : Reg1) (s : State) : Out :=
  perform (.jmpr f) f.g s fun s => do
    let (a, s) ← s.readX f.i f.a
    some (s.transfer a false)

/-- CALLR (R87): a transfer to the address in x[a] with the link in x[d]. -/
def execCallr (f : Reg2) (s : State) : Out :=
  perform (.callr f) f.g s fun s => do
    let (a, s) ← s.readX f.i f.a
    let (link, s) := s.linkValue
    let s ← s.writeX f.i f.d link 1
    some (s.transfer a false)

/-- RET (R87): as JMPR, marked as a return. -/
def execRet (f : Reg1) (s : State) : Out :=
  perform (.ret f) f.g s fun s => do
    let (a, s) ← s.readX f.i f.a
    some (s.transfer a true)

/-- LOOP (R90): the count is read at issue; with 0 the body is skipped, else the lowest free level is activated. -/
def execLoop (g : BitVec 4) (a : BitVec 5) (disp : BitVec 17) (s : State) : Out :=
  perform (.loop g a disp) g s fun s => do
    let (v, s) ← s.readX false a
    let c := capAt (2 ^ 32 - 1) v.toNat
    let fin := s.issue.at_ + 4 * disp.setWidth 64
    if c = 0 then some (s.skipLoop fin)
    else
      let k : Fin 2 := if (s.me.levels.get 0).act then 1 else 0
      some (s.setLevel k ⟨true, s.issue.next, fin, c⟩)

/-- BNOP (R37): an empty bundle; the context cycle that it takes passes at its commit. -/
def execBnop (rstart safe : Bool) (s : State) : Out := perform (.bnop rstart safe) 0 s fun s => some s

end Sys2Proof.Machine
end

