-- ==== Sys2Proof/Machine/Float.lean ====
section
/-! DEFINITION. Number formats and arithmetic (R112 to R130): formats, exact dyadic values, rounding, conversions, exact-sum
cells, the group sums of tiles, Reel-10. Every real is held exactly as a sign, a natural number and a power of two. -/

namespace Sys2Proof.Machine

/-! ### Formats (R113) -/

/-- A floating-point format: widths of exponent and significand, bias, greatest finite encoding, infinity, canonical NaN. -/
structure FloatFmt where (eb sb bias top : Nat) (inf nan : Option Nat)
  deriving DecidableEq, Repr

def fp32 : FloatFmt := ⟨8, 23, 127, 0x7F7FFFFF, some 0x7F800000, some 0x7FC00000⟩
def fp16 : FloatFmt := ⟨5, 10, 15, 0x7BFF, some 0x7C00, some 0x7E00⟩
def bf16 : FloatFmt := ⟨8, 7, 127, 0x7F7F, some 0x7F80, some 0x7FC0⟩
def e4m3 : FloatFmt := ⟨4, 3, 7, 0x7E, none, some 0x7F⟩
def e5m2 : FloatFmt := ⟨5, 2, 15, 0x7B, some 0x7C, some 0x7E⟩
def e2m1 : FloatFmt := ⟨2, 1, 1, 7, none, none⟩

def FloatFmt.width (f : FloatFmt) : Nat := f.eb + f.sb + 1
/-- The exponent of the least significant bit of a subnormal. -/
def FloatFmt.least (f : FloatFmt) : Int := 1 - (f.bias : Int) - (f.sb : Int)
/-- The encoding with a sign. -/
def FloatFmt.sign (f : FloatFmt) (neg : Bool) (c : Nat) : Nat := c + b2n neg * 2 ^ (f.width - 1)
/-- The canonical NaN; E2M1 has none. -/
def FloatFmt.quiet (f : FloatFmt) : Nat := f.nan.getD 0

/-- A number: a NaN, signalling or not (R116), an infinity, or the exact value m × 2^e. -/
inductive FNum | nan (snan : Bool) | inf (neg : Bool) | fin (neg : Bool) (m : Nat) (e : Int)
  deriving DecidableEq, Repr

/-- The value of an encoding (R113, R116). -/
def FloatFmt.value (f : FloatFmt) (c : Nat) : FNum :=
  let neg := c.testBit (f.width - 1)
  let mag := c % 2 ^ (f.width - 1)
  let ex := mag / 2 ^ f.sb
  let fr := mag % 2 ^ f.sb
  let fin := if ex = 0 then FNum.fin neg fr f.least else FNum.fin neg (fr + 2 ^ f.sb) (f.least + (ex : Int) - 1)
  match f.inf with
  | some i => if mag = i then .inf neg else if i < mag then .nan (!fr.testBit (f.sb - 1)) else fin
  | none => if f.nan = some mag then .nan false else fin

/-- The value of an E8M0 encoding (R114). -/
def e8m0Value (c : Nat) : FNum := if c % 256 = 255 then .nan false else .fin false 1 ((c % 256 : Nat) - (127 : Int))

/-- The value of an integer. -/
def FNum.ofInt (i : Int) : FNum := .fin (decide (i < 0)) i.natAbs 0

def FNum.isZero (x : FNum) : Bool := match x with | .fin _ 0 _ => true | _ => false
def FNum.isNan (x : FNum) : Bool := match x with | .nan _ => true | _ => false
def FNum.signals (x : FNum) : Bool := match x with | .nan s => s | _ => false
def FNum.isInf (x : FNum) : Bool := match x with | .inf _ => true | _ => false
def FNum.isNeg (x : FNum) : Bool := match x with | .nan _ => false | .inf n => n | .fin n _ _ => n
def FNum.neg (x : FNum) : FNum := match x with | .nan s => .nan s | .inf n => .inf (!n) | .fin n m e => .fin (!n) m e
def FNum.abs (x : FNum) : FNum := match x with | .nan s => .nan s | .inf _ => .inf false | .fin _ m e => .fin false m e
/-- x × 2^n. -/
def FNum.scale (x : FNum) (n : Int) : FNum := match x with | .fin s m e => .fin s m (e + n) | x => x

/-! ### Rounding (R119, R120) -/

/-- A rounding mode with the random draw of SR: rho of w bits. -/
structure Round where (mode : RMode) (w rho : Nat)
  deriving DecidableEq, Repr
def rne : Round := ⟨.rne, 0, 0⟩

/-- Whether the magnitude lo + rem/den, 0 < rem < den, rounds to lo + 1. `odd` says that lo is odd. -/
def Round.up (r : Round) (neg odd : Bool) (rem den : Nat) : Bool :=
  match r.mode with
  | .rne => decide (den < 2 * rem) || (den == 2 * rem && odd)
  | .rz => false
  | .ru => !neg
  | .rd => neg
  | .sr => decide (den * 2 ^ r.w ≤ rem * 2 ^ r.w + r.rho * den)

/-- m × 2^e in units of 2^q, rounded: the units and whether they are inexact. -/
def Round.units (r : Round) (neg : Bool) (m : Nat) (e q : Int) : Nat × Bool :=
  if q ≤ e then (m * 2 ^ (e - q).toNat, false)
  else
    let den := 2 ^ (q - e).toNat
    let lo := m / den
    let rem := m % den
    if rem = 0 then (lo, false) else (lo + b2n (r.up neg (lo % 2 == 1) rem den), true)

/-- The exponent of the leading bit of m × 2^e, m ≠ 0. -/
def leadExp (m : Nat) (e : Int) : Int := (Nat.log2 m : Int) + e

/-- The result is tiny (R118): rounded with an unbounded exponent it lies below the least normal number. -/
def FloatFmt.tiny (f : FloatFmt) (r : Round) (neg : Bool) (m : Nat) (e : Int) : Bool :=
  let lead := leadExp m e
  let lim : Int := 1 - (f.bias : Int)
  if lim ≤ lead then false
  else
    let q := lead - (f.sb : Int)
    let n := (r.units neg m e q).1
    decide (leadExp n q < lim)

/-- What a magnitude beyond the greatest finite one becomes (R121): `s` saturates. -/
def FloatFmt.overflow (f : FloatFmt) (r : Round) (s neg : Bool) : Nat :=
  match f.inf with
  | some i =>
    let toMax := s || (match r.mode with | .rne => false | .sr => false | .rz => true | .ru => neg | .rd => !neg)
    f.sign neg (if toMax then f.top else i)
  | none => if s || f.nan.isNone then f.sign neg f.top else f.quiet

/-- round(m × 2^e, F, mode) with its flags (R118, R119, R121). -/
def FloatFmt.round (f : FloatFmt) (r : Round) (s neg : Bool) (m : Nat) (e : Int) : Nat × FFlags :=
  if m = 0 then (f.sign neg 0, FFlags.none)
  else
    let q := max (leadExp m e - (f.sb : Int)) f.least
    let (n, inexact) := r.units neg m e q
    let c := (q - f.least).toNat * 2 ^ f.sb + n
    if f.top < c then (f.overflow r s neg, ⟨false, false, true, false, true⟩)
    else (f.sign neg c, ⟨false, false, false, inexact && f.tiny r neg m e, inexact⟩)

/-- The flag NV alone. -/
def FFlags.invalid : FFlags := ⟨true, false, false, false, false⟩
def FFlags.divZero : FFlags := ⟨false, true, false, false, false⟩
def flagIf (b : Bool) (f : FFlags) : FFlags := if b then f else FFlags.none

/-- Any number to a floating-point format (R121). -/
def FloatFmt.convert (f : FloatFmt) (r : Round) (s : Bool) (x : FNum) : Nat × FFlags :=
  match x with
  | .nan sg => match f.nan with
    | some n => (n, flagIf sg FFlags.invalid)
    | none => (0, FFlags.invalid)
  | .inf neg => match f.inf with
    | some i => if s then (f.sign neg f.top, FFlags.invalid) else (f.sign neg i, FFlags.none)
    | none => (if s || f.nan.isNone then f.sign neg f.top else f.quiet, FFlags.invalid)
  | .fin neg m e => f.round r s neg m e

/-- Any number to E8M0 (R119, R121); past 2^127 the next value is 2^128 (log 29). -/
def toE8m0 (r : Round) (s : Bool) (x : FNum) : Nat × FFlags :=
  match x with
  | .nan sg => (255, flagIf sg FFlags.invalid)
  | .inf neg => (if neg = false ∧ s = true then 254 else 255, FFlags.invalid)
  | .fin neg m e =>
    if neg = true ∨ m = 0 then (255, FFlags.invalid)
    else
      let k := leadExp m e
      if k < -127 then (0, ⟨false, false, false, true, true⟩)
      else
        let rem := m - 2 ^ Nat.log2 m
        let c := (k + 127).toNat
        let c' := if rem = 0 then c else c + b2n (r.up false (c % 2 == 1) rem (2 ^ Nat.log2 m))
        if 254 < c' then (if s then 254 else 255, ⟨false, false, true, false, true⟩)
        else (c', ⟨false, false, false, false, rem != 0⟩)

/-- The least and greatest values of an integer type of `w` bits (R112). -/
def intLeast (w : Nat) (sg : Bool) : Int := if sg then -(2 ^ (w - 1) : Nat) else 0
def intTop (w : Nat) (sg : Bool) : Int := if sg then (2 ^ (w - 1) : Nat) - 1 else (2 ^ w : Nat) - 1
/-- sat (R112). -/
def clamp (w : Nat) (sg : Bool) (i : Int) : Int := max (intLeast w sg) (min i (intTop w sg))

/-- Any number to an integer type (R121). -/
def toInteger (w : Nat) (sg : Bool) (r : Round) (x : FNum) : Nat × FFlags :=
  match x with
  | .nan _ => (0, FFlags.invalid)
  | .inf neg => (patternOf w (if neg then intLeast w sg else intTop w sg), FFlags.invalid)
  | .fin neg m e =>
    let (n, inexact) := r.units neg m e 0
    let i : Int := if neg then -(n : Int) else n
    let c := clamp w sg i
    (patternOf w c, if c = i then ⟨false, false, false, false, inexact⟩ else FFlags.invalid)

/-! ### Exact sums and products -/

/-- A signed multiple of a power of two. -/
structure Exact where (m : Int) (e : Int)
  deriving DecidableEq, Repr

def Exact.add (a b : Exact) : Exact :=
  if a.m = 0 then b else if b.m = 0 then a
  else if a.e ≤ b.e then ⟨a.m + b.m * (2 ^ (b.e - a.e).toNat : Nat), a.e⟩ else ⟨a.m * (2 ^ (a.e - b.e).toNat : Nat) + b.m, b.e⟩

def FNum.exact (x : FNum) : Exact := match x with | .fin neg m e => ⟨if neg then -(m : Int) else m, e⟩ | _ => ⟨0, 0⟩

/-- The exact product; the flag says 0 × inf (R116). -/
def FNum.mul (a b : FNum) : FNum × Bool :=
  match a, b with
  | .nan s, .nan t => (.nan (s || t), false)
  | .nan s, _ => (.nan s, false)
  | _, .nan t => (.nan t, false)
  | .inf n, .inf k => (.inf (n != k), false)
  | .inf n, .fin k m _ => if m = 0 then (.nan false, true) else (.inf (n != k), false)
  | .fin n m _, .inf k => if m = 0 then (.nan false, true) else (.inf (n != k), false)
  | .fin n m e, .fin k m' e' => (.fin (n != k) (m * m') (e + e'), false)

/-- The exact sum of some addends (R116, R117): the flag says opposing infinities; zero is negative only when every addend is. -/
def sumNums (l : List FNum) : FNum × Bool :=
  if l.any FNum.isNan then (.nan (l.any FNum.signals), false)
  else
    let pos := l.any fun x => x.isInf && !x.isNeg
    let neg := l.any fun x => x.isInf && x.isNeg
    if pos && neg then (.nan false, true)
    else if pos || neg then (.inf neg, false)
    else
      let d := l.foldl (fun (d : Exact) (x : FNum) => d.add x.exact) ⟨0, 0⟩
      if d.m = 0 then (.fin (l.all fun x => x.isZero && x.isNeg) 0 0, false)
      else (.fin (decide (d.m < 0)) d.m.natAbs d.e, false)

/-- The result of an operation in a format, rounded to nearest even (R155): `nv` says an invalid operation, `sg` a signalling
operand. -/
def FloatFmt.finish (f : FloatFmt) (x : FNum) (nv : Bool) : Nat × FFlags :=
  let (c, g) := f.convert rne false x
  (c, g.join (flagIf nv FFlags.invalid))

/-! ### Lane operations of floating point (R155, R156) -/

def fAdd (f : FloatFmt) (a b : Nat) : Nat × FFlags :=
  let (x, nv) := sumNums [f.value a, f.value b]
  f.finish x nv

def fSub (f : FloatFmt) (a b : Nat) : Nat × FFlags :=
  let (x, nv) := sumNums [f.value a, (f.value b).neg]
  f.finish x nv

def fAbsd (f : FloatFmt) (a b : Nat) : Nat × FFlags :=
  let (x, nv) := sumNums [f.value a, (f.value b).neg]
  f.finish x.abs nv

def fMul (f : FloatFmt) (a b : Nat) : Nat × FFlags :=
  let (x, nv) := (f.value a).mul (f.value b)
  f.finish x nv

/-- A × B + D with one rounding; 0 × inf is invalid even where D is NaN. -/
def fFma (f : FloatFmt) (a b d : Nat) : Nat × FFlags :=
  let (p, nv) := (f.value a).mul (f.value b)
  let (x, nv') := sumNums [p, f.value d]
  f.finish x (nv || nv')

/-- The order of MIN and MAX, −0 below +0 (R117). -/
def fKey (f : FloatFmt) (c : Nat) : Int :=
  let mag := c % 2 ^ (f.width - 1)
  if c.testBit (f.width - 1) then -(mag : Int) - 1 else mag

/-- MIN and MAX (R117). -/
def fPick (f : FloatFmt) (great : Bool) (a b : Nat) : Nat × FFlags :=
  let x := f.value a
  let y := f.value b
  if x.isNan || y.isNan then (f.quiet, flagIf (x.signals || y.signals) FFlags.invalid)
  else (if (fKey f a < fKey f b) = great then b else a, FFlags.none)

/-- The quotient of exact numbers to 64 bits and a sticky bit. -/
def quotient (m : Nat) (e : Int) (m' : Nat) (e' : Int) : Nat × Int :=
  let k := 64 + Nat.log2 m'
  let q := m * 2 ^ k / m'
  (2 * q + b2n (m * 2 ^ k % m' != 0), e - e' - (k : Int) - 1)

def fDiv (f : FloatFmt) (a b : Nat) : Nat × FFlags :=
  match f.value a, f.value b with
  | .nan s, .nan t => (f.quiet, flagIf (s || t) FFlags.invalid)
  | .nan s, _ => (f.quiet, flagIf s FFlags.invalid)
  | _, .nan t => (f.quiet, flagIf t FFlags.invalid)
  | .inf _, .inf _ => (f.quiet, FFlags.invalid)
  | .inf n, .fin k _ _ => f.finish (.inf (n != k)) false
  | .fin n _ _, .inf k => f.finish (.fin (n != k) 0 0) false
  | .fin n m e, .fin k m' e' =>
    if m' = 0 then (if m = 0 then (f.quiet, FFlags.invalid) else ((f.finish (.inf (n != k)) false).1, FFlags.divZero))
    else
      let (q, x) := quotient m e m' e'
      f.finish (.fin (n != k) q x) false

/-- The integer square root below 2^n. -/
def isqrt (v : Nat) : Nat → Nat → Nat
  | 0, r => r
  | n + 1, r => if (r + 2 ^ n) * (r + 2 ^ n) ≤ v then isqrt v n (r + 2 ^ n) else isqrt v n r

def fSqrt (f : FloatFmt) (a : Nat) : Nat × FFlags :=
  match f.value a with
  | .nan s => (f.quiet, flagIf s FFlags.invalid)
  | .inf neg => if neg then (f.quiet, FFlags.invalid) else f.finish (.inf false) false
  | .fin neg m e =>
    if m = 0 then f.finish (.fin neg 0 0) false
    else if neg then (f.quiet, FFlags.invalid)
    else
      let odd := e % 2 == 1
      let v := m * 2 ^ (64 + b2n odd)
      let x := (e - (b2n odd : Int) - 64) / 2
      let r := isqrt v 50 0
      f.finish (.fin false (2 * r + b2n (r * r != v)) (x - 1)) false

/-! ### Exponential and logarithm: fixed point of 320 fraction bits (log 39) -/

/-- 1 in fixed point. -/
def fixOne : Nat := 2 ^ 320

/-- z + z³/3 + z⁵/5 + …: `p` is the next power, `z2` the square of z. -/
def atanhTerms (z2 : Nat) : Nat → Nat → Nat → Nat
  | 0, _, _ => 0
  | n + 1, p, k => p / k + atanhTerms z2 n (p * z2 / fixOne) (k + 2)

/-- The natural logarithm of num/den, 1 ≤ num/den ≤ 2, as 2 artanh((y − 1)/(y + 1)). -/
def fixLn (num den : Nat) : Nat :=
  let z := (num - den) * fixOne / (num + den)
  2 * atanhTerms (z * z / fixOne) 105 z 1

/-- ln 2. -/
def fixLn2 : Nat := fixLn 2 1

/-- 1 + x + x²/2 + …: `t` is the next term. -/
def expTerms (x : Nat) : Nat → Nat → Nat → Nat
  | 0, _, _ => 0
  | n + 1, t, k => t + expTerms x n (t * x / fixOne / k) (k + 1)

/-- 2^y for a fraction y in [0, 1). -/
def fixExp2 (y : Nat) : Nat :=
  let x := y * fixLn2 / fixOne
  expTerms x 80 fixOne 1

/-- VEXP2 (R156): a power of two where A is an integer (R119). Beyond ±4096 every format overflows or underflows. -/
def fExp2 (f : FloatFmt) (a : Nat) : Nat × FFlags :=
  match f.value a with
  | .nan s => (f.quiet, flagIf s FFlags.invalid)
  | .inf neg => f.finish (if neg then .fin false 0 0 else .inf false) false
  | .fin neg m e =>
    if m = 0 then f.finish (.fin false 1 0) false
    else if 12 ≤ leadExp m e then f.finish (.fin false 1 (if neg then -4096 else 4096)) false
    else
      -- A in units of 2^-320; every encoding is a multiple of 2^-149
      let i : Int := if neg then -((m * 2 ^ (e + 320).toNat : Nat) : Int) else (m * 2 ^ (e + 320).toNat : Nat)
      let n := i / (fixOne : Int)
      let y := (i % (fixOne : Int)).toNat
      if y = 0 then f.finish (.fin false 1 n) false
      else f.finish (.fin false (2 * fixExp2 y + 1) (n - 321)) false

/-- VLOG2 (R156): an integer where A is a power of two (R119). -/
def fLog2 (f : FloatFmt) (a : Nat) : Nat × FFlags :=
  match f.value a with
  | .nan s => (f.quiet, flagIf s FFlags.invalid)
  | .inf neg => if neg then (f.quiet, FFlags.invalid) else f.finish (.inf false) false
  | .fin neg m e =>
    if m = 0 then ((f.finish (.inf true) false).1, FFlags.divZero)
    else if neg then (f.quiet, FFlags.invalid)
    else
      let lead := leadExp m e
      let one := 2 ^ Nat.log2 m
      if m = one then f.finish (FNum.ofInt lead) false
      else
        let t : Int := lead * (fixOne : Int) + (fixLn m one * fixOne / fixLn2 : Nat)
        f.finish (.fin (decide (t < 0)) (2 * t.natAbs + 1) (-321)) false

/-- VSCALE (R156): beyond ±4096 every result is the same. -/
def fScale (f : FloatFmt) (a : Nat) (n : Int) : Nat × FFlags :=
  f.finish ((f.value a).scale (max (-4096) (min n 4096))) false

/-- VNEG and VABS of a float (R156): no flags. -/
def fNeg (f : FloatFmt) (a : Nat) : Nat := if (f.value a).isNan then f.quiet else a ^^^ 2 ^ (f.width - 1)
def fAbs (f : FloatFmt) (a : Nat) : Nat := if (f.value a).isNan then f.quiet else a % 2 ^ (f.width - 1)

/-- The value of IEEE comparisons: equal zeros. -/
def fOrd (f : FloatFmt) (c : Nat) : Int :=
  let mag := c % 2 ^ (f.width - 1)
  if c.testBit (f.width - 1) then -(mag : Int) else mag

/-! ### Exact-sum cells (R122 to R124) -/

/-- A cell: the fixed-point sum, the states OVF, NINF, PINF, NAN, and the reserved bits, which no operation writes (log 42). -/
structure Cell where (fix : Int) (ovf ninf pinf nan : Bool) (rsv : Nat)
  deriving DecidableEq, Repr

/-- A cell read from its bits. -/
def Cell.of (b : Nat) : Cell :=
  let rsv := b % 2 ^ 512 / 2 ^ 484
  ⟨signedOf 480 (b % 2 ^ 480), b.testBit 483, b.testBit 482, b.testBit 481, b.testBit 480, rsv⟩

/-- The cell counts as one with NAN set: NAN, or a nonzero reserved bit (R122). -/
def Cell.isNan (c : Cell) : Bool := c.nan || c.rsv != 0

/-- The bits of a cell. -/
def Cell.bits (c : Cell) : Nat :=
  patternOf 480 c.fix + b2n c.nan * 2 ^ 480 + b2n c.pinf * 2 ^ 481 + b2n c.ninf * 2 ^ 482 + b2n c.ovf * 2 ^ 483 + c.rsv * 2 ^ 484

/-- Add to FIX with the overflow test and the wrap (R123); a cell with a nonzero reserved bit comes out with NAN set (R122; log 42). -/
def Cell.addFix (c : Cell) (d : Int) : Cell :=
  let t := c.fix + d
  let out := decide (t < -((2 ^ 479 : Nat) : Int) ∨ ((2 ^ 479 : Nat) : Int) ≤ t)
  { c with fix := signedOf 480 (patternOf 480 t), ovf := c.ovf || out, nan := c.isNan }

/-- xs_add_f32 (R123): every finite FP32 value is a multiple of 2^-149. -/
def Cell.addF32 (c : Cell) (v : Nat) : Cell :=
  match fp32.value v with
  | .nan _ => { c with nan := true }
  | .inf neg => if neg then { c with ninf := true, nan := c.isNan } else { c with pinf := true, nan := c.isNan }
  | .fin neg m e => c.addFix (if neg then -((m * 2 ^ (e + 149).toNat : Nat) : Int) else (m * 2 ^ (e + 149).toNat : Nat))

/-- xs_merge (R123). -/
def Cell.merge (c d : Cell) : Cell :=
  let r := c.addFix d.fix
  ⟨r.fix, r.ovf || d.ovf, c.ninf || d.ninf, c.pinf || d.pinf, c.isNan || d.isNan, c.rsv⟩

/-- xs_to_f32 (R124). -/
def Cell.toF32 (c : Cell) : Nat × FFlags :=
  if c.isNan || c.ovf || (c.pinf && c.ninf) then (fp32.quiet, flagIf (c.ovf || (c.pinf && c.ninf)) FFlags.invalid)
  else if c.pinf then fp32.finish (.inf false) false
  else if c.ninf then fp32.finish (.inf true) false
  else if c.fix = 0 then (0, FFlags.none)
  else fp32.round rne false (decide (c.fix < 0)) c.fix.natAbs (-149)

/-! ### Tile accumulation (R126, R127) -/

/-- One group of a float class: acc := round_rne(acc + 2^n × Σ a_k b_k), FP32. `bad` says that a scale is NaN. -/
def groupF (acc : Nat) (terms : List (FNum × FNum)) (n : Int) (bad : Bool) : Nat :=
  let ps := terms.map fun t => (t.1.mul t.2).1.scale n
  if bad then fp32.quiet else (fp32.finish (sumNums (fp32.value acc :: ps)).1 false).1

/-- One group of class I8: acc := sat(acc + Σ a_k b_k, i32). -/
def groupI (acc : Nat) (terms : List (Int × Int)) : Nat :=
  patternOf 32 (clamp 32 true (terms.foldl (fun t p => t + p.1 * p.2) (signedOf 32 acc)))

/-! ### Reel-10 (R130) -/

def reelA : List Nat := [7, 13, 9, 17, 5, 11, 19, 3, 15, 21]
def reelB : List Nat := [16, 8, 24, 12, 20, 4, 28, 10, 6, 14]

/-- The state of Reel-10. -/
structure Reel where (a b c d k0 k1 : Word32)
  deriving DecidableEq, Repr

/-- One round. -/
def Reel.round (r : Reel) (ra rb : Nat) : Reel :=
  let a := r.a + (r.b ^^^ r.k0)
  let d := (r.d ^^^ a).rotateLeft ra
  let c := r.c * 0x9E5C3A27 + d
  let b := (r.b ^^^ c).rotateLeft rb
  let a := a ^^^ r.k1
  ⟨b, c, d, a, r.k0 + 0x6A1FD593, r.k1 + 0xB3C72E0F⟩

/-- The four output words of a counter and key. -/
def reel10 (a b c d k0 k1 : Word32) : List Word32 :=
  let r := (reelA.zip reelB).foldl (fun (r : Reel) p => r.round p.1 p.2) ⟨a, b, c, d, k0, k1⟩
  [r.a ^^^ r.k0, r.b, r.c ^^^ r.k1, r.d]

end Sys2Proof.Machine
end

