-- ==== Sys2Proof/Machine/Copy.lean ====
section
/-! DEFINITION. Copy channels (R169 to R188): forks, rows, watermarks, faults, waits and repairs, and the ring steps of copies
(R142, R143, R177, R178). -/

namespace Sys2Proof.Machine

/-! ### Patterns (R171, R172) -/

def Chan.esize (x : Chan) : Nat := x.pat.getPat .esize
def Chan.n1 (x : Chan) : Nat := x.pat.getPat .n1
def Chan.n2 (x : Chan) : Nat := x.pat.getPat .n2
/-- The destination length of a row. -/
def Chan.dstLen (x : Chan) : Nat := match x.op with | .red .xsaddf => 16 * x.esize | _ => x.esize
/-- The inner step and the row within it. -/
def Chan.i2 (x : Chan) (r : Nat) : Nat := r / x.n1
def Chan.i1 (x : Chan) (r : Nat) : Nat := r % x.n1
/-- src and dst of a row. -/
def Chan.src (x : Chan) (r : Nat) : Nat :=
  ((x.ca.toNat + x.i2 r * signedOf 32 (x.pat.getPat .ss2) + x.i1 r * signedOf 32 (x.pat.getPat .ss1)) % (2 ^ 64 : Nat)).toNat
def Chan.dst (x : Chan) (r : Nat) : Nat := (x.cb.toNat + x.i2 r * x.pat.getPat .ds2 + x.i1 r * x.pat.getPat .ds1) % 2 ^ 64
/-- FLUSH of OPT. -/
def Chan.flush (x : Chan) : Bool := (x.pat.getPat .opt).testBit 0
/-- Source bytes that one destination byte's word takes: their ratio (R172). -/
def Chan.ratio (x : Chan) : Nat := x.dstLen / x.esize

/-- The bounds of the source and of the destination in memory, before they wrap. -/
def Chan.srcBounds (x : Chan) : Int × Int :=
  let far (v : Nat) (n : Nat) : Int := ((n : Int) - 1) * signedOf 32 v
  let a := far (x.pat.getPat .ss1) x.n1
  let b := far (x.pat.getPat .ss2) x.n2
  ((x.ca.toNat : Int) + min 0 a + min 0 b, (x.ca.toNat : Int) + max 0 a + max 0 b + x.esize)
def Chan.dstBounds (x : Chan) : Int × Int :=
  (x.cb.toNat, (x.cb.toNat + (x.n2 - 1) * x.pat.getPat .ds2 + (x.n1 - 1) * x.pat.getPat .ds1 + x.dstLen : Nat))

/-- Bounds that lie in the Mirror frame's addresses (R206). -/
def inFrame (b : Int × Int) : Bool := decide (0xFFF * 2 ^ 52 ≤ b.1 ∧ b.2 ≤ 2 ^ 64)

/-- The word of a CPYR operation in source and destination (R175). -/
def RedOp.word : RedOp → Nat
  | .add32 | .min32 | .max32 | .minn32 | .maxn32 | .and | .or | .fmin | .fmax | .xsaddf => 4
  | .add64 | .min64 | .max64 | .minn64 | .maxn64 => 8
  | .xsmerge => 64
def RedOp.dstWord : RedOp → Nat | .xsaddf => 64 | o => RedOp.word o

/-- The destination is global memory; the scratchpad; a ring; the weight buffer (R170). -/
def ChanOp.toMem : ChanOp → Bool | .mm | .sm | .red _ | .drn => true | .mr | .ms | .subs | .wload | .zb32 => false
def ChanOp.toRing : ChanOp → Bool | .mr | .subs => true | .mm | .ms | .sm | .red _ | .drn | .wload | .zb32 => false
def ChanOp.isWload : ChanOp → Bool | .wload | .zb32 => true | .mm | .mr | .ms | .sm | .red _ | .subs | .drn => false

/-- The ranges and the order of destination rows (R171, R172), the words of CPYR (R175), the limits of WLOAD (R179). -/
def Chan.patternOk (x : Chan) (wbLen : Nat) : Bool :=
  let ok (v : Nat) : Bool := decide (1 ≤ v ∧ v ≤ 65536)
  let ds1 := x.pat.getPat .ds1
  let ds2 := x.pat.getPat .ds2
  let ss1 := x.pat.getPat .ss1
  let ss2 := x.pat.getPat .ss2
  ok x.esize && ok x.n1 && ok x.n2 && decide (x.pat.getPat .opt ≤ 1) &&
  (if x.op.toRing || x.op.isWload then true
   else (x.n1 == 1 || decide (x.dstLen ≤ ds1)) && (x.n2 == 1 || decide (ds1 * (x.n1 - 1) + x.dstLen ≤ ds2))) &&
  (match x.op with
   | .red o =>
     let al (k v : Nat) : Bool := v % k == 0
     x.esize % RedOp.word o == 0 && al (RedOp.word o) x.ca.toNat && al (RedOp.dstWord o) x.cb.toNat &&
       (x.n1 == 1 || (al (RedOp.word o) ss1 && al (RedOp.dstWord o) ds1)) && (x.n2 == 1 || (al (RedOp.word o) ss2 && al (RedOp.dstWord o) ds2))
   | .wload | .zb32 =>
     x.cb.toNat % 256 == 0 && x.esize % 32 == 0 && decide (x.cb.toNat + x.n1 * x.n2 * x.esize ≤ wbLen) &&
       (match x.op with | .zb32 => ss1 == 0 && ss2 == 0 | _ => true)
   | _ => true)

/-! ### The watermark (R170) -/

/-- The source of some row may overlap the destination of another (R184). -/
def Chan.mayOverlap (x : Chan) : Bool :=
  let (a, b) := x.srcBounds
  let (c, d) := x.dstBounds
  (x.op == .mm || (match x.op with | .red _ => true | _ => false)) && decide (1 < x.rows) && (decide (a < d ∧ c < b) || decide (a < 0 ∨ 2 ^ 64 < b ∨ 2 ^ 64 < d))

/-- The destination bytes of a row whose value is undefined: those that lie in the source of another row of the operation, or whose own source lies
in the destination of another (R184). -/
def Chan.blurred (x : Chan) (row : Nat) : List Nat :=
  if !x.mayOverlap then []
  else
    let within (a b n : Nat) : Bool := decide ((a + 2 ^ 64 - b) % 2 ^ 64 < n)
    let others := (List.range x.rows).filter (· != row)
    (List.range x.dstLen).filter fun j => others.any fun r =>
      within ((x.dst row + j) % 2 ^ 64) (x.src r) x.esize || within ((x.src row + j / x.ratio) % 2 ^ 64) (x.dst r) x.dstLen

/-- WM for a prefix of `k` rows. -/
def Chan.wmAt (x : Chan) (k : Nat) : Word :=
  if x.op.toRing then BitVec.ofNat 64 (k / x.n1)
  else if k = 0 then x.cb
  else if x.op.isWload then x.cb + BitVec.ofNat 64 (k * x.esize)
  else BitVec.ofNat 64 (x.dst (k - 1) + x.dstLen)

/-- Move the prefix over complete rows. -/
def advance (done : List Nat) (k : Nat) : Nat → Nat
  | 0 => k
  | n + 1 => if done.contains k then advance done (k + 1) n else k

/-- A row is complete: WM follows the prefix; after the last row the channel is idle. -/
def Chan.finishRow (x : Chan) (r : Nat) : Chan :=
  if x.rowDone r then x
  else
    let done := r :: x.done
    let k := advance done x.complete done.length
    let x := { x with complete := k, done := done.filter fun j => decide (k ≤ j), wm := x.wmAt k }
    if x.rows ≤ k then { x with state := .idle, asked := [], buf := [], patch := none, ctrl := none } else x

/-! ### Faults (R185, R186) -/

/-- Where a row fails: kind, source side, R245 order × 256 + SUB, address or window offset, byte of the row. -/
structure RowFault where (kind : Nat) (src : Bool) (bad : Nat) (addr : Word) (off : Nat)
  deriving DecidableEq, Repr

/-- The kind of a failed check (R185, R245). -/
def Bad.kind (b : Bad) : Nat := match b.order with | 0 => 5 | 1 | 2 | 8 | 10 => 2 | 9 => 4 | _ => 3

/-- The record of a copy fault (R186). -/
def Chan.trap (x : Chan) (ch : Fin 8) : TrapRec :=
  let w := x.word.toNat
  ⟨11, x.fault, 4, x.word.setWidth 64, x.faultAddr,
    #v[BitVec.ofNat 64 (bits w 7 4 * 2 ^ 12 + bits w 3 0 * 2 ^ 8 + x.patNo.toNat * 8 + ch.val),
       BitVec.ofNat 64 (x.i2 x.row * 2 ^ 32 + x.i1 x.row), BitVec.ofNat 64 x.off, x.ca, x.cb, 0, 0, 0]⟩

/-- A row faults: the channel stops there and the fault waits for the context handler (R185, R186). An uncorrectable error in a table
has halted the package (R263). -/
def State.copyFault (s : State) (c : Fin 4) (ch : Fin 8) (row : Nat) (f : RowFault) : State :=
  let x := s.chan c ch
  let x := { x with state := .stopped, fault := f.kind, row := row, off := f.off, bad := f.bad, faultAddr := f.addr, srcSide := f.src,
                    parked := false, patch := none, asked := [], buf := [] }
  let s := s.setChan c ch x
  if f.bad = 1 ∧ f.kind = 5 then s else s.recordAsync (strandCtx c) ⟨x.trap ch, none, s.tags, 0⟩

/-! ### Reading a row -/

/-- What reading finds: the bytes, a fault, or parts to ask of other dies. -/
inductive RowRead
  | bytes (l : List Byte)
  | fault (f : RowFault)
  | ask (l : List (Piece × BitVec 16 × BitVec 2))
  deriving DecidableEq, Repr

/-- Read pieces of memory for an engine at their homes (R183, R245); parts of other dies come from `got`, or are to be asked.
`n` is the length of the row. -/
def State.engRead (s : State) (w : Who) (k : AccKind) (n : Nat) (got : Option (List Byte)) (l : List Piece) : RowRead × State :=
  match l with
  | [] => (.bytes [], s)
  | p :: r =>
    let addr : Word := BitVec.ofNat 64 (p.sec * 32 + p.at_)
    let more (bs : List Byte) (s : State) : RowRead × State :=
      match State.engRead s w k n got r with
      | (.bytes m, s) => (.bytes (bs ++ m), s)
      | q => q
    match s.dieOf w.job (p.sec / 2 ^ 47) with
    | .bad => (.fault ⟨2, true, 1 * 256 + 4, addr, p.pos⟩, s)
    | .gone _ _ => (.fault ⟨9, true, 0, addr, p.pos⟩, s)
    | .other fid die =>
      match got with
      | some bs => more ((bs.drop p.pos).take p.len) s
      | none => match State.engRead s w k n got r with
        | (.bytes _, s) => (.ask [(p, fid, die)], s)
        | (.ask m, s) => (.ask ((p, fid, die) :: m), s)
        | q => q
    | .own =>
      match s.access w (p.sec % 2 ^ 47 * 32 + p.at_) k n with
      | (.error b, s) => (.fault ⟨b.kind, true, b.order * 256 + b.sub, addr, p.pos⟩, s)
      | (.ok (pa, leaf), s) =>
        let (v, poisoned, s) := s.homeRead pa leaf
        if poisoned then (.fault ⟨5, true, 0, addr, p.pos⟩, s)
        else match got, State.engRead s w k n got r with
          | _, (.bytes m, s) => (.bytes (bytesOf (v >>> (8 * p.at_)) p.len ++ m), s)
          | _, q => q

/-- Pieces of `n` bytes at an address. -/
def rowPieces (a n : Nat) : List Piece := pieces (n / 32 + 2) a n 0

/-- The first byte of a span of a context's window that is outside it, or mapped out (R174). -/
def State.windowEnd (s : State) (c : Fin 4) (o n : Nat) : Nat :=
  (findIdx n fun j => (s.window (strandCtx c) (o + j) 1).isNone).getD 0

/-- Read scratchpad bytes at offset `a`, which is byte `o` of a context's window; an uncorrectable byte fails (R150). -/
def State.spadSource (s : State) (o a n : Nat) : RowRead :=
  match (if s.core.spadLost a n then findIdx n fun j => s.core.spadLost (a + j) 1 else none) with
  | some j => .fault ⟨5, true, 0, BitVec.ofNat 64 (o + j), j⟩
  | none => .bytes (s.core.spadRead a n)

/-- Read scratchpad bytes of a context's window (R174, R186). -/
def State.windowRead (s : State) (c : Fin 4) (o n : Nat) : RowRead :=
  match s.window (strandCtx c) o n with
  | none => let j := s.windowEnd c o n; .fault ⟨6, true, 0, BitVec.ofNat 64 (o + j), j⟩
  | some a => s.spadSource o a n

/-- A span at the frame addresses of an operation forked in Mirror service (R206): none for another address; the place in the carve-out, or none
for a span outside the frame. -/
def frameSpan (frame : Option Nat) (a n : Nat) : Option (Option Nat) :=
  match (if a / 2 ^ 52 = 0xFFF then frame else none) with
  | none => none
  | some f => some (if a % 2 ^ 52 + n ≤ 2 ^ 18 then some (f + a % 2 ^ 52) else none)

/-- The tile operation error of a copy outside the frame, SUB 4 (R206, R224). -/
def State.copyFrameError (s : State) (c : Fin 4) (x : Chan) : State :=
  s.recordAsync (strandCtx c) ⟨frameTrap x.word, none, s.tags, 0⟩

/-- Read a source span of a channel: the frame, or memory. An access outside the frame is not made: its bytes are free. -/
def State.sourceRead (s : State) (c : Fin 4) (x : Chan) (k : AccKind) (a n : Nat) (got : Option (List Byte)) : RowRead × State :=
  match (frameSpan x.frame a n).map (·.bind s.dm.backing) with
  | some (some b) =>
    match (if s.dm.poisoned b n then findIdx n fun j => s.dm.poisoned (b + j) 1 else none) with
    | some j => (.fault ⟨5, true, 0, BitVec.ofNat 64 (a + j), j⟩, s)
    | none => (.bytes (Memory.getAll s.dm.mem b n), s)
  | some none =>
    let (k, s) := s.stamp
    (.bytes ((List.range n).map fun i => Config.freeByte k i), s.copyFrameError c x)
  | none => s.engRead x.who k n got (rowPieces a n)

/-- Read the source of a row; `patch` replaces it (R185). -/
def State.rowSource (s : State) (c : Fin 4) (x : Chan) (r : Nat) (got : Option (List Byte)) : RowRead × State :=
  match (if r = x.row then x.patch else none) with
  | some a => s.sourceRead c x .engRead a.toNat x.esize got
  | none => match x.op with
    | .sm => (s.windowRead c (x.src r) x.esize, s)
    | .drn => match s.chanRing c x, x.slotOf (x.i2 r) with
      | some n, some slot =>
        let a := (s.ring n).slotAt slot + x.i1 r * x.esize
        (s.spadSource (a - s.core.spBase c * 256) a x.esize, s)
      | _, _ => (.bytes [], s)
    | _ => s.sourceRead c x .engRead (x.src r) x.esize got

/-! ### Writing a row -/

/-- The access a destination row makes. -/
def ChanOp.writeKind : ChanOp → AccKind | .red _ => .reduce | _ => .engWrite

/-- Check a destination span in memory (R245): the first failure, and the parts homed on other dies. -/
def State.engProbe (s : State) (w : Who) (k : AccKind) (n : Nat) (l : List Piece) : Option RowFault × List (Piece × BitVec 16 × BitVec 2) × State :=
  match l with
  | [] => (none, [], s)
  | p :: r =>
    let addr : Word := BitVec.ofNat 64 (p.sec * 32 + p.at_)
    match s.dieOf w.job (p.sec / 2 ^ 47) with
    | .bad => (some ⟨2, false, 1 * 256 + 4, addr, p.pos⟩, [], s)
    | .gone _ _ => (some ⟨9, false, 0, addr, p.pos⟩, [], s)
    | .other fid die =>
      let (f, m, s) := State.engProbe s w k n r
      (f, (p, fid, die) :: m, s)
    | .own =>
      match s.access w (p.sec % 2 ^ 47 * 32 + p.at_) k n with
      | (.error b, s) => (some ⟨b.kind, false, b.order * 256 + b.sub, addr, p.pos⟩, [], s)
      | (.ok (pa, leaf), s) =>
        if k.reads then
          let (_, poisoned, s) := s.homeRead pa leaf
          if poisoned then (some ⟨5, false, 0, addr, p.pos⟩, [], s) else State.engProbe s w k n r
        else State.engProbe s w k n r

/-- Write the pieces homed here; copies of the bytes in the core and cluster give way (R183, R184). -/
def State.engWrite (s : State) (w : Who) (k : AccKind) (n : Nat) (bs : List Byte) (l : List Piece) : State :=
  match l with
  | [] => s
  | p :: r =>
    match s.dieOf w.job (p.sec / 2 ^ 47) with
    | .own =>
      match s.access w (p.sec % 2 ^ 47 * 32 + p.at_) k n with
      | (.error _, s) => State.engWrite s w k n bs r
      | (.ok (pa, leaf), s) =>
        let v : Sector := BitVec.ofNat 256 (ofBytes ((bs.drop p.pos).take p.len) * 2 ^ (8 * p.at_))
        let s := (s.supersede (ckey w.asid p.sec) p.mask).homeWrite w (pa / 32 * 32) leaf p.mask v
        State.engWrite s w k n bs r
    | _ => State.engWrite s w k n bs r

/-- The new destination word of a CPYR update (R175). -/
def RedOp.apply (o : RedOp) (old new : Nat) : Nat :=
  let sg (w v : Nat) : Int := signedOf w v
  match o with
  | .add32 => (old + new) % 2 ^ 32
  | .add64 => (old + new) % 2 ^ 64
  | .min32 => if sg 32 new < sg 32 old then new else old
  | .max32 => if sg 32 old < sg 32 new then new else old
  | .min64 => if sg 64 new < sg 64 old then new else old
  | .max64 => if sg 64 old < sg 64 new then new else old
  | .minn32 | .minn64 => min new old
  | .maxn32 | .maxn64 => max new old
  | .and => old &&& new
  | .or => old ||| new
  | .fmin => (fPick fp32 false old new).1
  | .fmax => (fPick fp32 true old new).1
  | .xsmerge => ((Cell.of old).merge (Cell.of new)).bits
  | .xsaddf => ((Cell.of old).addF32 new).bits

/-- Words of a row. -/
def chunks (n : Nat) : Nat → List Byte → List Nat
  | 0, _ => []
  | k + 1, l => ofBytes (l.take n) :: chunks n k (l.drop n)

/-- Apply CPYR updates word by word to the words homed here, each as one step at its home (R175). -/
def State.reduceWords (s : State) (w : Who) (o : RedOp) (a : Nat) (l : List Nat) : State :=
  match l with
  | [] => s
  | v :: r =>
    let d := RedOp.dstWord o
    let ps := rowPieces a d
    -- what the core and cluster hold dirty takes its place in the home order first (R268, R274)
    let s := ps.foldl (fun (s : State) p =>
      let k := ckey w.asid p.sec
      if (s.l1At k).dirty = 0 ∧ (s.l2At k).dirty = 0 then s else (s.flushSector svc k).2) s
    let s := match s.engRead w .reduce d none ps with
      | (.bytes old, s) => s.engWrite w .reduce d (bytesOf (BitVec.ofNat 512 (RedOp.apply o (ofBytes old) v)) d) ps
      | (_, s) => s
    State.reduceWords s w o (a + d) r

/-- Perform the part of a memory row homed on this die. -/
def State.performRow (s : State) (w : Who) (op : ChanOp) (a n : Nat) (bs : List Byte) : State :=
  match op with
  | .red o => s.reduceWords w o a (chunks (RedOp.word o) (bs.length / RedOp.word o) bs)
  | _ => s.engWrite w .engWrite n bs (rowPieces a n)

/-- Perform a row whose destination is the Mirror frame, at the storage behind it. -/
def State.frameRow (s : State) (op : ChanOp) (b : Nat) (bs : List Byte) : State :=
  match op with
  | .red o =>
    let d := RedOp.dstWord o
    ((chunks (RedOp.word o) (bs.length / RedOp.word o) bs).zipIdx).foldl (fun (s : State) (e : Nat × Nat) =>
      let a := b + e.2 * d
      s.devWrite a (bytesOf (BitVec.ofNat 512 (RedOp.apply o (ofBytes (Memory.getAll s.dm.mem a d)) e.1)) d)) s
  | _ => s.devWrite b bs

/-! ### Rows to other dies -/

/-- The segments of a row: at most 992 bytes, whole words of a CPYR (R355); of an XSADDF row the source bytes. -/
def segments (n : Nat) (bs : List Byte) : Nat → List (List Byte)
  | 0 => []
  | k + 1 => if bs.isEmpty then [] else bs.take n :: segments n (bs.drop n) k

/-- A row goes to its home on another die: what the core and cluster hold dirty of its bytes takes its place in the home order first, and their clean
copies give way (R268, R271). -/
def State.clearSpan (s : State) (w : Who) (a n : Nat) : State :=
  (rowPieces a n).foldl (fun (s : State) p =>
    let k := ckey w.asid p.sec
    if (s.l1At k).dirty = 0 ∧ (s.l2At k).dirty = 0 then s.supersedeClean k else (s.flushSector svc k).2) s

/-- Send a row to the die that homes it (R355 kind 3), counted once (R346); its serial waits in the channel. -/
def State.sendRow (s : State) (c : Fin 4) (ch : Fin 8) (row : Nat) (fid : BitVec 16) (die : BitVec 2) (a : Nat) (bs : List Byte) : State :=
  let x := s.chan c ch
  let w := x.who
  let (tag, s) := s.newTag
  let red := match x.op with | .red o => some o | _ => none
  let ratio := match red with | some o => RedOp.dstWord o / RedOp.word o | none => 1
  let s := (s.clearSpan w a (bs.length * ratio)).count w.job 1 0 0
  let seg := match red with | some o => 992 / RedOp.word o * RedOp.word o | none => 992
  let l := segments seg bs (bs.length / seg + 1)
  let s := (l.zipIdx).foldl (fun (s : State) (e : List Byte × Nat) =>
    let m : CopyMsg := ⟨s.unitOf (strandCtx c) w.job ch.val, true, w.job, w.vf, w.asid, (a + e.2 * seg * ratio) % 2 ^ 52, e.1, red,
      e.2 + 1 == l.length, tag % 65536⟩
    s.send ⟨fid, die, x.flush, .row m⟩) s
  s.setChan c ch { s.chan c ch with sent := (s.chan c ch).sent ++ [⟨row, tag % 65536, BitVec.ofNat 12 (a / 2 ^ 52)⟩] }

/-- Ask other dies for the parts of a row: source bytes, and a probe of length 0 for each destination part (log 17). -/
def State.askRow (s : State) (c : Fin 4) (ch : Fin 8) (row n : Nat) (red : Bool) (src dst : List (Piece × BitVec 16 × BitVec 2)) (ws : Bool) : State :=
  let w := (s.chan c ch).who
  let one (probe : Bool) (s : State) (e : Piece × BitVec 16 × BitVec 2) : State :=
    let (tag, s) := s.newTag
    let a := (e.1.sec * 32 + e.1.at_) % 2 ^ 52
    let m : ReadMsg := ⟨s.unitOf (strandCtx c) w.job ch.val, w.job, w.vf, w.asid, a, if probe then 0 else e.1.len, true, if probe then red else ws, tag⟩
    let s := s.send ⟨e.2.1, e.2.2, false, .read m⟩
    let x := s.chan c ch
    s.setChan c ch { x with asked := x.asked ++ [⟨tag, e.1.pos, if probe then 0 else e.1.len⟩] }
  let s := s.setChan c ch { s.chan c ch with next := row, buf := List.replicate n 0 }
  dst.foldl (one true) (src.foldl (one false) s)

/-! ### Running a row -/

/-- Complete a slot of a ring: the bytes beyond the rows become zero (R172, R142). -/
def State.completeSlot (s : State) (n : Fin 32) (slot used : Nat) : State :=
  let q := s.ring n
  let s := { s with core := s.core.spadWrite (q.slotAt slot + used) (List.replicate (q.bytes - used) 0) }
  s.setRing n (q.complete slot)

/-- A row is complete at its destination: the slot of its inner step completes or is freed with its last row (R142, R178). -/
def State.rowComplete (s : State) (c : Fin 4) (ch : Fin 8) (row : Nat) : State :=
  let x0 := s.chan c ch
  let x := x0.finishRow row
  let i2 := x.i2 row
  let s := s.setChan c ch (if x.buf.length != 0 && x.next == row && !x.op.isWload then { x with buf := [], asked := [] } else x)
  if x0.rowDone row || !x.stepDone i2 then s
  else match s.chanRing c x, x.slotOf i2 with
    | some n, some slot =>
      let y := s.chan c ch
      let rest := y.held.filter fun e => e.1 != i2
      if x.op = .drn then
        let q := s.ring n
        (s.setRing n { q with free := q.free + 1 }).setChan c ch { y with held := rest }
      else
        let s := s.completeSlot n slot (x.n1 * x.esize)
        if y.region then s else s.setChan c ch { y with held := rest }
    | _, _ => s

/-- Write a row to its place in the scratchpad or a ring slot; none where the place is not there. -/
def State.placeRow (s : State) (c : Fin 4) (x : Chan) (row : Nat) (bs : List Byte) : Option State :=
  match x.op with
  | .ms => (s.window (strandCtx c) (x.dst row) x.esize).map fun a => { s with core := s.core.spadWrite a bs }
  | _ => match s.chanRing c x, x.slotOf (x.i2 row) with
    | some n, some slot => some { s with core := s.core.spadWrite ((s.ring n).slotAt slot + x.i1 row * x.esize) bs }
    | _, _ => none

/-- The inner step that the next claim or pop is for: claims are made in order. -/
def Chan.nextStep (x : Chan) : Nat :=
  let i := x.complete / x.n1
  i + ((findIdx (x.held.length + x.done.length + 1) fun k => (x.slotOf (i + k)).isNone && !x.stepDone (i + k)).getD 0)

/-- Claim slots up to an inner step, one for each in order (R142, R174); none while the ring has no free slot. -/
def State.claimTo (s : State) (c : Fin 4) (ch : Fin 8) (i2 : Nat) : Nat → Option State
  | 0 => none
  | k + 1 =>
    let x := s.chan c ch
    if (x.slotOf i2).isSome then some s
    else match s.chanRing c x with
      | none => none
      | some n => match (s.ring n).claim with
        | none => none
        | some (slot, q) =>
          State.claimTo ((s.setRing n q).setChan c ch { x with held := x.held ++ [(x.nextStep, slot)] }) c ch i2 k

/-- The channels that wait for a slot of a ring claim it in their order, as far as slots are free (R143). -/
def State.grantClaims (s : State) (n : Fin 32) : State :=
  (s.wanting n).foldl (fun s e => (s.claimTo e.1 e.2 ((s.chan e.1 e.2).complete / (s.chan e.1 e.2).n1) 2).getD s) s

/-- The source bytes of a row with overlapping rows: those that give undefined bytes are free (R184). -/
def State.blurSource (s : State) (x : Chan) (row : Nat) (bs : List Byte) : List Byte × State :=
  match (x.blurred row).map fun j => j / x.ratio with
  | [] => (bs, s)
  | l =>
    let (k, s) := s.stamp
    ((bs.zipIdx).map fun e => if l.contains e.2 then Config.freeByte k e.2 else e.1, s)

/-- The undefined bytes that an updating row leaves at homes of this die are free (R184). -/
def State.blurTarget (s : State) (x : Chan) (row : Nat) : State :=
  match x.op, x.blurred row with
  | .red _, j :: l =>
    let (k, s) := s.stamp
    (j :: l).foldl (fun s j => s.engWrite x.who .engWrite 1 [Config.freeByte k j] (rowPieces (x.dst row + j) 1)) s
  | _, _ => s

/-- The same where the destination is the Mirror frame, at the storage behind it. -/
def State.blurFrame (s : State) (x : Chan) (row b : Nat) : State :=
  match x.op, x.blurred row with
  | .red _, j :: l =>
    let (k, s) := s.stamp
    (j :: l).foldl (fun s j => s.devWrite (b + j) [Config.freeByte k j]) s
  | _, _ => s

/-- Run one row of a channel that is not a WLOAD: read, check, write. A row that has to ask other dies, or waits for a slot, stays. Of faults at the source
and at the destination the source's is reported (R185; log 119). -/
def State.runRow (s : State) (c : Fin 4) (ch : Fin 8) (row : Nat) : State :=
  let x := s.chan c ch
  let w := x.who
  if x.parked || x.rowDone row || !decide (row < x.rows) || (x.sent.any fun e => e.row == row) || !x.asked.isEmpty then s
  else
    let ready := if x.next = row ∧ x.buf.length = x.esize then some x.buf else none
    let s' := if x.op.toRing then s.claimTo c ch (x.i2 row) 4097 else if x.op = .drn ∧ (x.slotOf (x.i2 row)).isNone = true then none else some s
    match s' with
    | none => s
    | some s =>
      let x := s.chan c ch
      let (src, s) := s.rowSource c x row ready
      let frame := if x.op.toMem then (frameSpan x.frame (x.dst row) x.dstLen).map (·.bind s.dm.backing) else none
      let dl := if x.op.toMem && frame.isNone then rowPieces (x.dst row) x.dstLen else []
      let (df, far, s) := s.engProbe w x.op.writeKind x.dstLen dl
      match src, df with
      | .fault f, _ => s.copyFault c ch row f
      | _, some f => s.copyFault c ch row f
      | .ask l, none => s.askRow c ch row x.esize (match x.op with | .red _ => true | _ => false) l far false
      | .bytes bs, none =>
        if x.op.toMem then
          match frame with
          | some (some b) =>
            let (bs, s) := s.blurSource x row bs
            ((s.frameRow x.op b bs).blurFrame x row b).rowComplete c ch row
          | some none => (s.copyFrameError c x).rowComplete c ch row
          | none =>
          if !far.isEmpty && ready.isNone then s.askRow c ch row x.esize (match x.op with | .red _ => true | _ => false) [] far false
          else
            let a := x.dst row
            let (bs, s) := s.blurSource x row bs
            let s := (s.performRow w x.op a x.dstLen bs).blurTarget x row
            match far with
            | [] => s.rowComplete c ch row
            | (p, fid, die) :: _ =>
              -- the part homed elsewhere: the whole row, or what lies beyond or before a die boundary
              let ratio := x.dstLen / x.esize
              let here := far.foldl (fun k e => k + e.1.len) 0
              s.sendRow c ch row fid die (p.sec * 32 + p.at_) ((bs.drop (p.pos / ratio)).take (here / ratio))
        else match s.placeRow c x row bs with
          | some s => s.rowComplete c ch row
          | none => let j := s.windowEnd c (x.dst row) x.esize; s.copyFault c ch row ⟨6, false, 0, BitVec.ofNat 64 (x.dst row + j), j⟩

/-- A row of a subscription stands on another die than src(0, 0), or on another package (R177). -/
def State.subAway (s : State) (x : Chan) (row : Nat) : Bool :=
  let home := s.dieOf x.who.job (x.src 0 / 2 ^ 52)
  x.op == .subs && (frameSpan x.frame (x.src row) x.esize).isNone &&
    ((match home with | .other fid _ => fid != s.fi.fid | _ => false) || s.dieOf x.who.job (x.src row / 2 ^ 52) != home)

/-- Run the rows of an inner step that are not complete, in order, while the channel goes on; a row of a subscription that its controller cannot read is a
fault of kind 8 (R177). -/
def State.runStep (s : State) (c : Fin 4) (ch : Fin 8) (row : Nat) : Nat → State
  | 0 => s
  | k + 1 =>
    let x0 := s.chan c ch
    let s := if s.subAway x0 row then s.copyFault c ch row ⟨8, true, 0, BitVec.ofNat 64 (x0.src row), 0⟩ else s.runRow c ch row
    let x := s.chan c ch
    if x.state = .stopped ∨ x.state = .idle ∨ x.asked.isEmpty = false then s else State.runStep s c ch (row + 1) k

/-! ### WLOAD (R179, R180, R212) -/

/-- Write output bytes of a WLOAD at its place: rows complete as they fill. -/
def State.weightOut (s : State) (c : Fin 4) (ch : Fin 8) (bs : List Byte) : State :=
  let x := s.chan c ch
  let at_ := s.core.wbBase c * 256 + x.cb.toNat + x.row * x.esize + x.out
  let flaws := s.core.flaws.filter fun f => !(f.place == .weight && decide (at_ ≤ f.idx * 32 ∧ f.idx * 32 + 32 ≤ at_ + bs.length))
  let s := { s with core := { s.core with wbuf := Memory.setAll s.core.wbuf at_ bs, flaws := flaws } }
  let o := x.out + bs.length
  let full := o / x.esize
  let x := (List.range full).foldl (fun (y : Chan) j => y.finishRow (x.row + j)) x
  s.setChan c ch { x with row := x.row + full, out := o % x.esize, buf := [], patch := if full = 0 then x.patch else none,
                          rowAt := if full = 0 then x.rowAt else x.next }

/-- The byte of the row's source at which a WLOAD reads on. -/
def Chan.readAt (x : Chan) : Nat := if x.op = .zb32 then x.next - x.rowAt else x.out
/-- The address there: of the row, of the stream, or of the patch that stands for the row's part of it (R185; log 95). -/
def Chan.readAddr (x : Chan) : Nat :=
  match x.patch with
  | some p => (p.toNat + x.readAt) % 2 ^ 64
  | none => if x.op = .zb32 then (x.ca.toNat + x.next) % 2 ^ 64 else (x.src x.row + x.out) % 2 ^ 64

/-- Bytes [o, o + n) of the source of a WLOAD: read here, or asked of another die; the second answer says that the channel waits or
has stopped. -/
def State.weightIn (s : State) (c : Fin 4) (ch : Fin 8) (a n have_ : Nat) : Option (List Byte) × State :=
  let x := s.chan c ch
  if !x.asked.isEmpty then (none, s)
  else
    let got := if have_ + n ≤ x.buf.length then some (x.buf.drop have_) else none
    match s.sourceRead c x .wload a n got with
    | (.bytes bs, s) => (some bs, s)
    | (.fault f, s) => (none, s.copyFault c ch x.row { f with off := f.off + x.readAt + have_ })
    | (.ask l, s) =>
      let y := s.chan c ch
      let old := y.buf
      let s := s.askRow c ch y.next n false (l.map fun e => ({ e.1 with pos := e.1.pos + have_ }, e.2)) [] true
      (none, s.setChan c ch { s.chan c ch with next := y.next, buf := old.take have_ ++ List.replicate n 0 })

/-- One raw piece of at most `n` bytes within a row. -/
def State.weightRaw (s : State) (c : Fin 4) (ch : Fin 8) (n : Nat) : Option (State × Nat) :=
  let x := s.chan c ch
  let k := min n (x.esize - x.out)
  match s.weightIn c ch x.readAddr k 0 with
  | (some bs, s) => some (s.weightOut c ch bs, k)
  | (none, _) => none

/-- One ZB32 record: a mask, its stored bytes, a sector of output (R180). The place in the stream is `next`. -/
def State.weightRecord (s : State) (c : Fin 4) (ch : Fin 8) : State × Bool :=
  let x := s.chan c ch
  let a := x.readAddr
  match s.weightIn c ch a 4 0 with
  | (none, s) => (s, false)
  | (some m, s) =>
    let mask := ofBytes m
    let k := popcount mask 32
    -- the mask stays at the head of the buffer while the stored bytes are asked for
    let s := if (s.chan c ch).buf.length < 4 then s.setChan c ch { s.chan c ch with buf := m } else s
    match (if k = 0 then (some [], s) else s.weightIn c ch ((a + 4) % 2 ^ 64) k 4) with
    | (none, s) => (s, false)
    | (some bs, s) =>
      let out : List Byte := (List.range 32).map fun j => if mask.testBit j then bs.getD (popcount mask j) 0 else 0
      let s := s.setChan c ch { s.chan c ch with next := x.next + 4 + k }
      (s.weightOut c ch out, true)

/-- A grant of the decompressor: 256 bytes of output, less where the operation ends or must wait (R212). -/
def State.grant (s : State) (c : Fin 4) (ch : Fin 8) : Nat → Nat → State
  | 0, _ => s
  | k + 1, n =>
    let x := s.chan c ch
    if n = 0 ∨ x.state ≠ .running ∨ x.parked = true then s
    else if x.op = .zb32 then
      match s.weightRecord c ch with
      | (s, true) => State.grant s c ch k (n - 32)
      | (s, false) => s
    else match s.weightRaw c ch n with
      | some (s, d) => State.grant s c ch k (n - d)
      | none => (s.weightIn c ch x.readAddr (min n (x.esize - x.out)) 0).2

/-! ### Forks (R169, R173) -/

/-- The check of a ring operand (R173, R174, R178): enabled, of the partition, large enough, of the right kind. -/
def State.ringOk (s : State) (c : Fin 4) (x : Chan) : Bool :=
  let v := if x.op = .drn then x.ca else x.cb
  v.toNat < 32 && (match s.core.physRing c v.toNat with
    | none => false
    | some n =>
      let q := s.ring n
      q.en && (x.op != .drn || q.cons) && decide (x.n1 * x.esize ≤ q.bytes))

/-- The check at the fork of the pattern and of the ring operand: the kind that fails (R171 to R179), that of the pattern where both do (R185; log 119). -/
def State.forkCheck (s : State) (c : Fin 4) (x : Chan) : Option Nat :=
  if !x.patternOk (s.core.wbCnt c * 256) then some 1 else if x.ringNo.isSome && !s.ringOk c x then some 7 else none

/-- The fork seals the region (R25, R173): its memory is no part of the Mirror frame (R206). -/
def Chan.forkSeals (x : Chan) (seals : Bool) : Bool :=
  seals && !(x.frame.isSome && inFrame (if x.op = .subs then x.srcBounds else x.dstBounds))

/-- The channels of a core whose operation a base-die controller carries (R308): a subscription, or a drain. -/
def State.entriesOf (s : State) (k : Nat) (subs : Bool) : Nat :=
  ((List.finRange 4).flatMap fun c => (List.finRange 8).filter fun ch =>
    let y := s.chan c ch
    y.ctrl == some k && y.state != .idle && (y.op == .subs) == subs).length

/-- The number of the entries of one kind at a controller. -/
def entryNo (k : Nat) (subs : Bool) : Nat := 2 * k + b2n subs

/-- Take an entry of controller `k`, of stack k mod 2 of die k div 2, which holds 64 of each kind for the cores of the package (R177, R308). A drain waits for
one; so does a subscription that a retry installs, where another is a copy fault of kind 8 (R185). -/
def State.takeEntry (s : State) (c : Fin 4) (ch : Fin 8) (k : Nat) : State :=
  let x := s.chan c ch
  if s.entriesOf k (x.op == .subs) + getAt 0 s.pk.entryElse (entryNo k (x.op == .subs)) < 64 then s.setChan c ch { x with installed := true, ctrl := some k }
  else if x.op = .subs ∧ x.fault ≠ 8 then s.copyFault c ch 0 ⟨8, true, 0, BitVec.ofNat 64 (x.src 0), 0⟩
  else s

/-- Install a subscription on the controller of the stack that homes src(0, 0), translated now with the checks of R245 (R177); another die of the
package is asked. The stack there is that die's mapping, so it is free (log 84). -/
def State.installSubs (s : State) (c : Fin 4) (ch : Fin 8) : State :=
  let x := s.chan c ch
  let addr : Word := BitVec.ofNat 64 (x.src 0)
  let fault (kind bad : Nat) (s : State) : State := s.copyFault c ch 0 ⟨kind, true, bad, addr, 0⟩
  if !x.asked.isEmpty then s
  else if (frameSpan x.frame (x.src 0) x.esize).isSome then s.setChan c ch { x with installed := true }
  else match s.dieOf x.who.job (x.src 0 / 2 ^ 52) with
    | .bad => fault 2 (1 * 256 + 4) s
    | .gone _ _ => fault 9 0 s
    | .other fid die => if fid = s.fi.fid then s.askRow c ch 0 x.esize false [(⟨x.src 0 / 32, x.src 0 % 32, 1, 0⟩, fid, die)] [] false else fault 8 0 s
    | .own => match s.access x.who (x.src 0 % 2 ^ 52) .engRead x.esize with
      | (.error b, s) => fault b.kind (b.order * 256 + b.sub) s
      | (.ok (pa, _), s) => s.takeEntry c ch (s.core.die.toNat * 2 + s.dm.stackOf pa)

/-- Another die of the package has answered for src(0, 0). -/
def State.installAway (s : State) (c : Fin 4) (ch : Fin 8) : State :=
  let x := s.chan c ch
  let die := match s.dieOf x.who.job (x.src 0 / 2 ^ 52) with | .other _ die => die | _ => s.core.die
  let (i, s) := s.pick 2
  s.takeEntry c ch (die.toNat * 2 + i)

/-- A drain whose first destination row stands in this package takes an entry of the controller of that row's stack (R308). -/
def State.installDrain (s : State) (c : Fin 4) (ch : Fin 8) : State :=
  let x := s.chan c ch
  let free (s : State) : State := s.setChan c ch { x with installed := true }
  if x.installed then s
  else match s.dieOf x.who.job (x.dst 0 / 2 ^ 52) with
    | .own => match s.access x.who (x.dst 0 % 2 ^ 52) .engWrite x.dstLen with
      | (.ok (pa, _), s) => s.takeEntry c ch (s.core.die.toNat * 2 + s.dm.stackOf pa)
      | (.error _, s) => free s
    | .other fid die => if fid = s.fi.fid then let (i, s) := s.pick 2; s.takeEntry c ch (die.toNat * 2 + i) else free s
    | _ => free s

/-- Fork an operation on a channel (R169, R173): the bundle holds while the channel is not idle, while an earlier load is to be performed (R270),
and a drain while its first slot is not filled. A fault of the pattern or the ring has no address: the one recorded is free (log 31). The service
context has no channel (log 32). -/
def State.fork (s : State) (op : ChanOp) (f : CopyOp) (seals : Bool) : Option State :=
  match asStrand s.core.cur with
  | none => some s
  | some c =>
    let ch := fin8 f.ch
    let old := s.chan c ch
    if old.state ≠ .idle ∨ s.loadsOwed = true then none
    else
      let pat := s.me.g.get (fin8 f.pat)
      let x : Chan := { Chan.reset with
        state := if op = .subs then .standing else .running, op := op, word := s.issue.word, ca := s.me.getC f.a, cb := s.me.getC f.b,
        patNo := f.pat, pat := pat, rows := pat.getPat .n1 * pat.getPat .n2, region := true,
        wm := if op.toRing then 0 else s.me.getC f.b, who := s.who s.core.cur, frame := s.mirrorFrame s.core.cur }
      let mark (s : State) : State := if x.forkSeals seals then s.seal s.core.cur else s
      match s.forkCheck c x with
      | some kind =>
        let (n, s) := s.stamp
        some (((mark s).setChan c ch x).copyFault c ch 0 ⟨kind, true, 0, Config.freeWord n 0, 0⟩)
      | none =>
        if op = .drn then
          match s.chanRing c x with
          | none => some (mark s)
          | some n => match (s.ring n).popDrain with
            | none => none
            | some (slot, q) => some (((mark s).setRing n q).setChan c ch { x with held := [(0, slot)] })
        else if op = .subs then some (((mark s).setChan c ch x).installSubs c ch)
        else some ((mark s).setChan c ch x)

/-! ### Meanings: forks -/

/-- CPY.MM (R174). -/
def execCpyMm (f : CopyOp) (s : State) : Out := perform (.cpyMm f) f.g s fun s => s.fork .mm f true
/-- CPY.MR (R174). -/
def execCpyMr (f : CopyOp) (s : State) : Out := perform (.cpyMr f) f.g s fun s => s.fork .mr f false
/-- CPY.MS (R174). -/
def execCpyMs (f : CopyOp) (s : State) : Out := perform (.cpyMs f) f.g s fun s => s.fork .ms f false
/-- CPY.SM (R174). -/
def execCpySm (f : CopyOp) (s : State) : Out := perform (.cpySm f) f.g s fun s => s.fork .sm f true
/-- CPYR (R175). -/
def execCpyr (f : CopyOp) (op : RedOp) (s : State) : Out := perform (.cpyr f op) f.g s fun s => s.fork (.red op) f true
/-- SUBS (R177). -/
def execSubs (f : CopyOp) (s : State) : Out := perform (.subs f) f.g s fun s => s.fork .subs f true

/-- SUBS.CANCEL (R177): a standing channel makes no further claim; claimed slots are completed first. -/
def execSubsCancel (g : BitVec 4) (ch : BitVec 3) (s : State) : Out :=
  perform (.subsCancel g ch) g s fun s =>
    let s := s.seal s.core.cur
    match asStrand s.core.cur with
    | none => some s
    | some c =>
      let x := s.chan c (fin8 ch)
      if x.state = .standing then
        let busy := x.held.any fun e => !x.stepDone e.1
        some (s.setChan c (fin8 ch) (if busy then { x with state := .cancelling, cancel := true }
          else { x with state := .idle, ctrl := none, asked := [], buf := [], patch := none, parked := false }))
      else some s

/-- DRN (R178). -/
def execDrn (f : CopyOp) (s : State) : Out := perform (.drn f) f.g s fun s => s.fork .drn f true
/-- WLOAD (R179). -/
def execWload (f : CopyOp) (s : State) : Out := perform (.wload f) f.g s fun s => s.fork .wload f false
/-- WLOAD.ZB32 (R180). -/
def execWloadZb32 (f : CopyOp) (s : State) : Out := perform (.wloadZb32 f) f.g s fun s => s.fork .zb32 f false

/-! ### Meanings: waits and status -/

/-- CWAIT (R181): hold until the channel is idle, then refresh. -/
def execCwait (g : BitVec 4) (ch : BitVec 3) (s : State) : Out :=
  perform (.cwait g ch) g s fun s => some (s.modMe fun x => { x with waits := x.waits ++ [.channel (fin8 ch) none] })

/-- CWAIT.WM (R181): hold until WM reaches c[a]. -/
def execCwaitWm (g a : BitVec 4) (ch : BitVec 3) (s : State) : Out :=
  perform (.cwaitWm g a ch) g s fun s => some (s.modMe fun x => { x with waits := x.waits ++ [.channel (fin8 ch) (some (x.getC a))] })

def ChanState.code : ChanState → Nat | .idle => 0 | .running => 1 | .stopped => 2 | .standing => 3 | .cancelling => 4

/-- The rows complete since the fork: a row of a ring is complete with its slot (R170). -/
def Chan.rowsComplete (x : Chan) : Nat :=
  if x.op.toRing then x.complete / x.n1 * x.n1 + (x.done.filter fun r => x.stepDone (x.i2 r)).length else x.complete + x.done.length

/-- The status word of CSTAT (R182). -/
def Chan.status (x : Chan) : Word :=
  BitVec.ofNat 64 (capAt (2 ^ 32 - 1) x.rowsComplete * 2 ^ 32 + bits x.word.toNat 7 4 * 2 ^ 24 + bits x.word.toNat 3 0 * 2 ^ 20 +
    x.fault * 2 ^ 8 + ChanState.code x.state)

/-- CSTAT (R182), latency 2. -/
def execCstat (g a : BitVec 4) (ch : BitVec 3) (s : State) : Out :=
  perform (.cstat g a ch) g s fun s => some (s.land (.c (fin16 a) (s.me.chans.get (fin8 ch)).status) 2)

/-- CSTAT.WM (R182), latency 2. -/
def execCstatWm (g a : BitVec 4) (ch : BitVec 3) (s : State) : Out :=
  perform (.cstatWm g a ch) g s fun s => some (s.land (.c (fin16 a) (s.me.chans.get (fin8 ch)).wm) 2)

/-! ### Meanings: CFIX (R185, R187) -/

/-- The state in which a channel goes on; a WLOAD begins its row anew (R187). -/
def Chan.goOn (x : Chan) : Chan :=
  { x with state := if x.op = .subs then (if x.cancel then .cancelling else .standing) else .running, out := 0,
           next := if x.op = .zb32 then x.rowAt else x.next }

/-- The number of a copy row that waits at a fault service (log 33): odd, where that of a strand is even. -/
def rowTag (c : Fin 4) (ch : Fin 8) : Nat := 2 * (c.val * 8 + ch.val) + 1

/-- A row waits at the fault service of the die that owns the address (R185, R299). -/
def State.parkRow (s : State) (c : Fin 4) (ch : Fin 8) : State :=
  let x := s.chan c ch
  match (s.ctx (strandCtx c)).strand with
  | none => s
  | some t =>
    let s := s.setChan c ch { x.goOn with parked := true }
    let w : FaultWords := ⟨BitVec.ofNat 64 (s.core.die.toNat * 2 ^ 62 + t.recAddr % 2 ^ 40 + 1), x.faultAddr, BitVec.ofNat 64 x.bad, x.who.asid.setWidth 64⟩
    match s.dieOf x.who.job (fieldOf x.faultAddr 63 52) with
    | .other fid die => s.send ⟨fid, die, false, .faultEntry w (rowTag c ch) x.who.job⟩
    | _ => s.later (.faultEntry w)

/-- A stopped operation ends (R185): slots it claimed and did not complete are taken back (log 96). -/
def State.endChan (s : State) (c : Fin 4) (ch : Fin 8) : State :=
  let x := s.chan c ch
  let l := (x.held.filter fun e => !x.stepDone e.1).map (·.2)
  let s := s.setChan c ch { x with state := .idle, held := x.held.filter fun e => x.stepDone e.1, asked := [], buf := [], patch := none, parked := false,
                                   ctrl := none }
  match s.chanRing c x with
  | some n => if x.op = .drn then s.setRing n { s.ring n with free := (s.ring n).free + l.length } else s.setRing n ((s.ring n).retract l)
  | none => s

/-- CFIX.RETRY of a stopped channel. -/
def State.fixRetry (s : State) (c : Fin 4) (ch : Fin 8) : State :=
  let x := s.chan c ch
  if x.state ≠ .stopped then s
  else match x.fault with
    | 2 | 3 | 4 => s.parkRow c ch
    | 5 | 8 | 9 => s.setChan c ch x.goOn
    | _ => s

/-- Zeros in the part of a row that lies in the window. -/
def State.zeroInside (s : State) (c : Fin 4) (x : Chan) : State :=
  (List.range x.esize).foldl (fun (s : State) j => match s.window (strandCtx c) (x.dst x.row + j) 1 with
    | some a => { s with core := s.core.spadWrite a [0] }
    | none => s) s

/-- The zeros that a skipped row leaves in a ring, scratchpad or weight-buffer destination; a ZB32 operation ends with zeros. A SUBS that stopped at its
install is skipped likewise, and then installs (R177; log 121). -/
def State.skipRow (s : State) (c : Fin 4) (ch : Fin 8) : State :=
  let x := s.chan c ch
  let s := s.setChan c ch x.goOn
  match x.op with
  | .zb32 => (s.setChan c ch { x.goOn with out := x.out }).weightOut c ch (List.replicate (x.rows * x.esize - (x.row * x.esize + x.out)) 0)
  | .wload => s.weightOut c ch (List.replicate x.esize 0)
  | .ms | .mr | .subs =>
    let place (s : State) : Option State := s.placeRow c (s.chan c ch) x.row (List.replicate x.esize 0)
    let s := if x.op.toRing then ((s.claimTo c ch (x.i2 x.row) 4097).bind place).getD s else (place s).getD (s.zeroInside c x)
    s.rowComplete c ch x.row
  | .mm | .sm | .red _ | .drn => s.rowComplete c ch x.row

/-- CFIX.SKIP of a stopped channel. -/
def State.fixSkip (s : State) (c : Fin 4) (ch : Fin 8) : State :=
  let x := s.chan c ch
  if x.state ≠ .stopped then s
  else match x.fault with
    | 1 | 7 | 8 => s.endChan c ch
    | _ => s.skipRow c ch

/-- CFIX.PATCH of a stopped channel. -/
def State.fixPatch (s : State) (c : Fin 4) (ch : Fin 8) (a : Word) : State :=
  let x := s.chan c ch
  if x.state ≠ .stopped then s
  else if x.fault = 5 ∨ (x.srcSide = true ∧ (x.fault = 2 ∨ x.fault = 3 ∨ x.fault = 4 ∨ x.fault = 6)) then
    s.setChan c ch { x.goOn with patch := some a }
  else s

/-- CFIX.RETRY (R187). -/
def execCfixRetry (g : BitVec 4) (ch : BitVec 3) (s : State) : Out :=
  perform (.cfixRetry g ch) g s fun s => some (match asStrand s.core.cur with | some c => s.fixRetry c (fin8 ch) | none => s)
/-- CFIX.SKIP (R187). -/
def execCfixSkip (g : BitVec 4) (ch : BitVec 3) (s : State) : Out :=
  perform (.cfixSkip g ch) g s fun s => some (match asStrand s.core.cur with | some c => s.fixSkip c (fin8 ch) | none => s)
/-- CFIX.PATCH (R187). -/
def execCfixPatch (g a : BitVec 4) (ch : BitVec 3) (s : State) : Out :=
  perform (.cfixPatch g a ch) g s fun s => some (match asStrand s.core.cur with | some c => s.fixPatch c (fin8 ch) (s.me.getC a) | none => s)

/-! ### Events -/

/-- RING_SLOT_COMPLETE (R142): a slot still being filled becomes done. -/
def execRingSlotComplete (n : Fin 32) (slot : Nat) (s : State) : Out :=
  let q := s.ring n
  let filling := (List.range (q.span - q.filled)).any fun i => (q.head + q.filled + i) % q.slots == slot
  .next (if q.en && filling then s.setRing n (q.complete slot) else s)

/-- COPY_ROW_COMPLETE (R170): a row of a running channel runs and, where nothing is owed by another die, completes. -/
def execCopyRowComplete (c : Fin 4) (ch : Fin 8) (row : Nat) (s : State) : Out :=
  let x := s.chan c ch
  .next (if x.state = .running ∧ x.op.isWload = false ∧ x.op ≠ .subs then s.runRow c ch row else s)

/-- COPY_FAULT (R185): the channel stops at the row. -/
def execCopyFault (c : Fin 4) (ch : Fin 8) (row kind : Nat) (addr : Word) (off : Nat) (s : State) : Out :=
  let x := s.chan c ch
  .next (if x.state = .idle ∨ x.state = .stopped then s else s.copyFault c ch row ⟨kind, true, 0, addr, off⟩)

/-- SUBSCRIPTION_CLAIM (R177): one not yet installed is installed; then the controller claims a slot for the next inner step and fills it; a cancelled one only completes what it
has claimed. -/
def execSubscriptionClaim (c : Fin 4) (ch : Fin 8) (s : State) : Out :=
  let x := s.chan c ch
  if x.op ≠ .subs ∨ (x.state ≠ .standing ∧ x.state ≠ .cancelling) ∨ x.parked = true then .next s
  else if !x.installed then .next (s.installSubs c ch)
  else
    let i2 := x.complete / x.n1
    let s1 := if x.state = .standing then s.claimTo c ch i2 2 else if (x.slotOf i2).isSome then some s else none
    match s1 with
    | none => .next s
    | some s =>
      let s := s.runStep c ch x.complete (x.n1 - x.complete % x.n1)
      let y := s.chan c ch
      .next (if y.state = .cancelling ∧ (y.held.any fun e => !y.stepDone e.1) = false then s.setChan c ch { y with state := .idle, ctrl := none } else s)

/-- DRAIN_SLOT_POP (R178): a drain without its controller's entry takes one (R308); then the next filled slot is popped and its rows are written. -/
def execDrainSlotPop (c : Fin 4) (ch : Fin 8) (s : State) : Out :=
  let x := s.chan c ch
  if x.op ≠ .drn ∨ x.state ≠ .running ∨ x.parked = true then .next s
  else if !x.installed then .next (s.installDrain c ch)
  else
    let i2 := x.nextStep
    let s := if i2 < x.n2 then
        match s.chanRing c x with
        | some n => match (s.ring n).popDrain with
          | some (slot, q) => (s.setRing n q).setChan c ch { x with held := x.held ++ [(i2, slot)] }
          | none => s
        | none => s
      else s
    .next (s.runStep c ch x.complete (x.n1 - x.complete % x.n1))

/-- The WLOAD of this core that the decompressor's next grant goes to: the first with output pending, by context and then by channel (R212). -/
def State.grantDue (s : State) : Option (Fin 4 × Fin 8) :=
  (List.finRange 4).findSome? fun c => ((List.finRange 8).find? fun ch =>
    let x := s.chan c ch
    x.op.isWload && x.state == .running && !x.parked && x.asked.isEmpty).map fun ch => (c, ch)

/-- DECOMPRESSOR_GRANT (R212): 256 bytes of output for the WLOAD whose turn it is; the round robin goes on after this core. -/
def execDecompressorGrant (c : Fin 4) (ch : Fin 8) (s : State) : Out :=
  if s.grantDue = some (c, ch) then
    let t := s.grant c ch 16 256
    .next { t with cl := { t.cl with grant := s.core.core.toNat } }
  else .next s

/-- The first byte of a span that stands on a departed die. -/
def State.firstGone (s : State) (job : BitVec 12) (a n : Nat) : Option Nat :=
  ((rowPieces a n).find? fun p => match s.dieOf job (p.sec / 2 ^ 47) with | .gone _ _ => true | _ => false).map (·.pos)

/-- Where a channel meets a departed die, if it does (R185 kind 9): a row on its way, a part asked, a row that waits at the die's fault service
(R299). -/
def State.lostRow (s : State) (x : Chan) : Option (Nat × RowFault) :=
  let job := x.who.job
  let f (row a n : Nat) (src : Bool) : Option (Nat × RowFault) :=
    (s.firstGone job a n).map fun j => (row, ⟨9, src, 0, BitVec.ofNat 64 (a + j), j⟩)
  let sent := (x.sent.find? fun e => (s.firstGone job (x.dst e.row) x.dstLen).isSome).bind fun e => f e.row (x.dst e.row) x.dstLen false
  let asked := if x.asked.isEmpty then none
    else if x.op.isWload then (f x.row x.readAddr 36 true).map fun e => (e.1, { e.2 with off := e.2.off + x.readAt })
    else (f x.next (match (if x.next = x.row then x.patch else none) with | some p => p.toNat | none => x.src x.next) x.esize true).orElse fun _ =>
      f x.next (x.dst x.next) x.dstLen false
  let parked := if x.parked && (s.firstGone job x.faultAddr.toNat 1).isSome then some (x.row, ⟨9, x.srcSide, 0, x.faultAddr, x.off⟩) else none
  if x.state = .idle ∨ x.state = .stopped then none else sent.orElse fun _ => asked.orElse fun _ => parked

/-- Channels that meet a departed die stop there; the rows sent to it are counted as discarded (R348), and run again once the channel goes on. -/
def State.dropChannels (s : State) (c : Fin 4) : State :=
  (List.finRange 8).foldl (fun s ch =>
    let x := s.chan c ch
    let lost := x.sent.filter fun e => match s.dieOf x.who.job e.die.toNat with | .gone _ _ => true | _ => false
    let s := if lost.isEmpty then s
      else (s.count x.who.job 0 0 lost.length).setChan c ch { x with sent := x.sent.filter fun a => !lost.contains a }
    match s.lostRow x with
    | some (row, f) => s.copyFault c ch row f
    | none => s) s

/-- Rows acknowledged by another die, up to a serial (R272, R355 kind 10). -/
def State.ackRows (s : State) (die : BitVec 12) (serial : Nat) : State :=
  (List.finRange 4).foldl (fun s c => (List.finRange 8).foldl (fun (s : State) ch =>
    let x := s.chan c ch
    match x.sent.findIdx? fun e => e.die == die && e.serial == serial with
    | none => s
    | some k =>
      let hit := (x.sent.take (k + 1)).filter fun e => e.die == die
      let rest := (x.sent.take (k + 1)).filter (fun e => e.die != die) ++ x.sent.drop (k + 1)
      let s := s.setChan c ch { x with sent := rest }
      -- the row is performed there: the clean copies of it that the cluster took in meanwhile give way (R183)
      let s := hit.foldl (fun (s : State) e => (rowPieces (x.dst e.row) x.dstLen).foldl (fun (s : State) p =>
        if p.sec / 2 ^ 47 = e.die.toNat then s.supersedeClean (ckey x.who.asid p.sec) else s) s) s
      hit.foldl (fun s e => if rest.any fun a => a.row == e.row then s else s.rowComplete c ch e.row) s) s) s

/-- A reply to what a channel asked: its bytes, or a copy fault (R185). -/
def State.rowReply (s : State) (tag : Nat) (r : Reply) : State :=
  (List.finRange 4).foldl (fun s c => (List.finRange 8).foldl (fun (s : State) ch =>
    let x := s.chan c ch
    match x.asked.find? fun e => e.tag == tag with
    | none => s
    | some e =>
      if x.op = .subs ∧ x.installed = false then
        let s := s.setChan c ch { x with asked := [], buf := [] }
        match r with
        | .data _ => s.installAway c ch
        | .failed o n => s.copyFault c ch 0 ⟨Bad.kind ⟨o, n⟩, true, o * 256 + n, BitVec.ofNat 64 (x.src 0), 0⟩
      else
      match r with
      | .data bs =>
        let bs := bs.take e.len
        s.setChan c ch { x with asked := x.asked.filter fun a => a.tag != tag, buf := x.buf.take e.pos ++ bs ++ x.buf.drop (e.pos + bs.length) }
      | .failed o n =>
        let b : Bad := ⟨o, n⟩
        let src := e.len != 0
        if x.op.isWload then
          s.copyFault c ch x.row ⟨b.kind, true, o * 256 + n, BitVec.ofNat 64 (x.readAddr + e.pos), e.pos + x.readAt⟩
        else
          let base := if !src then x.dst x.next else match (if x.next == x.row then x.patch else none) with | some p => p.toNat | none => x.src x.next
          s.copyFault c ch x.next ⟨b.kind, src, o * 256 + n, BitVec.ofNat 64 (base + e.pos), e.pos⟩) s) s

end Sys2Proof.Machine
end

