-- ==== Sys2Proof/Machine/DieMemory.lean ====
section
/-! DEFINITION. Commands and events of the die's memory side (R247 to R264): invalidations and sweeps, the carve-out, the mapping,
frames, key slots, memory errors. -/

namespace Sys2Proof.Machine

def State.modDm (s : State) (f : DieMem → DieMem) : State := { s with dm := f s.dm }

/-! ### Invalidations and sweeps -/

/-- A TLB entry overlaps a range of 2^log2n pages of 64 KiB from `page`; 15 names the whole address space (R248). -/
def TlbEntry.inRange (e : TlbEntry) (asid : BitVec 13) (log2n page : Nat) : Bool :=
  e.asid == asid && (log2n == 15 ||
    decide (e.page * (e.size / 2 ^ 16) < page + 2 ^ log2n ∧ page < (e.page + 1) * (e.size / 2 ^ 16)))

/-- Remove the entries over a range (R248). -/
def State.tlbDrop (s : State) (asid : BitVec 13) (log2n page : Nat) : State :=
  s.modDm fun d => { d with tlb := d.tlb.filter fun e => !e.inRange asid log2n page }

/-- The ROOT and VF of an ASID as memory holds them take effect (R246); an entry that cannot be read counts as zero. -/
def State.takeRoot (s : State) (asid : BitVec 13) : State :=
  let (r, s) := s.asidRead asid
  s.modDm fun d => { d with roots := putAt 0 d.roots asid.toNat (match r with | .ok (w, _) => w | .error _ => 0) }

/-- A range word of DM_TLBINV or DL_SHOOT: ASID, LOG2N, PAGE; none for the illegal lengths. -/
def rangeOf (v : Word) : Option (BitVec 13 × Nat × Nat) :=
  let n := fieldOf v 43 40
  if n = 13 ∨ n = 14 then none else some (BitVec.ofNat 13 (fieldOf v 60 48), n, fieldOf v 39 0)

/-- The fields of a range word that are kept. -/
def rangeWord (v : Word) : Word := BitVec.ofNat 64 (fieldOf v 60 48 * 2 ^ 48 + fieldOf v 43 40 * 2 ^ 40 + fieldOf v 39 0)

/-- TLB_INVALIDATE (R246, R248). -/
def execTlbInvalidate (v : Word) (s : State) : Out :=
  match (if s.dm.tlbDone then rangeOf v else none) with
  | none => .next s
  | some (asid, n, page) => .next ((s.modDm fun d => { d with tlbinv := rangeWord v, tlbDone := false }).tlbDrop asid n page |>.takeRoot asid)

/-- TLB_INVALIDATE_DONE (R248). -/
def execTlbInvalidateDone (s : State) : Out := .next (s.modDm fun d => { d with tlbDone := true })

/-- Set STATE of an ASID table entry (R246, R247). -/
def State.setAsidState (s : State) (asid : BitVec 13) (x : Nat) : State := s.devPut (s.asidAt asid) (withField (s.devWord (s.asidAt asid)) 1 0 x)

/-- ASID_SWEEP (R247): the write-backs are those of the address space as it stood (log 45). -/
def execAsidSweep (v : Word) (s : State) : Out :=
  if s.dm.sweepDone then
    let asid : BitVec 13 := v.setWidth 13
    let s := s.modDm fun d => { d with sweep := asid, sweepDone := false }
    let s := s.flushAll svc fun k => keyAsid k == asid
    .next ((s.setAsidState asid 2).tlbDrop asid 15 0)
  else .next s

/-- ASID_SWEEP_DONE (R247): once the write-backs are acknowledged. -/
def execAsidSweepDone (s : State) : Out :=
  if s.dm.sweepDone ∨ (s.core.flying.any fun f => f.ctx == svc) = true then .next s
  else
    let s := s.setAsidState s.dm.sweep 0
    .next (s.modDm fun d => { d with sweepDone := true })

/-! ### The carve-out (R251) -/

/-- CARVE_RESIZE: accesses are held, so the completion comes next. -/
def execCarveResize (v : Word) (s : State) : Out :=
  if s.dm.carveBusy ∨ 8 < fieldOf v 3 0 then .next s
  else .next ((s.modDm fun d => { d with carveBusy := true, carveNext := v.setWidth 4 }).enqueue .carveResizeDone)

/-- CARVE_RESIZE_DONE: bytes at or above the new size are discarded. -/
def execCarveResizeDone (s : State) : Out :=
  if s.dm.carveBusy then
    .next (s.modDm fun d =>
      let top := 0x8000000000 + d.carveNext.toNat * 2 ^ 27
      { d with carveBusy := false, carveWays := d.carveNext, mem := d.mem.filter fun e => !decide (top ≤ e.1 ∧ e.1 < 0x8100000000),
               tags := d.tags.filter fun e => !decide (top ≤ e.1 * 32 ∧ e.1 * 32 < 0x8100000000) })
  else .next s

/-! ### The mapping (R252 to R256) -/

/-- The staging matrix (R242). -/
def DieMem.staged (d : DieMem) : Vector Word32 32 :=
  Vector.ofFn fun i => BitVec.ofNat 32 (fieldOf (d.stage.get ⟨i.val / 2, by omega⟩) (32 * (i.val % 2) + 31) (32 * (i.val % 2)))

/-- Insert a row into a reduced basis, greatest leading bit first. -/
def basisInsert (b : List Nat) (x : Nat) : List Nat :=
  match b with
  | [] => if x = 0 then [] else [x]
  | y :: r => if y.log2 < x.log2 ∧ x ≠ 0 then x :: y :: r else y :: basisInsert r (min x (x ^^^ y))

/-- The rank over GF(2) (R254). -/
def matrixRank (m : Vector Word32 32) : Nat := (m.toList.foldl (fun b (x : Word32) => basisInsert b x.toNat) []).length

/-- The channels that a matrix reaches from the blocks `base` to `limit` (R254). -/
def reached (m : Vector Word32 32) (base limit : Nat) : List Nat :=
  let starts := ((List.range 8).filter fun b => decide (base ≤ b ∧ b ≤ limit)).map fun b => mapChannel m (b * 2 ^ 29)
  (List.range 29).foldl (fun l i => let c := mapChannel m (2 ^ i); if c = 0 then l else (l ++ l.map (· ^^^ c)).eraseDups) starts.eraseDups

/-- The state of a channel (R256). -/
def DieMem.chanState (d : DieMem) (c : Nat) : Nat :=
  if c < 32 then fieldOf d.chan0 (2 * c + 1) (2 * c) else fieldOf d.chan1 (2 * (c - 32) + 1) (2 * (c - 32))

/-- The fields of DM_MAPCMD. -/
def mapRegion (v : Word) : Fin 8 := ⟨fieldOf v 8 6, by unfold fieldOf bits; omega⟩
def mapBase (v : Word) : Nat := fieldOf v 12 10
def mapLimit (v : Word) : Nat := fieldOf v 15 13
def mapMode (v : Word) : Bool := bitAt v 9

/-- The code of the check of an ARM, 0 where it passes (R254). -/
def DieMem.armCode (d : DieMem) (v : Word) : Nat :=
  let m := d.staged
  let outside (j : Nat) : Bool := matrixRow m j % 2 ^ 29 != 0
  if matrixRank m < 32 then 2
  else if mapMode v && (mapLimit v != mapBase v || outside 14 || outside 15 || outside 16) then 3
  else if (List.finRange 8).any fun n => n != mapRegion v && (d.regions.get n).state == 1 &&
      decide ((d.regions.get n).base.toNat ≤ mapLimit v ∧ mapBase v ≤ (d.regions.get n).limit.toNat) then 4
  else if (reached m (mapBase v) (mapLimit v)).any fun c => d.chanState c == 2 then 5
  else 0

/-- Store a command of DM_MAPCMD. -/
def DieMem.mapCommand (d : DieMem) (v : Word) (code : Nat) : DieMem := { d with mapReg := BitVec.ofNat 64 (v.toNat % 2 ^ 16), mapCode := BitVec.ofNat 8 code }

/-- A write of DM_MAPCMD while a command is pending sets CODE 6; the command goes on (R254; log 97). -/
def State.mapRefused (s : State) : State := s.modDm fun d => { d with mapCode := 6 }

/-- A command that completes in its own step: requests are held until then. -/
def State.mapPending (s : State) (v : Word) : State := (s.modDm fun d => { d.mapCommand v 1 with mapBusy := true }).enqueue .mapCommandDone

/-- MAP_ARM (R254): requests are held from here to the completion, which comes next. On stepping A0 RANK reads 0 after codes 3 to 5 (R392). -/
def execMapArm (v : Word) (s : State) : Out :=
  if s.dm.mapBusy then .next s.mapRefused
  else
    let s := s.modDm fun d => { d with mapRank := BitVec.ofNat 8 (matrixRank d.staged) }
    match s.dm.armCode v with
    | 0 => .next (s.mapPending v)
    | e => .next (s.modDm fun d => { d.mapCommand v e with mapRank := if s.pk.step = 0 ∧ 3 ≤ e then 0 else d.mapRank })

/-- MAP_WITHDRAW (R254). -/
def execMapWithdraw (v : Word) (s : State) : Out :=
  .next (if s.dm.mapBusy then s.mapRefused else s.mapPending v)

/-- MAP_COMMAND_DONE (R254): another matrix than the one installed before, in the region or over a block of it, begins a new epoch there, under which the bytes
written before read as undefined. -/
def execMapCommandDone (s : State) : Out :=
  if !s.dm.mapBusy then .next s
  else
    let v := s.dm.mapReg
    let n := mapRegion v
    let r := s.dm.regions.get n
    if fieldOf v 5 0 = 1 then
      let m := s.dm.staged
      let (e, s) := s.newTag
      let r' : Region := ⟨1, mapMode v, BitVec.ofNat 3 (mapLimit v), BitVec.ofNat 3 (mapBase v), m⟩
      let blocks : Vector (Fin 8 × Nat) 8 := Vector.ofFn fun b =>
        let old := s.dm.blocks.get b
        if mapBase v ≤ b.val ∧ b.val ≤ mapLimit v then (n, if m = r.matrix ∧ old.1 = n then old.2 else e) else old
      .next (s.modDm fun d => { d with mapCode := 0, mapBusy := false, blocks := blocks, regions := d.regions.set n.val r' n.isLt })
    else .next (s.modDm fun d => { d with mapCode := 0, mapBusy := false, regions := d.regions.set n.val { r with state := 2 } n.isLt })

/-- MAP_READ (R254). -/
def execMapRead (v : Word) (s : State) : Out :=
  if s.dm.mapBusy then .next s.mapRefused
  else
    let m := (s.dm.regions.get (mapRegion v)).matrix
    let stage : Vector Word 16 := Vector.ofFn fun i => BitVec.ofNat 64 (matrixRow m (2 * i.val) + matrixRow m (2 * i.val + 1) * 2 ^ 32)
    .next (s.modDm fun d => { d.mapCommand v 0 with stage := stage })

/-! ### Frames (R259) -/

/-- The leaf of a TLB entry covers a frame. -/
def TlbEntry.covers (e : TlbEntry) (f : Nat) : Bool :=
  decide (fieldOf e.pte 39 16 ≤ f ∧ f < fieldOf e.pte 39 16 + e.size / 2 ^ 16)

/-- FRAME_FREE. -/
def execFrameFree (v : Word) (s : State) : Out :=
  let f := fieldOf v 20 0
  let reg : Word := BitVec.ofNat 64 (fieldOf v 63 62 * 2 ^ 62 + f)
  if s.dm.frameRetired f then .next (s.modDm fun d => { d with frameReg := reg, refused := true })
  else .next (s.modDm fun d => { d with frameReg := reg, refused := false, scrub := if d.scrub.contains f then d.scrub else d.scrub ++ [f],
                                        tlb := d.tlb.filter fun e => !e.covers f })

/-- FRAME_QUERY. -/
def execFrameQuery (v : Word) (s : State) : Out :=
  let f := fieldOf v 20 0
  .next (s.modDm fun d => { d with frameReg := BitVec.ofNat 64 (fieldOf v 63 62 * 2 ^ 62 + f), lastPend := d.scrub.contains f, lastRet := d.frameRetired f })

/-- Set the zero tag of every sector of a frame under the mapping in force (R254, R259); poison stays (R263). A sector without a tag is a
zero-tagged one of epoch 0. -/
def DieMem.zeroFrame (d : DieMem) (f : Nat) : DieMem :=
  let epoch := d.epochOf (f * 2 ^ 16)
  let bad := (d.tags.filter fun e => e.1 / 2 ^ 11 == f && e.2.poison).map (·.1)
  let secs := if epoch = 0 then bad else (List.range 2048).map (f * 2048 + ·)
  secs.foldl (fun d sec => d.setTag sec ⟨0, epoch, bad.contains sec⟩)
    { d with mem := d.mem.filter fun e => e.1 / 2 ^ 16 != f, tags := d.tags.filter fun e => e.1 / 2 ^ 11 != f }

/-- FRAME_SCRUB_DONE: the sectors of the frame read as zero under any key. -/
def execFrameScrubDone (frame : BitVec 21) (s : State) : Out :=
  let f := frame.toNat
  if s.dm.scrub.contains f then .next (s.modDm fun d => { d.zeroFrame f with scrub := d.scrub.filter (· != f) })
  else .next s

/-! ### Key slots (R261) -/

def keySlotOf (v : Word) : Fin 64 := ⟨fieldOf v 5 0, by unfold fieldOf bits; omega⟩

def keyWord (v : Word) : Word := BitVec.ofNat 64 (fieldOf v 63 62 * 2 ^ 62 + fieldOf v 13 8 * 2 ^ 8 + fieldOf v 5 0)

/-- KEY_GENERATE: accepted only for an empty slot. -/
def execKeyGenerate (v : Word) (s : State) : Out :=
  let n := keySlotOf v
  if s.dm.keyDone = false ∨ n = 0 then .next s
  else
    let k := s.dm.keys.get n
    let k' : KeySlot := if k.state = 0 then ⟨1, BitVec.ofNat 6 (fieldOf v 13 8), k.gen + 1⟩ else k
    .next (s.modDm fun d => { d with keyReg := keyWord v, keyLast := BitVec.ofNat 6 n.val, keys := d.keys.set n.val k' n.isLt })

/-- KEY_DESTROY. -/
def execKeyDestroy (v : Word) (s : State) : Out :=
  let n := keySlotOf v
  if s.dm.keyDone = false ∨ n = 0 then .next s
  else .next (s.modDm fun d => { d with keyReg := keyWord v, keyLast := BitVec.ofNat 6 n.val, keyDone := false,
                                        keys := d.keys.set n.val { d.keys.get n with state := 2 } n.isLt,
                                        tlb := d.tlb.filter fun e => pteSlot e.pte != n })

/-- KEY_DESTROY_DONE: what was written under the key can never be read again; its generation has passed. -/
def execKeyDestroyDone (s : State) : Out :=
  if s.dm.keyDone then .next s
  else
    let n : Fin 64 := ⟨s.dm.keyLast.toNat, s.dm.keyLast.isLt⟩
    let k := s.dm.keys.get n
    .next (s.modDm fun d => { d with keyDone := true, keys := d.keys.set n.val { k with state := 0, gen := k.gen + 1 } n.isLt })

/-! ### Memory errors (R263, R264) -/

/-- The frames that one more uncorrectable error retires: its own after a second error in the sector, or those of four distinct frames
of the channel within 2^32 die cycles. -/
def DieMem.toRetire (d : DieMem) (sec now : Nat) : List Nat :=
  let f := sec / 2 ^ 11
  let ch := d.channelOf (sec * 32)
  let near := ((d.errors.filter fun e => decide (now - e.2.2.2 < 2 ^ 32) && e.2.2.1 == ch && !d.frameRetired e.2.1).map fun e => e.2.1).eraseDups
  let four := (if near.contains f then near else f :: near)
  let l := if 4 ≤ four.length then four else if d.errors.any fun e => e.1 == sec then [f] else []
  l.filter fun g => !d.frameRetired g

end Sys2Proof.Machine
end

