-- ==== Sys2Proof/Machine/Tile.lean ====
section
/-! DEFINITION. Tile instructions (R216 to R234): descriptors, shapes and their checks, forks, steering (R199, R203), the rows of the
operations, retirement, tile operation errors (R224) and capability misses (R204, R205). -/

namespace Sys2Proof.Machine

/-! ### The accumulator store (R144) and the service tile (R217) -/

/-- Element (i, j) of a tile: 0 to 47 physical tiles, 48 + c the service tile of context c. -/
def State.accGet (s : State) (t i j : Nat) : Word32 :=
  if t < 48 then getAt 0 s.core.acc (t * 4096 + i * 64 + j)
  else BitVec.ofNat 32 (ofBytes (Memory.getAll s.dm.mem (s.frameBase ⟨(t - 48) % 4, Nat.mod_lt _ (by omega)⟩ + 0x20000 + 256 * i + 4 * j) 4))

/-- Write one element. -/
def State.accSet (s : State) (t i j : Nat) (v : Word32) : State :=
  if t < 48 then { s with core := { s.core with acc := putAt 0 s.core.acc (t * 4096 + i * 64 + j) v } }
  else s.devWrite (s.frameBase ⟨(t - 48) % 4, Nat.mod_lt _ (by omega)⟩ + 0x20000 + 256 * i + 4 * j) (bytesOf v 4)

/-- Write the first elements of a row. A sector written whole loses its flaw. -/
def State.accRow (s : State) (t i : Nat) (l : List Word32) : State :=
  let s := (l.zipIdx).foldl (fun (s : State) (e : Word32 × Nat) => s.accSet t i e.2 e.1) s
  let k := t * 512 + i * 8
  { s with core := { s.core with flaws := s.core.flaws.filter fun f => !(f.place == .accumulator && decide (k ≤ f.idx ∧ f.idx + 1 ≤ k + l.length / 8)) } }

/-- The first `n` elements of a row hold an uncorrectable error (R150). -/
def State.accLost (s : State) (t i n : Nat) : Bool :=
  if t < 48 then s.core.flaws.any fun f => f.place == .accumulator && decide (t * 512 + i * 8 ≤ f.idx ∧ f.idx < t * 512 + i * 8 + (n + 7) / 8)
  else s.dm.poisoned (s.frameBase ⟨(t - 48) % 4, Nat.mod_lt _ (by omega)⟩ + 0x20000 + 256 * i) (4 * n)

/-! ### Descriptors and shapes (R216 to R221) -/

/-- The tile that a descriptor names (R217). -/
def State.tileOf (s : State) (c : Fin 4) (d : Word) : Option Nat :=
  let t := fieldOf d 13 8
  if fieldOf d 63 14 ≠ 0 ∨ fieldOf d 7 5 ≠ 0 then none
  else if t = 63 ∧ (s.ctx (strandCtx c)).mirrorAct = true then some (48 + c.val)
  else (s.core.physTile c t).map (·.val)

/-- Where an operand of MMA comes from: a ring, or in Mirror service a block of the frame. -/
inductive Place | ring (n : Fin 32) | block (k : Nat)
  deriving DecidableEq, Repr

/-- The place that a ring field names (R206, R217), or the SUB of the error. -/
def State.operandPlace (s : State) (c : Fin 4) (r : Nat) : Except Nat Place :=
  if (s.ctx (strandCtx c)).mirrorAct then (if r < 4 then .ok (.block r) else .error 4)
  else match s.core.physRing c r with
    | none => .error 6
    | some n =>
      let q := s.ring n
      if q.en && q.cons && q.ctx.toNat == c.val then .ok (.ring n) else .error 6

/-- The bytes an operand may have there. -/
def State.placeBytes (s : State) (p : Place) : Nat := match p with | .ring n => min 65536 (s.ring n).bytes | .block _ => 65536

/-- The group of a class (R126), by its BMAP bit. -/
def classGroup (cls : Nat) : Nat := match cls with | 0 => 1 | 1 => 2 | 2 => 32 | _ => 2

/-- The scale bytes NA and NB (R221). -/
def scaleCounts (mode m n k g : Nat) : Nat × Nat :=
  match mode with
  | 0 => (0, 0)
  | 1 => (m, n)
  | 2 => (k / g, k / g)
  | _ => (m * (k / 32), n * (k / 32))

/-- The rules of SCALE, ASB and BSB (R221). -/
def scaleOk (cls : Nat) (h : Rec8) : Bool :=
  let mode := h.getShape .scale
  let k := h.getShape .k
  let (na, nb) := scaleCounts mode (h.getShape .m) (h.getShape .n) k (classGroup cls)
  (match cls with
   | 0 | 1 => decide (mode ≤ 3)
   | 2 => mode == 3
   | _ => mode == 0) &&
  (mode != 3 || k % 32 == 0) &&
  (mode == 0 || (decide (h.getShape .asb ≤ 31 ∧ h.getShape .bsb ≤ 31) && decide (8 * h.getShape .asb + na ≤ 256 ∧ 8 * h.getShape .bsb + nb ≤ 256)))

/-- The shape of an MMA is within R219; `alim` and `blim` are the bytes the operands may have. -/
def mmaShapeOk (f : MmaFmt) (h : Rec8) (alim blim : Nat) : Bool :=
  let m := h.getShape .m
  let n := h.getShape .n
  let k := h.getShape .k
  let es := fmtBytes2 f
  let ra := k * es / 2
  let rb := n * es / 2
  decide (1 ≤ m ∧ m ≤ 64 ∧ 1 ≤ n ∧ n ≤ 64 ∧ 1 ≤ k ∧ k ≤ 4096) && (f != .mxfp4 || n % 2 == 0) && k % classGroup (fmtClass f) == 0 &&
    decide (ra ≤ h.getShape .apitch ∧ h.getShape .apitch ≤ 65536 ∧ rb ≤ h.getShape .bpitch ∧ h.getShape .bpitch ≤ 65536) && scaleOk (fmtClass f) h &&
    decide (aExtent f h ≤ alim ∧ bExtent f h ≤ blim)

/-- What a fork needs, once its operands pass. -/
structure TilePlan where (dst : Nat) (src : Option Nat) (a b : Option Place) (count : Nat)
  deriving DecidableEq, Repr

/-- M and N of TLOAD, TSTORE, TTRP and TADD (R219). -/
def rectOk (h : Rec8) : Bool :=
  let m := h.getShape .m
  let n := h.getShape .n
  decide (1 ≤ m ∧ m ≤ 64 ∧ 1 ≤ n ∧ n ≤ 64)

/-- The operands of MMA (R217, R225), or the SUB of the error. -/
def State.mmaOperands (s : State) (c : Fin 4) (ma mb : Word) : Except Nat (Place × Option Place) :=
  if fieldOf mb 63 26 ≠ 0 ∨ fieldOf mb 15 6 ≠ 0 then .error 6
  else match s.operandPlace c (fieldOf ma 4 0) with
    | .error e => .error e
    | .ok pa =>
      if bitAt mb 5 then
        if fieldOf mb 25 16 ≠ 0 then .error 6
        else match s.operandPlace c (fieldOf mb 4 0) with
          | .error e => .error e
          | .ok pb => .ok (pa, some pb)
      else if fieldOf mb 4 0 ≠ 0 ∨ s.core.wbCnt c ≤ fieldOf mb 25 16 then .error 6
      else .ok (pa, none)

/-- The checks of R217 to R221, operands first: what the fork needs, or the SUB of the tile operation error. -/
def State.tilePlan (s : State) (c : Fin 4) (k : TileKind) (ma mb : Word) (h : Rec8) : Except Nat TilePlan :=
  if !((s.ctx (strandCtx c)).strand.any fun (t : Strand) => t.pinned) then .error 6
  else match s.tileOf c ma with
    | none => .error 6
    | some dst =>
      match k with
      | .zero => .ok ⟨dst, none, none, none, 64⟩
      | .load | .store =>
        if mb.toNat % 4 ≠ 0 then .error 6
        else if rectOk h && decide (4 * h.getShape .n ≤ h.getShape .apitch) && h.getShape .apitch % 4 == 0 then .ok ⟨dst, none, none, none, h.getShape .m⟩
        else .error 5
      | .transpose | .addF32 | .addI32 =>
        match s.tileOf c mb with
        | none => .error 6
        | some src => if rectOk h then .ok ⟨dst, some src, none, none, if k = .transpose then h.getShape .n else h.getShape .m⟩ else .error 5
      | .mma f =>
        match s.mmaOperands c ma mb with
        | .error e => .error e
        | .ok (pa, pb) =>
          let blim := match pb with | some p => s.placeBytes p | none => min 65536 ((s.core.wbCnt c - fieldOf mb 25 16) * 256)
          if mmaShapeOk f h (s.placeBytes pa) blim then .ok ⟨dst, none, some pa, pb, h.getShape .m⟩ else .error 5

/-! ### Tile operation errors (R224) and capability misses (R205) -/

/-- The capability trap of a missed operation (R205), with the recipe that the captured bitmaps and masks provide (R208). -/
def State.missTrap (s : State) (o : TileRec) (vf : BitVec 6) : Async :=
  let m := s.vmask vf
  let w := o.word.toNat
  let o6 := BitVec.ofNat 64 (fieldOf m 20 16 * 2 ^ 32 + fieldOf m 15 0 * 2 ^ 16 + b2n o.swap * 2 ^ 14 + o.h.toNat * 2 ^ 12 + bits w 6 0 * 2 ^ 4 + bits w 10 7)
  let bm := (s.permitted vf).foldl (fun (a : BitVec 8) (g : Engine) => a ||| g.bmap) 0
  let o7 := BitVec.ofNat 64 (fieldOf o.ma 13 8 * 2 ^ 8 + bm.toNat)
  ⟨⟨10, o.kind.cls, 3, o.word.setWidth 64, 0, tileOpds o.ma o.mb o.shape o6 o7⟩, some o.scales, o.id, s.recipe vf o.kind.cls⟩

/-! ### Forks (R222) -/

/-- Pop the operand of a place. -/
def State.popPlace (s : State) (p : Option Place) : Option (Option (Nat × Nat) × State) :=
  match p with
  | none => some (none, s)
  | some (.block k) => some (some (32, k), s)
  | some (.ring n) => match (s.ring n).pop with
    | none => none
    | some (slot, q) => some (some (n.val, slot), s.setRing n q)

/-- The dispatcher has room for a record of this core (R198). -/
def State.dispatchRoom (s : State) : Bool :=
  decide ((s.core.ops.filter fun o => o.engine.isNone && o.kind != .zero && !o.placeholder).length < 32)

/-- An operation enters the tiles it names (R144, R222). -/
def State.enterOp (s : State) (o : TileRec) : State :=
  let c := strandCtx o.ctx
  let s := ({ s with core := { s.core with ops := s.core.ops ++ [o] } } : State).setLast c o.dst o.id
  o.tiles.foldl (fun s t =>
    let w := s.tileWm c t
    let w := { w with infl := w.infl + 1 }
    s.setTileWm c t (if t = o.dst then { w with lastm := o.count, wm := 0, cover := s.coverOf c t } else w)) s

/-- The live and shadow copies of a shape register are exchanged (R93). -/
def Ctx.swapShape (x : Ctx) (h : Fin 4) : Ctx := { x with h := x.h.set h.val (x.shadow.get h) h.isLt, shadow := x.shadow.set h.val (x.h.get h) h.isLt }

/-- Fork a tile operation (R222). The service context has no tile (log 32). -/
def State.forkTile (s : State) (k : TileKind) (f : TileOp) : Option State :=
  match asStrand s.core.cur with
  | none => some s
  | some c =>
    let s := if f.s then s.modMe fun x => x.swapShape (fin4 f.h) else s
    let x := s.me
    let ma := x.getM f.a
    let mb := x.getM f.b
    let h := x.h.get (fin4 f.h)
    let refuse (sub : Nat) : Option State := some (s.tileError s.core.cur s.tags sub s.issue.word ma mb h 0 ma)
    match s.tilePlan c k ma mb h with
    | .error e => refuse e
    | .ok p =>
      let vf := (s.who s.core.cur).vf
      let miss := match k with | .mma fm => s.misses vf (fmtClass fm) | _ => false
      if miss && x.hm then refuse 7
      else
        let (id, s1) := s.newTag
        let o : TileRec := ⟨id, c, k, s.issue.word, ma, mb, f.h, f.s, h, x.e, none, none, p.dst, p.src, decide (48 ≤ p.dst), p.count, 0, none, miss, true,
          x.mirrorAct, none, [], [], s.who s.core.cur, s.mirrorFrame s.core.cur, 0⟩
        if s.loadsOwed || !(o.tiles.all fun t => decide ((s.tileWm s.core.cur t).infl < 15)) || (k != .zero && !s.dispatchRoom) then none
        else match s1.popPlace p.a with
          | none => none
          | some (a, s2) => match s2.popPlace p.b with
            | none => none
            | some (b, s3) =>
              let o := { o with aSlot := a, bSlot := b }
              let s4 := s3.enterOp o
              some (if miss then s4.recordAsync s.core.cur (s4.missTrap o vf) else s4)

/-! ### Meanings -/

/-- MMA (R225, R226). -/
def execMma (f : TileOp) (fmt : MmaFmt) (s : State) : Out := perform (.mma f fmt) f.g s fun s => s.forkTile (.mma fmt) f
/-- TZERO (R229). -/
def execTzero (g a : BitVec 4) (s : State) : Out := perform (.tzero g a) g s fun s => s.forkTile .zero ⟨g, a, 0, 0, false⟩
/-- TLOAD (R230). -/
def execTload (f : TileOp) (s : State) : Out := perform (.tload f) f.g s fun s => s.forkTile .load f
/-- TSTORE (R231). -/
def execTstore (f : TileOp) (s : State) : Out := perform (.tstore f) f.g s fun s => s.forkTile .store f
/-- TTRP (R232). -/
def execTtrp (f : TileOp) (s : State) : Out := perform (.ttrp f) f.g s fun s => s.forkTile .transpose f
/-- TADD (R232). -/
def execTadd (f : TileOp) (i32 : Bool) (s : State) : Out := perform (.tadd f i32) f.g s fun s => s.forkTile (if i32 then .addI32 else .addF32) f

/-- A tile named for a probe or a wait; a failed check is a tile operation error and the instruction has no other effect (R217, R218, R224). -/
def State.namedTile (s : State) (ma mb d : Word) (body : Nat → State → Option State) : Option State :=
  match asStrand s.core.cur with
  | none => some s
  | some c =>
    let pinned := s.me.strand.any fun (t : Strand) => t.pinned
    match (if pinned then s.tileOf c d else none) with
    | none => some (s.tileError s.core.cur s.tags 6 s.issue.word ma mb (s.me.h.get 0) 64 d)
    | some t => body t s

/-- TWM (R233), latency 2. -/
def execTwm (g a b : BitVec 4) (s : State) : Out :=
  perform (.twm g a b) g s fun s => s.namedTile (s.me.getM a) (s.me.getM b) (s.me.getM b) fun t s => some (s.land (.m (fin16 a) (s.tileWm s.core.cur t).word) 2)

/-- TWAIT (R233). -/
def execTwait (g a b : BitVec 4) (rows : Bool) (s : State) : Out :=
  perform (.twait g a b rows) g s fun s => s.namedTile (s.me.getM a) (s.me.getM b) (s.me.getM a) fun t s =>
    let bound := if rows then some (min (fieldOf (s.me.getM b) 6 0) 64) else none
    some (s.modMe fun x => { x with waits := x.waits ++ [.tile t bound] })

/-- TFENCE (R233). -/
def execTfence (g : BitVec 4) (s : State) : Out :=
  perform (.tfence g) g s fun s =>
    match asStrand s.core.cur with
    | none => some s
    | some _ =>
      if s.me.strand.any fun (t : Strand) => t.pinned then some (s.modMe fun x => { x with waits := x.waits ++ [.allTiles] })
      else some (s.tileError s.core.cur s.tags 6 s.issue.word (s.me.getM 0) (s.me.getM 0) (s.me.h.get 0) 64 0)

/-! ### Retirement (R223) and steering (R199, R203) -/

/-- Replace an operation's record. -/
def State.setOp (s : State) (o : TileRec) : State := { s with core := { s.core with ops := s.core.ops.map fun p => if p.id = o.id then o else p } }

/-- It is the operation forked most recently on its destination. -/
def State.isNewest (s : State) (o : TileRec) : Bool := s.lastOf (strandCtx o.ctx) o.dst == o.id

/-- An operation retires: WM reaches LASTM (R144). -/
def State.retireOp (s : State) (o : TileRec) : State :=
  let newest := s.isNewest o
  let s := s.dropOp o
  if newest then
    let w := s.tileWm (strandCtx o.ctx) o.dst
    s.setTileWm (strandCtx o.ctx) o.dst { w with wm := w.lastm }
  else s

/-- The engine may take the record (R199); `any` lifts EMASK (R203). -/
def State.eligible (s : State) (vf : BitVec 6) (cls : Nat) (any : Bool) (e : Fin 16) : Bool :=
  let g := s.cl.engines.get e
  (any || bitAt (s.vmask vf) e.val) && bitAt g.bmap cls && bitAt (s.vmask vf) (16 + cls) && g.state == 0 && decide (g.queued < 4)

/-- The best of the eligible engines: home engines first, then fewer queued, then the lower number. -/
def State.chooseEngine (s : State) (ok : Fin 16 → Bool) : Option (Fin 16) :=
  let key (e : Fin 16) : Nat := (if e.val / 2 = s.core.core.toNat then 0 else 1024) + (s.cl.engines.get e).queued * 16 + e.val
  ((List.finRange 16).filter ok).foldl (fun (b : Option (Fin 16)) e => match b with | none => some e | some f => if key e < key f then some e else some f) none

/-- An unsteered record waits for an engine. -/
def TileRec.waiting (o : TileRec) : Bool := o.engine.isNone && o.kind != .zero && !o.placeholder

/-- Steer one record, or leave it waiting (R199, R203). -/
def State.steer (s : State) (o : TileRec) : State :=
  let vf := o.who.vf
  let cls := o.kind.cls
  let holds (g : Engine) : Bool := g.state != 2 && bitAt g.bmap cls
  let any := cls == 4 && !(s.permitted vf).any holds
  if any && !(s.cl.engines.any holds) then (s.opError o 3 0).retireOp o
  else
    let before := (s.core.ops.takeWhile fun p => p.id != o.id).filter fun p => p.engine.isSome && p.tiles.any fun t => o.tiles.contains t
    let ok := s.eligible vf cls any
    let e := match before.getLast?.bind (·.engine) with
      | some f => if h : f < 16 then (if ok ⟨f, h⟩ then some ⟨f, h⟩ else none) else none
      | none => s.chooseEngine ok
    match e with
    | none => s
    | some e =>
      let g := s.cl.engines.get e
      let (n, s) := s.newTag
      ({ s with cl := { s.cl with engines := s.cl.engines.set e.val { g with queued := g.queued + 1 } e.isLt } } : State).setOp
        { o with engine := some e.val, steered := n }

/-- TILE_DISPATCH (R199): a core cycle of the dispatcher. -/
def execTileDispatch (s : State) : Out := .next ((s.core.ops.filter TileRec.waiting).foldl State.steer s)

/-! ### The rows of an operation -/

/-- Element `k` of a row of elements of `w` bits (R220). -/
def elemAt (row w k : Nat) : Nat := row / 2 ^ (w * k) % 2 ^ w

/-- Scale byte `i` from byte 8 × base of the captured scale registers (R221). -/
def scaleByte (e : Vector Word 32) (base i : Nat) : Nat :=
  let n := 8 * base + i
  if h : n / 8 < 32 then fieldOf (e.get ⟨n / 8, h⟩) (8 * (n % 8) + 7) (8 * (n % 8)) else 0

/-- The scale bytes of row i and column j at term k (R221). -/
def scalesAt (h : Rec8) (e : Vector Word 32) (g i j k : Nat) : Nat × Nat :=
  let kb := h.getShape .k / 32
  let pick (base r : Nat) : Nat :=
    match h.getShape .scale with
    | 0 => 127
    | 1 => scaleByte e base r
    | 2 => scaleByte e base (k / g)
    | _ => scaleByte e base (r * kb + k / 32)
  (pick (h.getShape .asb) i, pick (h.getShape .bsb) j)

/-- The float formats of A and B (R220); none for class I8. -/
def mmaFloat (f : MmaFmt) : Option (FloatFmt × FloatFmt) :=
  match f with
  | .bf16 => some (bf16, bf16)
  | .f16 => some (fp16, fp16)
  | .e4m3 => some (e4m3, e4m3)
  | .e5m2 => some (e5m2, e5m2)
  | .e4m3e5m2 => some (e4m3, e5m2)
  | .e5m2e4m3 => some (e5m2, e4m3)
  | .mxfp4 => some (e2m1, e2m1)
  | .i8 => none

/-- One element of an MMA: the groups of k in increasing order (R126, R226). `arow` is row i of A, `brows` the rows of B. -/
def mmaElem (f : MmaFmt) (h : Rec8) (e : Vector Word 32) (arow : Nat) (brows : Array Nat) (i j : Nat) (acc : Word32) : Word32 :=
  let g := classGroup (fmtClass f)
  let w := 4 * fmtBytes2 f
  let a (k : Nat) : Nat := elemAt arow w k
  let b (k : Nat) : Nat := elemAt (brows.getD k 0) w j
  BitVec.ofNat 32 ((List.range (h.getShape .k / g)).foldl (fun (acc q : Nat) =>
    let ks := (List.range g).map fun d => q * g + d
    match mmaFloat f with
    | none => groupI acc (ks.map fun k => (signedOf 8 (a k), signedOf 8 (b k)))
    | some (fa, fb) =>
      let (sa, sb) := scalesAt h e g i j (q * g)
      groupF acc (ks.map fun k => (fa.value (a k), fb.value (b k))) ((sa : Int) + (sb : Int) - 254) (sa == 255 || sb == 255)) acc.toNat)

/-- Row i of an MMA. -/
def State.mmaRow (s : State) (o : TileRec) (f : MmaFmt) (i : Nat) : List Word32 :=
  let h := o.shape
  let n := h.getShape .n
  let ra := h.getShape .k * fmtBytes2 f / 2
  let rb := n * fmtBytes2 f / 2
  let arow := ofBytes (s.slotBytes o.ctx o.aSlot (i * h.getShape .apitch) ra)
  let brows := ((List.range (h.getShape .k)).map fun k => ofBytes (s.bBytes o (k * h.getShape .bpitch) rb)).toArray
  (List.range n).map fun j => mmaElem f h o.scales arow brows i j (s.accGet o.dst i j)

/-- The address of row r of TLOAD and TSTORE. -/
def TileRec.rowAddr (o : TileRec) (r : Nat) : Nat := (o.mb.toNat + r * o.shape.getShape .apitch) % 2 ^ 64

/-- Row r of an operation reads an uncorrectable error of the core or of the Mirror frame (R150, R224, R263). -/
def State.rowLost (s : State) (o : TileRec) (r : Nat) : Bool :=
  let h := o.shape
  let m := h.getShape .m
  let n := h.getShape .n
  match o.kind with
  | .mma f =>
    s.accLost o.dst r n || s.slotLost o.ctx o.aSlot (r * h.getShape .apitch) (h.getShape .k * fmtBytes2 f / 2) || s.bLost o (bExtent f h)
  | .store => s.accLost o.dst r n
  | .transpose => r == 0 && (List.range m).any fun i => s.accLost (o.src.getD 0) i n
  | .addF32 | .addI32 => r == 0 && (List.range m).any fun i => s.accLost (o.src.getD 0) i n || s.accLost o.dst i n
  | .load => match frameSpan o.frame (o.rowAddr r) (4 * n) with
    | some (some b) => (s.dm.backing b).any fun b => s.dm.poisoned b (4 * n)
    | _ => false
  | .zero => false

/-- Every element that TTRP or TADD writes, computed before it writes anything (R232), by rows. -/
def State.movedRows (s : State) (o : TileRec) : List Word32 :=
  let m := o.shape.getShape .m
  let n := o.shape.getShape .n
  let src := o.src.getD 0
  match o.kind with
  | .transpose => (List.range n).flatMap fun j => (List.range m).map fun i => s.accGet src i j
  | .addF32 => (List.range m).flatMap fun i => (List.range n).map fun j => BitVec.ofNat 32 (fAdd fp32 (s.accGet o.dst i j).toNat (s.accGet src i j).toNat).1
  | _ => (List.range m).flatMap fun i => (List.range n).map fun j =>
      BitVec.ofNat 32 (patternOf 32 (clamp 32 true (signedOf 32 (s.accGet o.dst i j).toNat + signedOf 32 (s.accGet src i j).toNat)))

/-- Columns that an operation writes in a row. -/
def TileRec.cols (o : TileRec) : Nat := match o.kind with | .zero => 64 | .transpose => o.shape.getShape .m | _ => o.shape.getShape .n

/-- Row r is final, or has entered (R144, R231). -/
def State.rowDone (s : State) (o : TileRec) (r : Nat) : State :=
  let newest := s.isNewest o
  let s := s.setOp { o with row := r + 1, asked := [], buf := [] }
  if newest then
    let w := s.tileWm (strandCtx o.ctx) o.dst
    s.setTileWm (strandCtx o.ctx) o.dst { w with wm := r + 1 }
  else s

/-- Free words for a row whose contents are undefined. -/
def State.freeRow (s : State) (n : Nat) : List Word32 × State :=
  let (k, s) := s.stamp
  ((List.range n).map fun j => (Config.freeWord k j).setWidth 32, s)

/-- Write row r of a destination. -/
def State.writeRow (s : State) (o : TileRec) (r : Nat) (l : List Word32) : State := (s.accRow o.dst r l).rowDone o r

/-- A row of TLOAD or TSTORE faults: the operation ends, and the strand aborts its region at its next bundle boundary (R230, R231); an
unreachable peer is a strand fault (R94). A strand whose record is away from its context has no bundle boundary: the row is tried again, and the strand
takes the fault once it is back (log 104). -/
def State.rowFault (s : State) (o : TileRec) (gone : Bool) (a : AbortInfo) : State :=
  let c := strandCtx o.ctx
  let x := s.ctx c
  let mine := x.strand.any fun (t : Strand) => t.recAddr == o.who.record
  if mine && !x.leaving then
    let s := s.dropOp o
    if gone then s.faultHere c 2 a.addr else s.modCtx c fun x => { x with boundary := x.boundary.orElse fun _ => some a }
  else if mine || x.reserved == some o.who.record then s.setOp { o with asked := [], buf := [] }
  else s.dropOp o

/-- Ask other dies for the parts of a row. -/
def State.askTile (s : State) (o : TileRec) (n : Nat) (l : List (Piece × BitVec 16 × BitVec 2)) : State :=
  let w := o.who
  let (asked, s) := l.foldl (fun (a : List RowReq × State) (e : Piece × BitVec 16 × BitVec 2) =>
    let (tag, s) := a.2.newTag
    let m : ReadMsg := ⟨s.unitOf (strandCtx o.ctx) w.job 0, w.job, w.vf, w.asid, (e.1.sec * 32 + e.1.at_) % 2 ^ 52, e.1.len, true, false, tag⟩
    (a.1 ++ [⟨tag, e.1.pos, e.1.len⟩], s.send ⟨e.2.1, e.2.2, false, .read m⟩)) ([], s)
  s.setOp { o with asked := asked, buf := List.replicate n 0 }

/-- Row r of TLOAD (R230). -/
def State.loadRow (s : State) (o : TileRec) (r : Nat) : State :=
  let n := o.shape.getShape .n
  let a := o.rowAddr r
  let words (bs : List Byte) : List Word32 := (List.range n).map fun j => BitVec.ofNat 32 (ofBytes ((bs.drop (4 * j)).take 4))
  match (frameSpan o.frame a (4 * n)).map (·.bind s.dm.backing) with
  | some (some b) => s.writeRow o r (words (Memory.getAll s.dm.mem b (4 * n)))
  | some none =>
    let (l, s) := s.freeRow n
    (s.opError o 4 r).writeRow o r l
  | none =>
    let got := if o.buf.length = 4 * n then some o.buf else none
    match s.engRead o.who .engRead (4 * n) got (rowPieces a (4 * n)) with
    | (.bytes bs, s) => s.writeRow o r (words bs)
    | (.ask l, s) => s.askTile o (4 * n) l
    | (.fault f, s) => s.rowFault o (f.kind == 9) ⟨f.addr, f.bad / 256, f.bad % 256⟩

/-- The parts of a TSTORE row homed on other dies. -/
def State.farParts (s : State) (o : TileRec) (l : List Piece) : List (Piece × BitVec 16 × BitVec 2) :=
  l.filterMap fun p => match s.dieOf o.who.job (p.sec / 2 ^ 47) with | .other fid die => some (p, fid, die) | _ => none

/-- Ask other dies to check a TSTORE row, an engine's write, before it enters the phase buffer (R231, R245): a probe of length 0 for each part, whose
answers take one place each (log 17). -/
def State.probeTile (s : State) (o : TileRec) (l : List (Piece × BitVec 16 × BitVec 2)) : State :=
  let (asked, s) := (l.zipIdx).foldl (fun (a : List RowReq × State) (e : (Piece × BitVec 16 × BitVec 2) × Nat) =>
    let (tag, s) := a.2.newTag
    let p := e.1.1
    let m : ReadMsg := ⟨s.unitOf (strandCtx o.ctx) o.who.job 0, o.who.job, o.who.vf, o.who.asid, (p.sec * 32 + p.at_) % 2 ^ 52, 0, true, false, tag⟩
    (a.1 ++ [⟨tag, e.2, 0⟩], s.send ⟨e.1.2.1, e.1.2.2, false, .read m⟩)) ([], s)
  s.setOp { o with asked := asked, buf := List.replicate l.length 0 }

/-- Row r of TSTORE (R231): `l` are its elements; it enters once every probe of it is answered. -/
def State.storeRow (s : State) (o : TileRec) (r : Nat) (l : List Word32) : State :=
  let n := l.length
  let v := (l.zipIdx).foldl (fun (a : Nat) (e : Word32 × Nat) => a + e.1.toNat * 2 ^ (32 * e.2)) 0
  let c := strandCtx o.ctx
  let ps := rowPieces (o.rowAddr r) (4 * n)
  let far := s.farParts o ps
  if o.buf.length ≠ far.length then s.probeTile o far
  else match s.storeFor c o.who o.frame false 4 v ps with
  | (.ok, s) =>
    let s := (far.zip o.buf).foldl (fun (s : State) (e : (Piece × BitVec 16 × BitVec 2) × Byte) => s.modCtx c fun x => x.markUncached e.1.1.sec [e.2]) s
    s.rowDone o r
  | (.bad a b, s) => s.rowFault o false ⟨a, b.order, b.sub⟩
  | (.gone a, s) => s.rowFault o true ⟨a, 0, 0⟩
  | (.full a, s) => (s.dropOp o).faultHere (strandCtx o.ctx) 3 a
  | (.noFrame, s) => (s.opError o 4 r).rowDone o r

/-- An operation of Mirror service runs in the place of the placeholder it serves: on its context's tiles it does not wait for what was forked from then
on (R207). -/
def State.inPlace (s : State) (o p : TileRec) : Bool :=
  o.mirror && !p.mirror && o.ctx == p.ctx && decide ((s.ctx (strandCtx o.ctx)).mirrorOp ≤ p.id)

/-- The operation waits for an earlier one: on one of its tiles (R223), or before it in the queue of its engine (R200). -/
def State.behind (s : State) (o p : TileRec) : Bool :=
  !s.inPlace o p &&
    ((p.tiles.any fun t => o.tiles.contains t) && decide (p.id < o.id) || o.engine.isSome && p.engine == o.engine && decide (p.steered < o.steered))

/-- A release atomic has issued and not yet published the buffered stores: no row enters until it has (R231). -/
def Ctx.releasing (x : Ctx) : Bool :=
  (x.waits ++ x.aside).any fun w => match w with
    | .atomic _ _ _ _ _ _ ord _ st => AOrd.isRel ord && (match st with | .acks => false | _ => true)
    | _ => false

/-- The operation may run its next row: on an engine or in the core, after every operation it stands behind; a row of TSTORE enters the phase buffer
after the publication of a release issued before it. -/
def State.opReady (s : State) (o : TileRec) : Bool :=
  !o.placeholder && !(o.kind == .store && (s.ctx (strandCtx o.ctx)).releasing) && decide (o.row < o.count) && o.asked.isEmpty && (o.kind == .zero || o.engine.isSome) && s.core.ops.all fun p => !s.behind o p

/-- Run the next row of an operation. After an uncorrectable error the rows left hold free values (R224 SUB 2); `result` is then empty. -/
def State.runTileRow (s : State) (o : TileRec) : State :=
  let r := o.row
  let n := o.cols
  let lost := o.result != some [] && s.rowLost o r
  let (s, o) := if lost then
      let p := { o with result := some [] }
      ((s.opError o 2 r).setOp p, p)
    else (s, o)
  if o.result = some [] then
    let (l, s) := s.freeRow n
    if o.kind = .store then s.storeRow o r l else s.writeRow o r l
  else match o.kind with
    | .zero => s.writeRow o r (List.replicate 64 0)
    | .mma f => s.writeRow o r (s.mmaRow o f r)
    | .load => s.loadRow o r
    | .store => s.storeRow o r ((List.range n).map fun j => s.accGet o.dst r j)
    | .transpose | .addF32 | .addI32 =>
      let l := match o.result with | some l => l | none => s.movedRows o
      let o := { o with result := some l }
      (s.setOp o).writeRow o r ((l.drop (r * n)).take n)

/-- The operation of a number. -/
def State.findOp (s : State) (op : Nat) : Option TileRec := s.core.ops.find? fun o => o.id == op

/-- TILE_ROW_FINAL (R144, R200): the next row of an operation becomes final. -/
def execTileRowFinal (op : Nat) (s : State) : Out :=
  match s.findOp op with
  | some o => .next (if s.opReady o then s.runTileRow o else s)
  | none => .next s

/-- TILE_OP_RETIRE (R223): an operation whose rows are final retires. -/
def execTileOpRetire (op : Nat) (s : State) : Out :=
  match s.findOp op with
  | some o => .next (if !o.placeholder ∧ o.count ≤ o.row then s.retireOp o else s)
  | none => .next s

/-! ### Other dies -/

/-- A reply to what a TLOAD asked: its bytes, or a fault of the row (R230). -/
def State.tileReply (s : State) (tag : Nat) (r : Reply) : State :=
  match s.core.ops.find? fun o => o.asked.any fun e => e.tag == tag with
  | none => s
  | some o =>
    match o.asked.find? fun e => e.tag == tag with
    | none => s
    | some e =>
      match r with
      | .data bs =>
        let bs := bs.take (if o.kind = .store then 1 else e.len)
        s.setOp { o with asked := o.asked.filter fun a => a.tag != tag, buf := o.buf.take e.pos ++ bs ++ o.buf.drop (e.pos + bs.length) }
      | .failed k n =>
        let a := o.rowAddr o.row
        let at_ := if o.kind = .store then (((s.farParts o (rowPieces a (4 * o.cols)))[e.pos]?).map fun q => q.1.sec * 32 + q.1.at_).getD a else a + e.pos
        s.rowFault o false ⟨BitVec.ofNat 64 at_, k, n⟩

/-- The operations of a context that read from a departed die end with the unreachable-peer strand fault (R94, R352). -/
def State.dropTiles (s : State) (c : Fin 4) : State :=
  let lost (o : TileRec) : Option Piece := (rowPieces (o.rowAddr o.row) (4 * o.cols)).find? fun p =>
    match s.dieOf o.who.job (p.sec / 2 ^ 47) with | .gone _ _ => true | _ => false
  (s.core.ops.filter fun o => o.ctx == c && !o.asked.isEmpty).foldl (fun s o => match lost o with
    | some p => if s.core.ops.contains o then s.rowFault o true ⟨BitVec.ofNat 64 (p.sec * 32 + p.at_), 0, 0⟩ else s
    | none => s) s

end Sys2Proof.Machine
end

