-- ==== Sys2Proof/Machine/Fabric.lean ====
section
/-! DEFINITION. The fabric instructions (R358 to R361) and the fabric events: bindings and messages (R340, R343), groups and the
dark interval (R344, R351, R352), the quiet wave (R349), acknowledgements (R272). -/

namespace Sys2Proof.Machine

/-! ### Groups -/

/-- The packages of the connected group in group order (R342, R395). -/
def Fabric.members (f : Fabric) : List (BitVec 16) := match f.table with | none => [f.fid] | some t => t
/-- The leader's package, member 0 (R342, R395). -/
def Fabric.leader (f : Fabric) : BitVec 16 := f.members.headD f.fid
/-- This die is the leader's die 0, which runs the waves and holds JFLAGS (R349, R360). -/
def State.isLeader (s : State) : Bool := s.fi.fid == s.fi.leader && s.core.die == 0

def State.modFi (s : State) (f : Fabric → Fabric) : State := { s with fi := f s.fi }
def State.modJob (s : State) (j : BitVec 12) (f : Job → Job) : State := { s with fi := s.fi.setJob j (f (s.fi.job j)) }

/-- A fibre of the link is live: it has at least 4 live wavelengths (R357). -/
def Link.live (l : Link) (k : Fin 4) : Bool := decide (4 ≤ popcount (l.masks.get k).toNat 16)
/-- The link's live fibres (R353). -/
def Link.fibres (l : Link) : Nat := (List.finRange 4).foldl (fun a k => a + (if l.live k then 2 ^ k.val else 0)) 0
/-- The link carries traffic: state 2 or 3 of LSTAT (log 27). -/
def Link.isUp (l : Link) : Bool := l.state == .up || l.state == .degraded
def LinkState.code : LinkState → Nat | .down => 0 | .locking => 1 | .up => 2 | .degraded => 3

/-! ### Instructions -/

/-- The number of the newest wave of a job that this die knows of (log 21). -/
def State.waveNow (s : State) (j : BitVec 12) : Nat :=
  let x := s.fi.job j
  max x.waves ((x.decl.map (·.number)).getD 0)

/-- QWAIT (R359): hold until a quiet declaration of a wave begun after issue. -/
def execQwait (g : BitVec 4) (s : State) : Out :=
  perform (.qwait g) g s fun s =>
    some (s.modMe fun x => { x with waits := x.waits ++ [.quiet (s.waveNow (s.who s.core.cur).job)] })

/-- JSET (R359 to R361): flag bits to the leader; seals. -/
def execJset (f : Reg1) (s : State) : Out :=
  perform (.jset f) f.g s fun s => do
    let (v, s) ← s.readX f.i f.a
    let c := s.core.cur
    let job := (s.who c).job
    if !s.fi.inGroup s.fi.leader then some (s.faultStop 2 0)
    else
      let s := s.seal c
      if s.isLeader then some (s.modJob job fun x => { x with jflags := x.jflags ||| v })
      else some (s.send ⟨s.fi.leader, 0, false, .jset job v⟩)

/-- RFLUSH (R359): an acknowledgement request on every stream with unacknowledged sectors; no hold. -/
def execRflush (g : BitVec 4) (s : State) : Out := perform (.rflush g) g s fun s => some (s.askAcks s.core.cur)

/-- RWAIT (R359): RFLUSH, then hold until the outstanding count is zero. -/
def execRwait (g : BitVec 4) (s : State) : Out :=
  perform (.rwait g) g s fun s => some ((s.askAcks s.core.cur).modMe fun x => { x with waits := x.waits ++ [.acks true] })

/-- QMARK (R359, R361): a marker on each selected link that is up; seals. -/
def execQmark (f : Reg1) (s : State) : Out :=
  perform (.qmark f) f.g s fun s => do
    let (v, s) ← s.readX f.i f.a
    let job := (s.who s.core.cur).job
    let s := s.seal s.core.cur
    some ((List.finRange 16).foldl (fun s l =>
      let k := s.fi.links.get l
      if bitAt v l.val && k.isUp then s.send ⟨k.peerFid, 0, false, .marker job l.val⟩ else s) s)

/-- The items of QSTAT (R359). -/
def State.qstatItem (s : State) (job : BitVec 12) (item : Nat) : Word :=
  let x := s.fi.job job
  match item with
  | 0 => match x.decl with | some d => BitVec.ofNat 64 (b2n d.quiet * 2 ^ 63 + d.number % 2 ^ 48) | none => 0
  | 1 => x.i.setWidth 64
  | 2 => x.c.setWidth 64
  | 3 => x.d.setWidth 64
  | 4 => match x.decl with | some d => d.jflags | none => 0
  | _ => 0

/-- QSTAT (R359), latency 2. -/
def execQstat (f : Reg2) (s : State) : Out :=
  perform (.qstat f) f.g s fun s => do
    let (v, s) ← s.readX f.i f.a
    s.writeX f.i f.d (s.qstatItem (s.who s.core.cur).job (fieldOf v 2 0)) 2

/-- The words of GRPQ (R359). -/
def Fabric.grpq (f : Fabric) (v : Word) : Word :=
  let t := f.table.getD []
  if bitAt v 63 then BitVec.ofNat 64 (f.seq.toNat * 2 ^ 32 + f.idx.toNat * 2 ^ 16 + t.length % 2 ^ 10)
  else ((t[fieldOf v 9 0]?).getD 0).setWidth 64

/-- GRPQ (R359), latency 2. -/
def execGrpq (f : Reg2) (s : State) : Out :=
  perform (.grpq f) f.g s fun s => do
    let (v, s) ← s.readX f.i f.a
    s.writeX f.i f.d (s.fi.grpq v) 2

/-- The items of LSTAT (R359). -/
def Link.item (l : Link) (job : BitVec 12) (item : Nat) : Word :=
  match item with
  | 0 => BitVec.ofNat 64 (getAt 0 l.markers job.toNat % 256 * 2 ^ 32 + l.peerFid.toNat * 2 ^ 16 + l.peerLink.toNat * 2 ^ 8 + l.fibres * 16 + LinkState.code l.state)
  | 1 => BitVec.ofNat 64 ((List.finRange 4).foldl (fun a k => a + (l.masks.get k).toNat * 2 ^ (16 * k.val)) 0)
  | 2 => l.replays
  | _ => l.crcErrors

/-- LSTAT (R359), latency 2. -/
def execLstat (f : Reg2) (s : State) : Out :=
  perform (.lstat f) f.g s fun s => do
    let (v, s) ← s.readX f.i f.a
    s.writeX f.i f.d ((s.fi.links.get (fin16 (BitVec.ofNat 4 v.toNat))).item (s.who s.core.cur).job (fieldOf v 5 4)) 2

/-! ### Bindings and messages -/

/-- PORT_BIND_WRITE (R340): ignored unless the context is idle and the port empty. -/
def execPortBindWrite (c : Fin 4) (n : Fin 16) (v : Word) (s : State) : Out :=
  let p := s.port (strandCtx c) n
  if s.ctxCode c = 0 ∧ p.pushed = [] ∧ p.unsent = [] ∧ p.queue = [] then
    let on := bitAt v 63
    let peer : UnitId := ⟨BitVec.ofNat 12 (fieldOf v 59 48), BitVec.ofNat 4 (fieldOf v 47 44), BitVec.ofNat 3 (fieldOf v 42 40),
      BitVec.ofNat 2 (fieldOf v 37 36), BitVec.ofNat 4 (fieldOf v 19 16)⟩
    let q : Port := { p with bound := on, peer := peer, dep := if on then false else p.dep, cred := if on then 64 else p.cred }
    .next (s.setPort (strandCtx c) n q)
  else .next s

/-- PORT_MESSAGE_ARRIVE (R343): queued whole; dropped, counted and credited back where the port is unbound or the context holds no
strand of the job. -/
def execPortMessageArrive (m : PortMsg) (s : State) : Out :=
  let c := strandCtx m.ctx
  let p := s.port c m.port
  if p.bound ∧ s.heldJob c = some m.job then
    .next (s.setPort c m.port { p with queue := p.queue ++ [⟨m.src, m.job, m.words, false⟩] })
  else .next ((s.count m.job 0 0 1).creditBack m.job m.src m.words.length)

/-- CRED of a port rises; that of a departed peer stays 0 until the port is bound again (R343, R352). -/
def State.takeCredit (s : State) (c : Fin 5) (n : Fin 16) (words : Nat) : State :=
  let p := s.port c n
  if p.dep then s else s.setPort c n { p with cred := capAt 64 (p.cred + words) }

/-- PORT_CREDIT (R343): CRED rises and waiting messages go; in the dark interval a credit of another package is held (R351, R363). -/
def execPortCredit (c : Fin 4) (n : Fin 16) (words : Nat) (s : State) : Out :=
  let p := s.port (strandCtx c) n
  if s.darkFor p.job p.peer.ldie.toNat then .next (s.modFi fun f => { f with heldCreds := f.heldCreds ++ [(c, n, words)] })
  else .next ((s.takeCredit (strandCtx c) n words).flushPort (strandCtx c) n 64)

/-! ### Departures -/

/-- A die outside the group (R341, R352, R357). -/
def State.departedIn (s : State) (m ld : Nat) : Bool := match s.dieIn m ld with | .gone _ _ => true | _ => false
def State.departed (s : State) (job : BitVec 12) (ld : Nat) : Bool := s.departedIn (s.dieMap job) ld

/-- Bindings of one context to departed peers (R352): DEP set, CRED 0, waiting messages discarded by the sender. -/
def State.dropBindings (s : State) (c : Fin 5) : State :=
  match s.heldJob c with
  | none => s
  | some job =>
    (List.finRange 16).foldl (fun s n =>
      let p := s.port c n
      if p.bound && s.departed job p.peer.ldie.toNat then
        (s.setPort c n { p with dep := true, cred := 0, unsent := [] }).count p.job 0 0 p.unsent.length
      else s) s

/-- Sectors of one context sent to a departed die: counted as discarded, taken from FI_OUTST, noted for the next PHASE, RWAIT or
DONE (R352). -/
def State.dropFlights (s : State) (c : Fin 5) : State :=
  let gone := s.core.flying.filter fun f => f.ctx == c && s.departed f.job f.die.toNat
  match gone with
  | [] => s
  | f :: _ =>
    let s := { s with core := { s.core with flying := s.core.flying.filter fun f => !gone.contains f } }
    let s := (gone.filter (·.counted)).foldl (fun (s : State) f => s.count f.job 0 0 1) s
    let s := s.settleL2 gone
    s.modCtx c fun x =>
      { x with outst := x.outst - BitVec.ofNat 32 gone.length,
               streams := x.streams.filter fun e => !gone.any fun g => g.die == e.1,
               lost := match x.lost with | none => some (f.addr, gone.length) | some (a, n) => some (a, n + gone.length) }

/-- A request to a departed die ends with the unreachable-peer strand fault (R94; log 22); an atomic is counted as discarded (R348). -/
def State.dropRequests (s : State) (c : Fin 5) : State :=
  let job := (s.who c).job
  match (s.ctx c).reqs.filter fun r => s.departed job (fieldOf r.addr 63 52) with
  | [] => s
  | r :: l =>
    let n := ((r :: l).filter fun r => match r.kind with | .atomic _ => true | _ => false).length
    (if n = 0 then s else s.count job 0 0 n).faultHere c 2 r.addr

/-- Packets that wait to leave for a package out of the group are discarded, and the sender counts those of a message that nothing else of it
accounts for (R348, R352): sectors, atomics and rows are counted with what awaits them. A marker goes with its link. -/
def State.dropOutbox (s : State) : State :=
  let stays (p : Packet) : Bool := (match p.body with | .marker _ _ => true | _ => false) || p.fid == s.fi.fid || s.fi.inGroup p.fid
  let gone := s.fi.outbox.filter fun p => !stays p
  let s := s.modFi fun f => { f with outbox := f.outbox.filter stays }
  gone.foldl (fun (s : State) p => match p.body with
    | .port m _ => s.count m.job 0 0 1
    | .pavane m _ => s.count m.job 0 0 1
    | .pvCredit j _ => s.count j 0 0 1
    | _ => s) s

/-- Entries that wait at a departed owner die fail with the kind unreachable peer (R299): the strand ends. -/
def State.endAway (s : State) (a : AwayRec) (sub : Nat) : State :=
  let w0 := s.devWord a.q.addr
  let w1 := s.devWord (a.q.addr + 8)
  let w2 := s.devWord (a.q.addr + 16)
  let lrec := fieldOf w1 39 6 * 64
  let job : BitVec 12 := BitVec.ofNat 12 (fieldOf w1 63 52)
  let s := { s with dl := { s.dl with away := s.dl.away.filter fun b => b.tag != a.tag } }
  let r : Record := ⟨1, sub, job, BitVec.ofNat 13 (fieldOf w0 63 51), a.q.vf, a.q.launch, BitVec.ofNat 32 w2.toNat, a.q.idx,
    pcWord (BitVec.ofNat 64 (fieldOf w0 39 2 * 4)) (bitAt w2 32), a.addr, a.cause⟩
  let s := s.log a.q.vf r
  let s := { s with core := { s.core with ctxs := s.core.ctxs.map fun (x : Ctx) => if x.reserved = some a.q.addr then { x with reserved := none } else x } }
  let s := s.updateLoop lrec true
  let t : Strand := ⟨BitVec.ofNat 13 (fieldOf w0 63 51), a.q.vf, a.q.prio, job, lrec, 0, BitVec.ofNat 32 w2.toNat, a.q.idx, a.q.point, a.q.launch,
    a.q.place.isSome, a.q.task, a.q.stage, a.q.addr⟩
  let s := s.countEnd ((a.q.place.map strandCtx).getD svc) t true
  s.cancelOwned t

/-- The Pavane peers (R332): a departed one loses its V and its count. -/
def State.dropPavane (s : State) : State :=
  let p := s.pv
  let gone (r : Word) : Bool := bitAt r 63 && s.departed p.job (fieldOf r 11 0)
  s.modPv fun p => { p with up := if gone p.up then withField p.up 63 63 0 else p.up, upc := if gone p.up then 0 else p.upc,
                            down := if gone p.down then withField p.down 63 63 0 else p.down, dnc := if gone p.down then 0 else p.dnc }

/-- The fabric job of a launch record (R12). -/
def Launch.job (l : Launch) : BitVec 12 := BitVec.ofNat 12 (fieldOf ((l.record[9]?).getD 0) 43 32)

/-- Once no write-back of the device is on its way, a range shot down is acknowledged to its initiator (R300). -/
def State.payShoot (s : State) : State :=
  if s.core.flying.any fun f => f.ctx == svc then s
  else
    let owed := s.dl.shootOwed
    let s := { s with dl := { s.dl with shootOwed := [] } }
    owed.foldl (fun s o => match o with
      | none => s.later .shootDownAck
      | some (fid, die) => s.send ⟨fid, die, false, .shootAck⟩) s

/-- Everything that a departure ends on this die (R294, R299, R332, R352). -/
def State.departures (s : State) : State :=
  let s := ((List.finRange 5).foldl State.dropBindings s).dropOutbox
  let s := (List.finRange 5).foldl State.dropFlights s
  let s := (List.finRange 5).foldl State.dropRequests s
  let s := (List.finRange 4).foldl State.dropChannels s
  let s := (List.finRange 4).foldl State.dropTiles s
  let s := s.dropPavane.payShoot
  let s := (s.dl.away.filter fun a => s.departed (BitVec.ofNat 12 (fieldOf (s.devWord (a.q.addr + 8)) 63 52)) (fieldOf a.addr 63 52)).foldl
    (fun s a => s.endAway a 2) s
  (s.dl.pool.filter (·.state == .running)).foldl (fun s l =>
    (l.open_.filter fun d => s.departedIn l.dmap d).foldl (fun s d => s.later (.sublaunchEnded l.id d 0 1)) s) s

/-- The dark interval begins (R351): port messages, Pavane outputs and credits for other packages wait in the order of their sending. -/
def State.setDark (s : State) : State := s.modFi fun f => { f with dark := true }

/-- The dark interval ends (R352). -/
def State.clearDark (s : State) : State :=
  if !s.fi.dark then s
  else
    let creds := s.fi.heldCreds
    let credits := s.pv.heldCredits
    let s := s.modFi fun f => { f with dark := false, heldCreds := [] }
    let s := (s.modPv fun p => { p with heldCredits := [] }).departures
    let s := credits.foldl State.freeCredit s
    let s := creds.foldl (fun (s : State) e => s.takeCredit (strandCtx e.1) e.2.1 e.2.2) s
    (List.finRange 5).foldl (fun s c => (List.finRange 16).foldl (fun s n => s.flushPort c n 64) s) s

/-- DARK_SET (R351). -/
def execDarkSet (s : State) : Out := .next s.setDark
/-- DARK_CLEAR (R352). -/
def execDarkClear (s : State) : Out := .next s.clearDark

/-- NO_ROUTE_REACHES_MEMBER (R357): the member is treated as departed; a wave in progress ends (R349). -/
def execNoRouteReachesMember (fid : BitVec 16) (s : State) : Out :=
  .next (s.modFi fun f => { f with cut := if f.cut.contains fid then f.cut else fid :: f.cut, waves := [] }).departures

/-! ### Group tables -/

/-- The check of a table (R344): the error code, 0 when it is accepted. -/
def tableError (fid : BitVec 16) (count : Nat) (t : List (BitVec 16)) : Nat :=
  if count = 0 ∨ 512 < count then 3 else if !t.contains fid then 1 else if t.eraseDups.length ≠ t.length then 2 else 0

/-- GROUP_LOAD (R344): COUNT, BASE and DARK are written; the load is tested under the DARK that the write leaves when it sets it, and
under the old DARK when it clears it. -/
def execGroupLoad (v : Word) (s : State) : Out :=
  let s := s.modFi fun f => { f with count := BitVec.ofNat 10 (fieldOf v 51 42), base := BitVec.ofNat 34 (fieldOf v 39 6) }
  let on := bitAt v 62
  let s := if on then s.setDark else s
  let n := fieldOf v 51 42
  let t := (List.range (capAt 512 n)).map fun i => BitVec.ofNat 16 (s.devWord (fieldOf v 39 6 * 64 + 8 * i)).toNat
  let e := if s.fi.dark || s.fi.table.isNone then tableError s.fi.fid n t else 4
  let s := s.modFi fun f =>
    if e ≠ 0 then { f with err := BitVec.ofNat 4 e }
    else { f with err := 0, table := some t, idx := BitVec.ofNat 10 (t.idxOf f.fid), seq := f.seq + 1, waves := [], cut := [],
                  jobs := f.jobs.filterMap (fun e =>
                    let j : Job := { e.2 with jflags := 0, decl := e.2.decl.map fun d => { d with jflags := 0 } }
                    if j = Job.reset then none else some (e.1, j)),
                  links := f.links.map fun l => { l with markers := [] } }
  .next (if on then s else s.clearDark)

/-- FI_GROUP written without GO (R344): the fields, and the dark interval as DARK says. -/
def State.writeGroup (s : State) (v : Word) : State :=
  let s := s.modFi fun f => { f with count := BitVec.ofNat 10 (fieldOf v 51 42), base := BitVec.ofNat 34 (fieldOf v 39 6) }
  if bitAt v 62 then s.setDark else s.clearDark

/-- JOB_COUNTER_CLEAR (R339, R340, R360): ignored while a strand of the job runs on the die. -/
def execJobCounterClear (job : BitVec 12) (s : State) : Out :=
  let busy := ((List.finRange 5).any fun c => ((s.ctx c).strand.any fun t => t.job == job)) || s.dl.subs.any fun u => u.job == job
  if busy then .next s
  else .next (s.modJob job fun x => { x with i := 0, c := 0, d := 0, act := false, jflags := if s.isLeader then 0 else x.jflags })

/-! ### The quiet wave -/

/-- The job's table entry is enabled (R297). -/
def State.jobOn (s : State) (j : BitVec 12) : Bool :=
  let e := s.jobEntry j
  bitAt e 63 && fieldOf e 62 46 == 0 && fieldOf e 5 0 == 0

/-- A QWAIT of the job waits, on this core or on another. -/
def State.qwaits (s : State) (j : BitVec 12) : Bool :=
  s.fi.qwaitElse.contains j || (List.finRange 5).any fun c => (s.who c).job == j && (s.ctx c).waits.any fun w => match w with | .quiet _ => true | _ => false

/-- A wave of the job falls due at the leader (R349). -/
def State.waveDue (s : State) (j : BitVec 12) : Bool :=
  s.isLeader && s.jobOn j && !(s.fi.waves.any fun w => w.job == j) &&
    (s.qwaits j || decide ((s.fi.job j).began + s.fi.qwint.toNat * 1024 ≤ s.dl.dcyc.toNat))

/-- Send a wave flit to the die it visits next (R349): this die's own visit is an event. -/
def State.forward (s : State) (w : WaveMsg) : State :=
  let fid := if w.member < s.fi.members.length then (s.fi.members[w.member]?).getD s.fi.fid else s.fi.leader
  let die : BitVec 2 := if w.member < s.fi.members.length then w.die else 0
  if fid = s.fi.fid ∧ die = s.core.die then s.later (.quietWaveVisit w) else s.send ⟨fid, die, false, .wave w⟩

/-- QUIET_WAVE_START (R349). -/
def execQuietWaveStart (job : BitVec 12) (s : State) : Out :=
  if s.waveDue job then
    let n := s.waveNow job + 1
    let s := s.modJob job fun x => { x with waves := n, began := s.dl.dcyc.toNat }
    let s := s.modFi fun f => { f with waves := f.waves ++ [⟨job, n, 0⟩] }
    .next (s.forward ⟨job, false, false, n, 0, 0, 0, 0⟩)
  else .next s

/-- Broadcast a declaration to every die of the group (R349). -/
def State.broadcast (s : State) (d : DeclMsg) : State :=
  s.fi.members.foldl (fun s fid => (List.range 4).foldl (fun s k =>
    if fid = s.fi.fid ∧ BitVec.ofNat 2 k = s.core.die then s.later (.quietDeclaration d)
    else s.send ⟨fid, BitVec.ofNat 2 k, false, .declaration d⟩) s) s

/-- A wave flit back at the leader after the last die of a pass (R349): the second pass, or the declaration. -/
def State.passEnd (s : State) (w : WaveMsg) : State :=
  match s.fi.waves.find? fun x => x.job == w.job && x.number == w.number with
  | none => s
  | some v =>
    if !w.second then
      let s := s.modFi fun f => { f with waves := f.waves.map fun x => if x = v then { x with sum1 := w.sum } else x }
      s.forward ⟨w.job, true, false, w.number, w.sum, 0, 0, 0⟩
    else
      let quiet := v.sum1 == 0 && w.sum == 0 && !w.act
      let s := s.modFi fun f => { f with waves := f.waves.filter fun x => x.job != w.job }
      s.broadcast ⟨w.job, quiet, w.number, (s.fi.job w.job).jflags⟩

/-- QUIET_WAVE_VISIT (R349): the die adds I − C − D as one step; pass 1 clears ACT, pass 2 reads it. -/
def execQuietWaveVisit (w : WaveMsg) (s : State) : Out :=
  if s.fi.members.length ≤ w.member then .next (s.passEnd w)
  else
    let x := s.fi.job w.job
    let sum := w.sum + (x.i.toNat : Int) - (x.c.toNat : Int) - (x.d.toNat : Int)
    let s := s.modJob w.job fun x => { x with act := if w.second then x.act else false, waves := max x.waves w.number }
    let last := w.die == 3
    .next (s.forward { w with sum := sum, act := if w.second then w.act || x.act else w.act,
                              member := if last then w.member + 1 else w.member, die := w.die + 1 })

/-- QUIET_DECLARATION (R349). -/
def execQuietDeclaration (d : DeclMsg) (s : State) : Out :=
  .next (s.modJob d.job fun x => { x with decl := some ⟨d.quiet, d.number, d.jflags⟩, waves := max x.waves d.number })

/-- JSET_ARRIVE (R360): ORed in at the leader's die 0, discarded elsewhere. -/
def execJsetArrive (job : BitVec 12) (bits : Word) (s : State) : Out :=
  if s.isLeader then .next (s.modJob job fun x => { x with jflags := x.jflags ||| bits }) else .next s

/-! ### Acknowledgements -/

/-- The number of a stream's source (R272): a core of a logical die. -/
def streamKey (u : UnitId) : Nat := u.ldie.toNat * 128 + u.cluster.toNat * 8 + u.core.toNat
def RStream.none : RStream := ⟨0, 0, 0⟩
def State.rstream (s : State) (u : UnitId) : RStream := getAt RStream.none s.fi.rstreams (streamKey u)
def State.setRstream (s : State) (u : UnitId) (r : RStream) : State :=
  s.modFi fun f => { f with rstreams := putAt RStream.none f.rstreams (streamKey u) r }

/-- Send a packet to a unit's die under a job. -/
def State.sendTo (s : State) (job : BitVec 12) (u : UnitId) (b : Body) : State :=
  match s.dieOf job u.ldie.toNat with
  | .other fid die => s.send ⟨fid, die, false, b⟩
  | .own => s.send ⟨s.fi.fid, s.core.die, false, b⟩
  | _ => s

/-- Return the cumulative acknowledgement of a stream (R272). The stream's die is named under the die map of job `job`. -/
def State.ackStream (s : State) (job : BitVec 12) (u : UnitId) : State :=
  let r := s.rstream u
  (s.setRstream u { r with unacked := 0 }).sendTo job u (.ack job u false (r.performed % 2 ^ 32) 0)

/-- The job under which a source die is named: the first enabled job whose die map describes it (log 28). -/
def State.jobOf (s : State) (u : UnitId) : BitVec 12 :=
  BitVec.ofNat 12 (((s.fi.jobs.map (·.1)).find? fun j => s.reachable (BitVec.ofNat 12 j) u.ldie.toNat).getD 0)

/-- ACKNOWLEDGEMENT_REQUEST (R272): answered at once. -/
def execAcknowledgementRequest (src : UnitId) (s : State) : Out := .next (s.ackStream (s.jobOf src) src)

/-- A stream has unacknowledged sectors, and 4096 die cycles have passed since the last one (R272). -/
def State.ackDue (s : State) (r : RStream) : Bool := r.unacked != 0 && decide (r.seen + 4096 ≤ s.dl.dcyc.toNat)

/-- ACK_TIMEOUT (R272). -/
def execAckTimeout (src : UnitId) (s : State) : Out :=
  if s.ackDue (s.rstream src) then .next (s.ackStream (s.jobOf src) src) else .next s

/-- Take the oldest `n` sectors of a stream as acknowledged (R272). -/
def ackFlights (l : List Flight) (die : BitVec 12) (n : Nat) : List Flight × List Flight :=
  match l with
  | [] => ([], [])
  | f :: r =>
    if n ≠ 0 ∧ f.die = die then
      let (a, k) := ackFlights r die (n - 1)
      (f :: a, k)
    else
      let (a, k) := ackFlights r die n
      (a, f :: k)

/-- One sector of a context is acknowledged. -/
def Ctx.acknowledged (x : Ctx) (die : BitVec 12) : Ctx :=
  { x with outst := x.outst - 1, streams := (x.streams.map fun e => if e.1 = die then (e.1, e.2 - 1) else e).filter fun e => e.2 != 0 }

/-- A cumulative acknowledgement of a store stream (R272). -/
def State.ackStores (s : State) (die : BitVec 12) (count : Nat) : State :=
  let old := getAt 0 s.core.acked die.toNat
  let n := (count + 2 ^ 32 - old % 2 ^ 32) % 2 ^ 32
  let (a, k) := ackFlights s.core.flying die n
  let s := { s with core := { s.core with flying := k, acked := putAt 0 s.core.acked die.toNat (count % 2 ^ 32) } }
  (a.foldl (fun s f => s.modCtx f.ctx fun x => x.acknowledged die) s).settleL2 a

end Sys2Proof.Machine
end

