-- ==== Sys2Proof/Machine/Integer.lean ====
section
/-! DEFINITION. Integer, constant, compare, predicate and copy instructions of the X slot (R70, R78 to R86, R91 to R93) and of
the Y slot (R100, R101). -/

namespace Sys2Proof.Machine

/-! ### Results -/

/-- Shift amount: the six low bits of an operand (R78). -/
def shamt (b : Word) : Nat := b.toNat % 64

/-- Rotate left. -/
def rotl64 (a : Word) (n : Nat) : Word := a.rotateLeft (n % 64)

/-- |s(A) − s(B)|, exact (R78). -/
def absDiff (a b : Word) : Word := BitVec.ofNat 64 (a.toInt - b.toInt).natAbs

/-- High half of the signed product, of the unsigned product (R79). -/
def mulHigh (a b : Word) : Word := BitVec.ofInt 64 (a.toInt * b.toInt / 2 ^ 64)
def mulHighN (a b : Word) : Word := BitVec.ofNat 64 (a.toNat * b.toNat / 2 ^ 64)

/-- Quotients and remainders; the quotient truncates toward zero, a remainder has the sign of the dividend (R79). -/
def divS (a b : Word) : Word := if b = 0 then BitVec.allOnes 64 else BitVec.ofInt 64 (a.toInt.tdiv b.toInt)
def divU (a b : Word) : Word := if b = 0 then BitVec.allOnes 64 else a / b
def remS (a b : Word) : Word := if b = 0 then a else BitVec.ofInt 64 (a.toInt.tmod b.toInt)
def remU (a b : Word) : Word := if b = 0 then a else a % b

/-- Leading zeros of the low `n` bits. -/
def leadingZeros (v n : Nat) : Nat :=
  match n with
  | 0 => 0
  | k + 1 => if v.testBit k then 0 else leadingZeros v k + 1

/-- Trailing zeros among `n` bits from bit `i`. -/
def trailingZeros (v i n : Nat) : Nat :=
  match n with
  | 0 => 0
  | k + 1 => if v.testBit i then 0 else trailingZeros v (i + 1) k + 1

/-- Bit i of the result is bit n − 1 − i (R80). -/
def reverseBits (v n : Nat) : Nat :=
  match n with
  | 0 => 0
  | k + 1 => reverseBits (v / 2) k + (if v.testBit 0 then 2 ^ k else 0)

/-- Byte j of the result is byte 7 − j (R80). -/
def swapBytes (a : Word) : Word := BitVec.ofNat 64 (ofBytes (bytesOf a 8).reverse)

/-- The low `n` bits, extended (R53). -/
def signExt (a : Word) (n : Nat) : Word := (a.setWidth n).signExtend 64
def zeroExt (a : Word) (n : Nat) : Word := BitVec.ofNat 64 (a.toNat % 2 ^ n)

/-- Bits [pos + w − 1 : pos] replaced by the low `w` bits of `a` (R81). -/
def insertField (d a : Word) (pos w : Nat) : Word :=
  mergeBits d (a <<< pos) (BitVec.ofNat 64 ((2 ^ w - 1) * 2 ^ pos))

/-! ### Forms -/

/-- Two X sources, one X destination (R78, R79). -/
def formXxx (f : Reg3) (op : Word → Word → Word) (lat : Nat) (s : State) : Option State := do
  let (a, s) ← s.readX f.i f.a
  let (b, s) ← s.readX f.i f.b
  s.writeX f.i f.d (op a b) lat

/-- One X source, one X destination (R80). -/
def formXx (i : Bool) (d a : BitVec 5) (op : Word → Word) (lat : Nat) (s : State) : Option State := do
  let (v, s) ← s.readX i a
  s.writeX i d (op v) lat

/-- Three predicates (R85). -/
def formPred (d : BitVec 4) (v : Bool) (s : State) : Option State := some (s.land (.p (fin16 d) v) 1)

/-- Two Y sources, one Y destination (R100). -/
def formYyy (f : Reg3) (op : Word → Word → Word) (s : State) : Option State :=
  some (s.land (.y (s.homeY f.i f.d) (op (s.readY f.i f.a) (s.readY f.i f.b))) 1)

/-- Where XMOV and YMOV write (R91, R101); an X destination that names a bound port takes the word at issue. -/
def State.writeMov (s : State) (i toX : Bool) (d : MovDst) (v : Word) : Option State :=
  match d with
  | .file r => if toX then s.writeX i r v 2 else some (s.land (.y (s.homeY i r) v) 2)
  | .m r => some (s.land (.m (fin16 r) v) 2)
  | .c r => some (s.land (.c (fin16 (rebase i r s.me.cb)) v) 2)
  | .vb r => some (s.land (.v (s.homeV i r) (BitVec.allOnes 2048) (ofLanes 64 32 fun _ => v.toNat)) 2)
  | .vl r l => some (s.land (.v (s.homeV i r) (BitVec.ofNat 2048 ((2 ^ 64 - 1) * 2 ^ (64 * l.toNat))) (BitVec.ofNat 2048 (v.toNat * 2 ^ (64 * l.toNat)))) 2)

/-! ### Meanings -/

/-- NOP (R71): no operation. -/
def execNop (g : BitVec 4) (s : State) : Out :=
  perform (.nop g) g s fun s => some s

/-- ADD (R78): (A + B) mod 2^64, latency 1. -/
def execAdd (f : Reg3) (s : State) : Out :=
  perform (.add f) f.g s (formXxx f (fun a b => a + b) 1)

/-- SUB (R78): (A − B) mod 2^64, latency 1. -/
def execSub (f : Reg3) (s : State) : Out :=
  perform (.sub f) f.g s (formXxx f (fun a b => a - b) 1)

/-- AND (R78): A AND B, latency 1. -/
def execAnd (f : Reg3) (s : State) : Out :=
  perform (.and f) f.g s (formXxx f (fun a b => a &&& b) 1)

/-- OR (R78): A OR B, latency 1. -/
def execOr (f : Reg3) (s : State) : Out :=
  perform (.or f) f.g s (formXxx f (fun a b => a ||| b) 1)

/-- XOR (R78): A XOR B, latency 1. -/
def execXor (f : Reg3) (s : State) : Out :=
  perform (.xor f) f.g s (formXxx f (fun a b => a ^^^ b) 1)

/-- ANDN (R78): A AND NOT B, latency 1. -/
def execAndn (f : Reg3) (s : State) : Out :=
  perform (.andn f) f.g s (formXxx f (fun a b => a &&& ~~~b) 1)

/-- ORN (R78): A OR NOT B, latency 1. -/
def execOrn (f : Reg3) (s : State) : Out :=
  perform (.orn f) f.g s (formXxx f (fun a b => a ||| ~~~b) 1)

/-- SHL (R78): A × 2^sh, latency 1. -/
def execShl (f : Reg3) (s : State) : Out :=
  perform (.shl f) f.g s (formXxx f (fun a b => a <<< shamt b) 1)

/-- SHR (R78): floor(A / 2^sh), latency 1. -/
def execShr (f : Reg3) (s : State) : Out :=
  perform (.shr f) f.g s (formXxx f (fun a b => a >>> shamt b) 1)

/-- SRA (R78): floor(s(A) / 2^sh), latency 1. -/
def execSra (f : Reg3) (s : State) : Out :=
  perform (.sra f) f.g s (formXxx f (fun a b => a.sshiftRight (shamt b)) 1)

/-- ROTL (R78): rotl64(A, sh), latency 1. -/
def execRotl (f : Reg3) (s : State) : Out :=
  perform (.rotl f) f.g s (formXxx f (fun a b => rotl64 a (shamt b)) 1)

/-- MIN (R78): the smaller signed, latency 1. -/
def execMin (f : Reg3) (s : State) : Out :=
  perform (.min f) f.g s (formXxx f (fun a b => if b.slt a then b else a) 1)

/-- MAX (R78): the larger signed, latency 1. -/
def execMax (f : Reg3) (s : State) : Out :=
  perform (.max f) f.g s (formXxx f (fun a b => if a.slt b then b else a) 1)

/-- MINN (R78): the smaller unsigned, latency 1. -/
def execMinn (f : Reg3) (s : State) : Out :=
  perform (.minn f) f.g s (formXxx f (fun a b => if b.ult a then b else a) 1)

/-- MAXN (R78): the larger unsigned, latency 1. -/
def execMaxn (f : Reg3) (s : State) : Out :=
  perform (.maxn f) f.g s (formXxx f (fun a b => if a.ult b then b else a) 1)

/-- ABSD (R78): the absolute difference, latency 1. -/
def execAbsd (f : Reg3) (s : State) : Out :=
  perform (.absd f) f.g s (formXxx f (absDiff) 1)

/-- MUL (R79), latency 3. -/
def execMul (f : Reg3) (s : State) : Out :=
  perform (.mul f) f.g s (formXxx f (fun a b => a * b) 3)

/-- MULH (R79), latency 3. -/
def execMulh (f : Reg3) (s : State) : Out :=
  perform (.mulh f) f.g s (formXxx f (mulHigh) 3)

/-- MULHN (R79), latency 3. -/
def execMulhn (f : Reg3) (s : State) : Out :=
  perform (.mulhn f) f.g s (formXxx f (mulHighN) 3)

/-- DIV (R79), latency 18. -/
def execDiv (f : Reg3) (s : State) : Out :=
  perform (.div f) f.g s (formXxx f (divS) 18)

/-- DIVN (R79), latency 18. -/
def execDivn (f : Reg3) (s : State) : Out :=
  perform (.divn f) f.g s (formXxx f (divU) 18)

/-- REM (R79), latency 18. -/
def execRem (f : Reg3) (s : State) : Out :=
  perform (.rem f) f.g s (formXxx f (remS) 18)

/-- REMN (R79), latency 18. -/
def execRemn (f : Reg3) (s : State) : Out :=
  perform (.remn f) f.g s (formXxx f (remU) 18)

/-- CLZ (R80), latency 1. -/
def execClz (f : Reg2) (s : State) : Out :=
  perform (.clz f) f.g s (formXx f.i f.d f.a (fun a => BitVec.ofNat 64 (leadingZeros a.toNat 64)) 1)

/-- CTZ (R80), latency 1. -/
def execCtz (f : Reg2) (s : State) : Out :=
  perform (.ctz f) f.g s (formXx f.i f.d f.a (fun a => BitVec.ofNat 64 (trailingZeros a.toNat 0 64)) 1)

/-- POPC (R80), latency 1. -/
def execPopc (f : Reg2) (s : State) : Out :=
  perform (.popc f) f.g s (formXx f.i f.d f.a (fun a => BitVec.ofNat 64 (popcount a.toNat 64)) 1)

/-- BREV (R80), latency 1. -/
def execBrev (f : Reg2) (s : State) : Out :=
  perform (.brev f) f.g s (formXx f.i f.d f.a (fun a => BitVec.ofNat 64 (reverseBits a.toNat 64)) 1)

/-- BSWAP (R80), latency 1. -/
def execBswap (f : Reg2) (s : State) : Out :=
  perform (.bswap f) f.g s (formXx f.i f.d f.a (swapBytes) 1)

/-- SEXTB (R80), latency 1. -/
def execSextb (f : Reg2) (s : State) : Out :=
  perform (.sextb f) f.g s (formXx f.i f.d f.a (fun a => signExt a 8) 1)

/-- SEXTH (R80), latency 1. -/
def execSexth (f : Reg2) (s : State) : Out :=
  perform (.sexth f) f.g s (formXx f.i f.d f.a (fun a => signExt a 16) 1)

/-- SEXTW (R80), latency 1. -/
def execSextw (f : Reg2) (s : State) : Out :=
  perform (.sextw f) f.g s (formXx f.i f.d f.a (fun a => signExt a 32) 1)

/-- ZEXTW (R80), latency 1. -/
def execZextw (f : Reg2) (s : State) : Out :=
  perform (.zextw f) f.g s (formXx f.i f.d f.a (fun a => zeroExt a 32) 1)

/-- EXTR (R81): the field zero-extended. -/
def execExtr (f : FieldOp) (s : State) : Out :=
  perform (.extr f) f.g s (formXx f.i f.d f.a (fun a => zeroExt (a >>> f.pos.toNat) (f.len.toNat + 1)) 1)

/-- EXTRS (R81): the field sign-extended. -/
def execExtrs (f : FieldOp) (s : State) : Out :=
  perform (.extrs f) f.g s (formXx f.i f.d f.a (fun a => signExt (a >>> f.pos.toNat) (f.len.toNat + 1)) 1)

/-- INSR (R81): the field of x[d] replaced; x[d] is read after x[a] (R47). -/
def execInsr (f : FieldOp) (s : State) : Out :=
  perform (.insr f) f.g s fun s => do
    let (a, s) ← s.readX f.i f.a
    let (d, s) ← s.readX f.i f.d
    s.writeX f.i f.d (insertField d a f.pos.toNat (f.len.toNat + 1)) 1

/-- ADDI (R82), latency 1. -/
def execAddi (f : RegImm) (s : State) : Out :=
  perform (.addi f) f.g s (formXx f.i f.d f.a (fun a => a + f.imm.signExtend 64) 1)

/-- ANDI (R82), latency 1. -/
def execAndi (f : RegImm) (s : State) : Out :=
  perform (.andi f) f.g s (formXx f.i f.d f.a (fun a => a &&& f.imm.signExtend 64) 1)

/-- ORI (R82), latency 1. -/
def execOri (f : RegImm) (s : State) : Out :=
  perform (.ori f) f.g s (formXx f.i f.d f.a (fun a => a ||| f.imm.signExtend 64) 1)

/-- XORI (R82), latency 1. -/
def execXori (f : RegImm) (s : State) : Out :=
  perform (.xori f) f.g s (formXx f.i f.d f.a (fun a => a ^^^ f.imm.signExtend 64) 1)

/-- SHLI (R82), latency 1. -/
def execShli (f : ShiftImm) (s : State) : Out :=
  perform (.shli f) f.g s (formXx f.i f.d f.a (fun a => a <<< f.amt.toNat) 1)

/-- SHRI (R82), latency 1. -/
def execShri (f : ShiftImm) (s : State) : Out :=
  perform (.shri f) f.g s (formXx f.i f.d f.a (fun a => a >>> f.amt.toNat) 1)

/-- SRAI (R82), latency 1. -/
def execSrai (f : ShiftImm) (s : State) : Out :=
  perform (.srai f) f.g s (formXx f.i f.d f.a (fun a => a.sshiftRight f.amt.toNat) 1)

/-- ROTLI (R82), latency 1. -/
def execRotli (f : ShiftImm) (s : State) : Out :=
  perform (.rotli f) f.g s (formXx f.i f.d f.a (fun a => rotl64 a f.amt.toNat) 1)

/-- MOVI (R83): the constant sign-extended. -/
def execMovi (f : Const16) (s : State) : Out :=
  perform (.movi f) f.g s fun s => s.writeX f.i f.d (f.imm.signExtend 64) 1

/-- MOVSH (R83): x[d] shifted left by 16, OR the constant. -/
def execMovsh (f : Const16) (s : State) : Out :=
  perform (.movsh f) f.g s fun s => do
    let (d, s) ← s.readX f.i f.d
    s.writeX f.i f.d (d <<< 16 ||| f.imm.setWidth 64) 1

/-- CMP (R84): a predicate, latency 1. -/
def execCmp (f : CmpReg) (s : State) : Out :=
  perform (.cmp f) f.g s fun s => do
    let (a, s) ← s.readX f.i f.a
    let (b, s) ← s.readX f.i f.b
    formPred f.d (Cond.holds f.cc a b) s

/-- CMPI (R84): a predicate from an immediate; its a field is never rebased. -/
def execCmpi (f : CmpImm) (s : State) : Out :=
  perform (.cmpi f) f.g s fun s => do
    let (a, s) ← s.readX false f.a
    formPred f.d (Cond.holds f.cc a (f.imm.signExtend 64)) s

/-- PAND (R85), latency 1. -/
def execPand (f : Pred3) (s : State) : Out :=
  perform (.pand f) f.g s fun s => formPred f.d (s.me.getP f.a && s.me.getP f.b) s

/-- POR (R85), latency 1. -/
def execPor (f : Pred3) (s : State) : Out :=
  perform (.por f) f.g s fun s => formPred f.d (s.me.getP f.a || s.me.getP f.b) s

/-- PXOR (R85), latency 1. -/
def execPxor (f : Pred3) (s : State) : Out :=
  perform (.pxor f) f.g s fun s => formPred f.d (s.me.getP f.a != s.me.getP f.b) s

/-- PANDN (R85), latency 1. -/
def execPandn (f : Pred3) (s : State) : Out :=
  perform (.pandn f) f.g s fun s => formPred f.d (s.me.getP f.a && !s.me.getP f.b) s

/-- PNOT (R85), latency 1. -/
def execPnot (f : Pred2) (s : State) : Out :=
  perform (.pnot f) f.g s fun s => formPred f.d (!s.me.getP f.a) s

/-- PMOV (R85), latency 1. -/
def execPmov (f : Pred2) (s : State) : Out :=
  perform (.pmov f) f.g s fun s => formPred f.d (s.me.getP f.a) s

/-- SEL (R86): both sources are read. -/
def execSel (f : SelOp) (s : State) : Out :=
  perform (.sel f) f.g s fun s => do
    let (a, s) ← s.readX f.i f.a
    let (b, s) ← s.readX f.i f.b
    s.writeX f.i f.d (if s.me.getP f.p then a else b) 1

/-- XMOV (R91): x[a] to another file, latency 2. -/
def execXmov (f : MovOp) (s : State) : Out :=
  perform (.xmov f) f.g s fun s => do
    let (a, s) ← s.readX f.i f.a
    s.writeMov f.i false f.dst a

/-- SETIB (R92): a base modulo the size of its file, latency 3. -/
def execSetib (f : SetBase) (s : State) : Out :=
  perform (.setib f) f.g s fun s => do
    let (a, s) ← s.readX f.i f.a
    some (s.land (.base f.base (a + f.imm.signExtend 64)) 3)

/-- HSET (R93): a field of the shadow shape register, latency 1. -/
def execHset (f : ShapeSet) (s : State) : Out :=
  perform (.hset f) f.g s fun s => do
    let (a, s) ← s.readX f.i f.a
    some (s.land (.shape (fin4 f.d) f.field (a.setWidth 32)) 1)

/-- GSET (R93): a field of a copy-pattern register, latency 1. -/
def execGset (f : PatSet) (s : State) : Out :=
  perform (.gset f) f.g s fun s => do
    let (a, s) ← s.readX f.i f.a
    some (s.land (.pattern (fin8 f.d) f.field (a.setWidth 32)) 1)

/-- YADD (R100), latency 1. -/
def execYadd (f : Reg3) (s : State) : Out :=
  perform (.yadd f) f.g s (formYyy f (fun a b => a + b))

/-- YSUB (R100), latency 1. -/
def execYsub (f : Reg3) (s : State) : Out :=
  perform (.ysub f) f.g s (formYyy f (fun a b => a - b))

/-- YSHL (R100), latency 1. -/
def execYshl (f : Reg3) (s : State) : Out :=
  perform (.yshl f) f.g s (formYyy f (fun a b => a <<< shamt b))

/-- YSHR (R100), latency 1. -/
def execYshr (f : Reg3) (s : State) : Out :=
  perform (.yshr f) f.g s (formYyy f (fun a b => a >>> shamt b))

/-- YAND (R100), latency 1. -/
def execYand (f : Reg3) (s : State) : Out :=
  perform (.yand f) f.g s (formYyy f (fun a b => a &&& b))

/-- YADDI (R100), latency 1. -/
def execYaddi (f : RegImm) (s : State) : Out :=
  perform (.yaddi f) f.g s fun s => some (s.land (.y (s.homeY f.i f.d) (s.readY f.i f.a + f.imm.signExtend 64)) 1)

/-- YMOV (R101): y[a] to another file, latency 2. -/
def execYmov (f : MovOp) (s : State) : Out :=
  perform (.ymov f) f.g s fun s => s.writeMov f.i true f.dst (s.readY f.i f.a)

end Sys2Proof.Machine
end

