-- ==== Sys2Proof/Machine/Remote.lean ====
section
/-! DEFINITION. Memory traffic between dies (R95, R96, R102, R262, R272, R355): what this die does as a home, the replies to its own
requests, and write-backs and fills that no instruction forces (R147, R213). -/

namespace Sys2Proof.Machine

/-! ### This die as the home -/

/-- The requester of a message. -/
def whoOf (asid : BitVec 13) (vf : BitVec 6) (job : BitVec 12) : Who := ⟨false, asid, vf, job, 0⟩

/-- STORE_SECTOR (R272): performed, or discarded where the translation no longer admits it (R265); counted (R346) and acknowledged
(R272). -/
def execStoreSector (p : StoreMsg) (s : State) : Out :=
  let w := whoOf p.asid p.vf p.job
  let (ok, s) := match s.access w (p.off / 32 * 32) .store (if p.mask.toNat < 256 then 8 else 1) with
    | (.ok (pa, l), s) =>
      let s := s.homeWrite w pa l p.mask p.data
      (true, if p.poison then s.homePoison pa else s)
    | (.error _, s) => (false, s)
  let s := if p.remote then (if ok then s.count p.job 0 1 0 else s.count p.job 0 0 1) else s
  let r := s.rstream p.src
  let s := s.setRstream p.src ⟨r.performed + 1, r.unacked + 1, s.dl.dcyc.toNat⟩
  .next (if p.flush ∨ 64 ≤ r.unacked + 1 then s.ackStream p.job p.src else s)

/-- ATOMIC_PERFORM (R262): the atomic unit of the home performs it; the old value, or the check that failed, returns. -/
def execAtomicPerform (p : AtomicMsg) (s : State) : Out :=
  let wh := whoOf p.asid p.vf p.job
  match s.homeAtomic wh p.off p.axch p.f p.w p.e with
  | (.ok old, s) =>
    let s := if p.remote then s.count p.job 0 1 0 else s
    .next (s.sendTo p.job p.src (.atomReply p.job p.src p.tag (.data (bytesOf (BitVec.ofNat 64 old) 8))))
  | (.error b, s) =>
    let s := if p.remote then s.count p.job 0 0 1 else s
    .next (s.sendTo p.job p.src (.atomReply p.job p.src p.tag (.failed b.order b.sub)))

/-- Read a span at this home, a sector at a time (R245, R263). -/
def State.homeSpan (s : State) (w : Who) (k : AccKind) (n : Nat) (l : List Piece) : Except Bad (List Byte) × State :=
  match l with
  | [] => (.ok [], s)
  | p :: r =>
    match s.access w (p.sec * 32 + p.at_) k n with
    | (.error b, s) => (.error b, s)
    | (.ok (pa, leaf), s) =>
      let (v, poisoned, s) := s.homeRead pa leaf
      if poisoned then (.error ⟨0, 0⟩, s)
      else match State.homeSpan s w k n r with
        | (.ok bs, s) => (.ok (bytesOf (v >>> (8 * p.at_)) p.len ++ bs), s)
        | (.error b, s) => (.error b, s)

/-- What a read request asks (R355 kind 7): a probe of a store, of an atomic, of an engine's write or of a reducing copy has length 0 (log 17). -/
def ReadMsg.kind (p : ReadMsg) : AccKind :=
  if p.len = 0 then (if p.ws then (if p.engine then .reduce else .atomic) else if p.engine then .engWrite else .store)
  else if p.ws then .wload else if p.engine then .engRead else .load

/-- The length that the check of a read is made for: the accesses of a load are of at most 8 bytes, however many one request gathers (R244). -/
def ReadMsg.accLen (p : ReadMsg) : Nat := if p.engine || p.ws then p.len else min 8 p.len

/-- The byte that follows the data for a load: the memory type of the page (log 17). -/
def State.pageType (s : State) (w : Who) (p : ReadMsg) : List Byte :=
  if p.engine || p.ws then []
  else match (s.access w p.off .load 1).1 with | .ok (_, l) => [BitVec.ofNat 8 (pteType l)] | .error _ => []

/-- REMOTE_READ_REQUEST (R355): a probe, and a load after its bytes, are answered the memory type of the page (log 17). -/
def execRemoteReadRequest (p : ReadMsg) (s : State) : Out :=
  let w := whoOf p.asid p.vf p.job
  if p.len = 0 then
    match s.access w p.off (ReadMsg.kind p) 1 with
    | (.ok (_, l), s) => .next (s.sendTo p.job p.src (.reply p.job p.src p.tag (.data [BitVec.ofNat 8 (pteType l)])))
    | (.error b, s) => .next (s.sendTo p.job p.src (.reply p.job p.src p.tag (.failed b.order b.sub)))
  else
    match s.homeSpan w (ReadMsg.kind p) (ReadMsg.accLen p) (pieces 64 p.off p.len 0) with
    | (.ok bs, s) => .next (s.sendTo p.job p.src (.reply p.job p.src p.tag (.data (bs ++ s.pageType w p))))
    | (.error b, s) => .next (s.sendTo p.job p.src (.reply p.job p.src p.tag (.failed b.order b.sub)))

/-! ### Replies -/

/-- The context and request of a tag. -/
def State.findReq (s : State) (tag : Nat) : Option (Fin 5 × Req) :=
  (List.finRange 5).findSome? fun c => ((s.ctx c).reqs.find? fun r => r.tag == tag).map fun r => (c, r)

/-- A request is answered. -/
def Ctx.answered (x : Ctx) (tag : Nat) : Ctx := { x with reqs := x.reqs.filter fun r => r.tag != tag }

/-- Bytes for the result in flight that waits for them, of the strand or of the handler. -/
def Ctx.supply (x : Ctx) (r : Req) (v : Vec) : Ctx :=
  { x with pend := fillPend x.pend r.pend r.tag 0 v, hpend := fillPend x.hpend r.pend r.tag 0 v }

/-- What a reply gives a result: for a load the parts that it lacked, each in its place. -/
def Req.value (r : Req) (bs : List Byte) : Vec :=
  match r.kind with
  | .load parts _ => BitVec.ofNat 2048 (parts.foldl (fun a e => a + ofBytes ((bs.drop e.at_).take e.len) * 2 ^ (8 * e.pos)) 0)
  | _ => BitVec.ofNat 2048 (ofBytes (bs.take r.len))

/-- The bytes of a load from another die fill L2, under the count at its request, and L1 where no refresh has come between (R210, R211): those of a page
that is cached (log 17), and of a sector that has not changed here since. -/
def State.fillFar (s : State) (c : Fin 5) (r : Req) (bs : List Byte) : State :=
  match r.kind, bs[r.len]? with
  | .load _ (some fc), some 0 =>
    let w := s.who c
    let p : Piece := ⟨r.addr.toNat / 32, r.addr.toNat % 32, r.len, 0⟩
    let v : Sector := BitVec.ofNat 256 (ofBytes (bs.take r.len) * 2 ^ (8 * p.at_))
    s.fillPart w (ckey w.asid p.sec) p.mask v fc (fc == s.cl.refcnt) true
  | _, _ => s

/-- The reply to a load (R95): its bytes fill the latch; a failed check aborts the region (R26). -/
def State.takeLoad (s : State) (tag : Nat) (r : Reply) : State :=
  match s.findReq tag with
  | none => s
  | some (c, q) =>
    let s := s.modCtx c fun x => x.answered tag
    match r with
    | .data bs => (s.modCtx c fun x => x.supply q (q.value bs)).fillFar c q bs
    | .failed o n => s.regionFault c ⟨q.addr, o, n⟩

/-- The reply to a probe (R96): the context goes on, or the region is aborted. -/
def State.takeProbe (s : State) (tag : Nat) (r : Reply) : State :=
  match s.findReq tag with
  | none => s
  | some (c, q) =>
    let s := s.modCtx c fun x => x.answered tag
    match r with
    | .data bs => if q.kind = .probe then s.modCtx c fun x => x.markUncached (q.addr.toNat / 32) bs else s
    | .failed o n => s.regionFault c ⟨q.addr, o, n⟩

/-- The reply to an atomic (R102, R103): the old value fills the result; one not performed leaves no seal (R105). -/
def State.takeAtomic (s : State) (tag : Nat) (r : Reply) : State :=
  match s.findReq tag with
  | none => s
  | some (c, q) =>
    let s := s.modCtx c fun x => x.answered tag
    match r with
    | .data bs => s.modCtx c fun x => x.supply q (q.value bs)
    | .failed o n => (if q.kind = .atomic true then s.modCtx c fun x => { x with sealed := false } else s).regionFault c ⟨q.addr, o, n⟩

/-- LOAD_REPLY (R95). -/
def execLoadReply (tag : Nat) (r : Reply) (s : State) : Out := .next (s.takeLoad tag r)
/-- STORE_PROBE_REPLY (R96). -/
def execStoreProbeReply (tag : Nat) (r : Reply) (s : State) : Out := .next (s.takeProbe tag r)
/-- ATOMIC_REPLY (R102). -/
def execAtomicReply (tag : Nat) (r : Reply) (s : State) : Out := .next (s.takeAtomic tag r)

/-- REMOTE_READ_REPLY (R355): a reply reaches the load, the probe, the copy row or the TLOAD row that asked. -/
def execRemoteReadReply (tag : Nat) (r : Reply) (s : State) : Out :=
  .next (match s.findReq tag with
    | some (_, q) => if q.kind = .probe ∨ q.kind = .check then s.takeProbe tag r else s.takeLoad tag r
    | none => if s.core.ops.any (fun o => o.asked.any fun e => e.tag == tag) then s.tileReply tag r else s.rowReply tag r)

/-! ### Copy rows -/

/-- The number of a channel among the streams received: apart from those of cores. -/
def rowStreamKey (u : UnitId) : Nat := 2 ^ 20 + (streamKey u * 4 + u.ctx.toNat) * 16 + u.port.toNat

/-- COPY_ROW_SEGMENT (R175, R355 kind 3): the segment is performed at this home, or discarded where the translation no longer admits it
(R265). The last one counts the row (R346) and acknowledges it with the channel's cumulative count. `unacked` counts the segments of the
row in progress that were discarded. -/
def execCopyRowSegment (p : CopyMsg) (s : State) : Out :=
  let w := whoOf p.asid p.vf p.job
  let op : ChanOp := match p.red with | some o => .red o | none => .mm
  let a := (s.ownLdie p.job).toNat * 2 ^ 52 + p.off
  let n := match p.red with | some o => p.bytes.length / RedOp.word o * RedOp.dstWord o | none => p.bytes.length
  let (f, _, s) := s.engProbe w op.writeKind n (rowPieces a n)
  let s := if f.isNone then s.performRow w op a n p.bytes else s
  let r := getAt RStream.none s.fi.rstreams (rowStreamKey p.src)
  let bad := r.unacked + b2n f.isSome
  let put (r : RStream) (s : State) : State := s.modFi fun g => { g with rstreams := putAt RStream.none g.rstreams (rowStreamKey p.src) r }
  if p.last then
    let s := if p.remote then (if bad = 0 then s.count p.job 0 1 0 else s.count p.job 0 0 1) else s
    let n := r.performed + 1
    .next ((put ⟨n, 0, 0⟩ s).sendTo p.job p.src (.ack p.job p.src true (n % 2 ^ 32) p.serial))
  else .next (put ⟨r.performed, bad, 0⟩ s)

/-- REMOTE_ACK (R272, R355 kind 10): sectors, or rows up to a serial. -/
def execRemoteAck (die : BitVec 12) (rows : Bool) (count serial : Nat) (s : State) : Out :=
  .next (if rows then s.ackRows die serial else (s.ackStores die count).payShoot)

/-! ### Caches -/

/-- ICACHE_FILL (R213): the line reaches the core's instruction cache, for a context whose arena window holds it. -/
def execIcacheFill (line : Nat) (s : State) : Out :=
  .next (if (List.finRange 5).any fun c => s.fetchable c (line * 256) then s.fillLine line else s)

/-- CACHE_WRITEBACK (R147, R211): a sector of L1 is replaced and goes to L2; a sector of L2 goes toward its home and stays clean; one for a departed
home is posted (R396). -/
def execCacheWriteback (l2 : Bool) (asid : BitVec 13) (addr : Nat) (s : State) : Out :=
  let k := ckey asid (addr / 32)
  if l2 then
    let vf := (s.l2At k).vf
    let (lost, s) := s.writeBack svc k
    .next (if lost then s.postLost asid vf (addr / 32) else s)
  else .next (s.dropL1 k)

end Sys2Proof.Machine
end

