-- ==== Sys2Proof/Machine/Ladders.lean ====
section
/-! DEFINITION. The ladders of the package as Lantern keeps them (R201, R256, R310 to R313): the units of other clusters, cores and dies, the
replacement request with its erratum (R391), the states of channels, the tests of a round. -/

namespace Sys2Proof.Machine

def State.modPk (s : State) (f : Package → Package) : State := { s with pk := f s.pk }
def State.modCore (s : State) (f : Core → Core) : State := { s with core := f s.core }

/-! ### The units of the package (R311, R313) -/

/-- The number of a cluster in the package: 12 to a die. -/
def clusterNo (die : BitVec 2) (cluster : BitVec 4) : Nat := die.toNat * 12 + cluster.toNat
def engineNo (die : BitVec 2) (cluster : BitVec 4) (e : Fin 16) : Nat := clusterNo die cluster * 16 + e.val
def bankNo (k : CoreAt) (b : Fin 24) : Nat := (clusterNo k.die k.cluster * 8 + k.core.toNat) * 24 + b.val
def channelNo (die : BitVec 2) (ch : BitVec 6) : Nat := die.toNat * 64 + ch.toNat

def Package.engineOf (p : Package) (n : Nat) : BitVec 8 := getAt 0x1F p.engElse n
def Package.bankOf (p : Package) (n : Nat) : Nat := getAt 0 p.bankElse n
def Package.channelOf (p : Package) (n : Nat) : Nat := getAt 0 p.chanElse n

/-- The units of a bank that are live: 2 full, 1 half, 0 retired. -/
def bankUnits (x : BitVec 2) : Nat := if x = 0 then 2 else if x = 1 then 1 else 0

/-- The engines of the package without BX: those of this cluster and of the others. -/
def State.lostEngines (s : State) : Nat :=
  ((List.finRange 16).filter fun e => !bitAt (s.cl.engines.get e).bmap 0).length + (s.pk.engElse.filter fun e => !bitAt e.2 0).length

/-- The live scratchpad units of the package's 384 cores; a retired core has none. -/
def State.liveUnits (s : State) : Nat :=
  18432 - 48 + (if s.core.retired then 0 else ((List.finRange 24).map fun b => bankUnits (s.core.banks.get b)).sum) - 48 * s.pk.coreElse.length -
    ((s.pk.bankElse.filter fun e => !s.pk.coreElse.contains (e.1 / 24)).map (·.2)).sum

/-- The retired channels of the package. -/
def State.retiredChannels (s : State) : Nat :=
  ((List.range 64).filter fun c => s.dm.chanState c == 2).length + (s.pk.chanElse.filter fun e => e.2 == 2).length

/-- The cause ENG: more than one engine in eight without BX. Firmware below 1.3 sets it at 96 already (R391). -/
def engCause (firmware bx : Nat) : Bool := decide (96 < bx) || (decide (firmware < 0x103) && bx == 96)

/-- PK_SVC after an installation or state change (R313). The causes persist in flash (R311, R391). -/
def State.recompute (s : State) : State :=
  let bx := s.lostEngines
  let units := s.liveUnits
  let ch := s.retiredChannels
  let causes : BitVec 3 := s.pk.causes |||
    BitVec.ofNat 3 (b2n (decide (0 < ch)) * 4 + b2n (decide (10 * units < 9 * 18432)) * 2 + b2n (engCause s.pk.firmware bx))
  let req := s.pk.req
  let s := s.modPk fun p => { p with bxlost := bx, spadu := units, chret := ch, causes := causes, flashCauses := causes, req := req || causes != 0 }
  if req || causes == 0 then s else s.post ⟨6, 1, 0, 0, 0, 0, 0, 0, 0, 0, s.pk.svcWord⟩

/-- An installation or state change: PK_SVC is recomputed once for all those of a Lantern cycle, at its end (R313). -/
def State.changed (s : State) : State := s.modPk fun p => { p with recount := true }

/-- The place of this core in the ADDR of a service record (R312), without the die. -/
def State.clusterAddr (s : State) : Nat := s.core.cluster.toNat * 2 ^ 52
def State.coreAddr (s : State) : Nat := s.clusterAddr + s.core.core.toNat * 2 ^ 48

/-- A cluster, a core or a die other than this one's. -/
def State.otherCluster (s : State) (die : BitVec 2) (cluster : BitVec 4) : Bool := decide (cluster.toNat < 12) && !(die == s.core.die && cluster == s.core.cluster)
def State.otherCore (s : State) (k : CoreAt) : Bool :=
  decide (k.cluster.toNat < 12) && !(k.die == s.core.die && k.cluster == s.core.cluster && k.core == s.core.core)

/-! ### Channels (R256, R310) -/

/-- A state of a channel may follow another only in the order 0 good, 1 derated, 3 retire pending, 2 retired (R256). -/
def chanStep (old new : Nat) : Bool := (old == 0 && new == 1) || (old == 1 && new == 3) || (old == 3 && new == 2)

/-- A live region maps an address onto the channel. -/
def DieMem.maps (d : DieMem) (c : Nat) : Bool :=
  (List.finRange 8).any fun n =>
    let r := d.regions.get n
    r.state == 1 && (reached r.matrix r.base.toNat r.limit.toNat).contains c

/-- The state of a channel of this die: flash first, then the die. -/
def State.setChanState (s : State) (c : BitVec 6) (x : Nat) : State :=
  let i := 2 * (c.toNat % 32)
  let f (w : Word) : Word := withField w (i + 1) i x
  let s := if c.toNat < 32 then s.modPk fun p => { p with flashChan0 := f p.flashChan0 } else s.modPk fun p => { p with flashChan1 := f p.flashChan1 }
  if c.toNat < 32 then s.modDm fun d => { d with chan0 := f d.chan0 } else s.modDm fun d => { d with chan1 := f d.chan1 }

/-- The records of a channel that reaches state `x` (R312), and PK_SVC. -/
def State.postChannel (s : State) (die : BitVec 2) (c : BitVec 6) (x : Nat) : State :=
  let s := if x = 3 then s.serviceAt die.toNat 4 (c.toNat * 2 ^ 32) 3 else if x = 2 then s.serviceAt die.toNat 5 (c.toNat * 2 ^ 32) 2 else s
  s.changed

/-- A channel of this die moves to the next state of its ladder; it is retired only once no live region maps an address onto it (R256). -/
def State.moveChannel (s : State) (c : BitVec 6) (x : Nat) : State :=
  if chanStep (s.dm.chanState c.toNat) x && !(x == 2 && s.dm.maps c.toNat) then (s.setChanState c x).postChannel s.core.die c x else s

/-- DM_CHAN0 (`first` 0) or DM_CHAN1 (32) as Lantern writes it: every transition that the ladder lacks is ignored (R256). -/
def State.writeChans (s : State) (first : Nat) (v : Word) : State :=
  (List.range 32).foldl (fun (s : State) i => s.moveChannel (BitVec.ofNat 6 (first + i)) (fieldOf v (2 * i + 1) (2 * i))) s

/-- A channel of another die moves likewise; which regions are live there is not seen here. -/
def State.moveElse (s : State) (die : BitVec 2) (c : BitVec 6) (x : Nat) : State :=
  let n := channelNo die c
  if die ≠ s.core.die ∧ chanStep (s.pk.channelOf n) x = true then (s.modPk fun p => { p with chanElse := putAt 0 p.chanElse n x }).postChannel die c x
  else s

/-- The state that a failed test leads to. -/
def testedTo (x : Nat) : Option Nat := match x with | 0 => some 1 | 1 => some 3 | _ => none

/-! ### Rounds of margin tests (R310) -/

/-- The round ends once each of its tests has been made: ROUNDS counts it, and a PERIOD written meanwhile counts from here (R320). -/
def State.endRound (s : State) : State :=
  if s.pk.roundOn && s.pk.roundEng.isEmpty && s.pk.roundBank.isEmpty && s.pk.roundChan.isEmpty then
    s.modPk fun p => { p with roundOn := false, rounds := p.rounds + 1, roundAt := if p.roundNew then p.lcyc.toNat else p.roundAt, roundNew := false }
  else s

/-- A test has been made. -/
def State.testedEngine (s : State) (e : Nat) : State := (s.modPk fun p => { p with roundEng := p.roundEng.erase e }).endRound
def State.testedBank (s : State) (b : Nat) : State :=
  (s.modPk fun p => { p with roundBank := p.roundBank.erase b, extraBank := p.extraBank.erase b }).endRound
def State.testedChannel (s : State) (c : Nat) : State :=
  (s.modPk fun p => { p with roundChan := p.roundChan.erase c, extraChan := p.extraChan.erase c }).endRound

/-- A test outside the rounds is owed: of a bank that a core error event names, of a channel with a retired frame. -/
def State.oweBank (s : State) (b : Nat) : State := s.modPk fun p => { p with extraBank := if p.extraBank.contains b then p.extraBank else p.extraBank ++ [b] }
def State.oweChannel (s : State) (c : Nat) : State := s.modPk fun p => { p with extraChan := if p.extraChan.contains c then p.extraChan else p.extraChan ++ [c] }

/-! ### The end of a Lantern cycle -/

/-- The report (R318): digests of the images, signature and certificate follow from fuses and flash, the nonce from the host, hence free. -/
def State.report (s : State) (n : Nat) (fn : Option (BitVec 6)) : List Word :=
  let who : Nat := match fn with | some v => 64 + v.toNat | none => 0
  [0xCAE1A77E00000001, BitVec.ofNat 64 (0xFF09 * 2 ^ 48 + s.pk.step.toNat * 2 ^ 8 + who)] ++
    ((List.range 6).map fun i => Config.freeDigest n i) ++ [s.pk.seq, withField (Config.freeDigest 0 0) 31 0 s.pk.firmware] ++
    ((List.range 18).map fun i => Config.freeDigest s.pk.firmware (1024 + i)) ++
    [s.pk.svcWord, 0, 0, 0] ++ ((List.range 12).map fun i => Config.freeDigest n (8 + i)) ++ (List.range 468).map fun i => Config.freeDigest 0 (32 + i)

/-- Lantern answers an attestation request (R318). -/
def State.answer (s : State) (e : Option (BitVec 6) × Word) : State :=
  let (n, s) := s.stamp
  s.modPk fun p => { p with reports := p.reports ++ [(e.1, e.2, s.report (n + 1) e.1)], asking := p.asking.erase e }

/-- What Lantern does at the end of each of its cycles: one recomputation of PK_SVC for all the changes of the cycle (R313), and the answers to the
requests that came in (R318). -/
def State.lanternTurn (s : State) : State :=
  let s := if s.pk.recount then (s.modPk fun p => { p with recount := false }).recompute else s
  s.pk.asking.foldl State.answer s

/-! ### Memory errors (R263, R264) -/

/-- Retire a frame for errors in channel `c` and post it (R263, R312); the channel is then tested (R310). -/
def State.retireFrame (s : State) (c f : Nat) : State :=
  let s := s.modDm fun d => { d with retired := f :: d.retired, merr := countSat d.merr 63 48 }
  (s.service 6 (c * 2 ^ 32 + f) s.dm.merr).oweChannel c

/-- HBM_ECC_ERROR: corrected errors are counted; an uncorrectable one poisons the sector. -/
def execHbmEccError (pa : Nat) (fixed : Bool) (s : State) : Out :=
  if fixed then .next (s.modDm fun d => { d with merr := countSat d.merr 31 0 })
  else
    let sec := pa / 32
    let now := s.dl.dcyc.toNat
    let gone := if pa < 2 ^ 37 then s.dm.toRetire sec now else []
    let s := s.modDm fun d =>
      { (d.setTag sec { d.tag sec with poison := true }) with
        merr := countSat d.merr 47 32
        errors := if pa < 2 ^ 37 then (sec, sec / 2 ^ 11, d.channelOf pa, now) :: d.errors else d.errors }
    .next (gone.foldl (fun (s : State) f => s.retireFrame (s.dm.channelOf pa) f) s)

end Sys2Proof.Machine
end

