-- ==== Sys2Proof/Machine/System.lean ====
section
/-! DEFINITION. MFS and MTS (R77) and the writes of registers: of the core (R131 to R140), the cluster (R195), the die (R242, R287,
R295), the package (R306, R321) and the fabric interface (R339). -/

namespace Sys2Proof.Machine

/-! ### Fields -/

/-- Bits [hi:lo] of a value, in place; the others zero (R6). -/
def keep (v : Word) (hi lo : Nat) : Word := BitVec.ofNat 64 (fieldOf v hi lo * 2 ^ lo)

/-- The fields of DL_FLOGA and PK_EVQ (R301): ignored as a whole where LOG2N is out of range. -/
def writeLogRing (old v : Word) : Word :=
  if 4 ≤ fieldOf v 43 40 ∧ fieldOf v 43 40 ≤ 14 then keep v 63 63 ||| keep v 43 40 ||| keep v 39 12 else old

/-! ### Instructions -/

/-- MFS (R77), latency 2. -/
def execMfs (f : SysRead) (s : State) : Out := perform (.mfs f) f.g s fun s => s.writeX f.i f.d (s.sysReg s.core.cur f.n.toNat) 2

/-- The effect of an MTS of register `n`: a register of the context lands one context cycle later; another is written in the next core
cycle (R77), with its side effect. Registers and fields that cannot be written ignore the write. PORT_BIND names the service context's own
bindings (R68); it never shows code 0, so the write is ignored (R340; log 19). -/
def State.sysWrite (s : State) (n : Nat) (v : Word) : State :=
  let c := s.core.cur
  let t := s.trapCtx c
  match n with
  | 0x010 => s.land (.fflags (v.setWidth 5)) 1
  | 0x018 => if t = c then s.land (.trapCause v) 1 else s.enqueue (.registerWrite (.ctx t) n v)
  | 0x019 => if t = c then s.land (.trapPc v) 1 else s.enqueue (.registerWrite (.ctx t) n v)
  | 0x01D => if c = svc then s.enqueue (.registerWrite (.ctx t) n v) else s
  | 0x029 => s.enqueue (.resumeWrite v)
  | 0x521 => s.enqueue (if bitAt v 63 then .groupLoad v else .registerWrite .service n v)
  | 0x524 => s.enqueue (.jobCounterClear (BitVec.ofNat 12 v.toNat))
  | n =>
    if 0x108 ≤ n ∧ n ≤ 0x10F then s.enqueue (.partitionWrite (fin4 (BitVec.ofNat 2 ((n - 0x108) / 2))) (n % 2 == 1) v)
    else if 0x180 ≤ n ∧ n ≤ 0x19F then s.enqueue (.ringConfigWrite (fin32 (BitVec.ofNat 5 (n - 0x180))) v)
    else if 0x400 ≤ n ∧ n < 0x500 then s.enqueue (mmioEvent (0x30000 + 8 * (n - 0x400)) v)
    else if n = 0x103 ∨ n = 0x104 ∨ (0x110 ≤ n ∧ n ≤ 0x117) ∨ n = 0x216 ∨ (0x220 ≤ n ∧ n ≤ 0x223) ∨ n = 0x520 ∨ n = 0x523 then
      s.enqueue (.registerWrite .service n v)
    else s

/-- MTS (R77). -/
def execMts (f : SysWrite) (s : State) : Out :=
  perform (.mts f) f.g s fun s => (s.readX f.i f.a).map fun r => r.2.sysWrite f.n.toNat r.1

/-! ### RESUME (R67) -/

/-- RESUME_WRITE (R67). -/
def execResumeWrite (v : Word) (s : State) : Out := .next (s.resumeHeld v)

/-! ### Partitions (R135, R136) -/

/-- Two ranges of a store meet; an empty one meets nothing. -/
def rangesMeet (b1 n1 b2 n2 : Nat) : Bool := n1 != 0 && n2 != 0 && decide (b1 < b2 + n2 ∧ b2 < b1 + n1)

/-- The ranges of CTX_PARTA: tiles, weight-buffer units; of CTX_PARTB: rings, scratchpad units: base, count, size. -/
def partRanges (second : Bool) (v : Word) : List (Nat × Nat × Nat) :=
  if second then [(fieldOf v 4 0, fieldOf v 10 5, 32), (fieldOf v 44 32, fieldOf v 57 45, 6144)]
  else [(fieldOf v 5 0, fieldOf v 14 8, 48), (fieldOf v 25 16, fieldOf v 42 32, 1024)]

/-- The write is accepted (R136). -/
def State.partitionOk (s : State) (c : Fin 4) (second : Bool) (v : Word) : Bool :=
  let new := partRanges second v
  s.ctxCode c == 0 && (new.all fun r => decide (r.1 + r.2.1 ≤ r.2.2)) &&
    (List.finRange 4).all fun d => d == c ||
      ((new.zip (partRanges second (if second then s.core.partB.get d else s.core.partA.get d))).all fun p =>
        !rangesMeet p.1.1 p.1.2.1 p.2.1 p.2.2.1)

/-- PARTITION_WRITE (R136). -/
def execPartitionWrite (c : Fin 4) (second : Bool) (v : Word) (s : State) : Out :=
  if s.partitionOk c second v then
    .next (if second then
        { s with core := { s.core with partB := s.core.partB.set c.val (keep v 57 45 ||| keep v 44 32 ||| keep v 10 5 ||| keep v 4 0) c.isLt } }
      else { s with core := { s.core with partA := s.core.partA.set c.val (keep v 42 32 ||| keep v 25 16 ||| keep v 14 8 ||| keep v 5 0) c.isLt } })
  else .next s

/-! ### Rings (R139, R140) -/

/-- A ring with the fields of a written value, empty. -/
def Ring.ofWord (v : Word) (en : Bool) : Ring :=
  { Ring.reset with en := en, ctx := BitVec.ofNat 2 (fieldOf v 59 58), cons := bitAt v 57, z := BitVec.ofNat 3 (fieldOf v 56 54),
                    nslot := BitVec.ofNat 12 (fieldOf v 53 42), slot := BitVec.ofNat 8 (fieldOf v 41 34), base := BitVec.ofNat 13 (fieldOf v 12 0) }

/-- The ERR code of an enabling write, 0 where it is accepted. -/
def State.ringError (s : State) (n : Fin 32) (r : Ring) : Nat :=
  let a := r.base.toNat * 256
  let len := r.slots * r.bytes
  let c := fin4 r.ctx
  let w := s.core.spBase c * 256
  let others := (List.finRange 32).filter fun m => m != n && (s.ring m).en
  if s.core.spanOut a len then 1
  else if others.any fun m => rangesMeet a len ((s.ring m).base.toNat * 256) ((s.ring m).slots * (s.ring m).bytes) then 2
  else if !(decide (w ≤ a ∧ a + len ≤ w + s.core.spLen c * 256) && decide (s.core.ringBase c ≤ n.val ∧ n.val < s.core.ringBase c + s.core.ringCnt c)) then 3
  else if !r.cons && others.any fun m => !(s.ring m).cons && (s.ring m).ctx == r.ctx && (s.ring m).z == r.z then 4
  else 0

/-- The ring is in use (R140): a slot filling or held, an operation that names it, a recorded PVTAKE. -/
def State.ringBusy (s : State) (n : Fin 32) : Bool :=
  let r := s.ring n
  r.span != r.filled || r.held != 0 ||
    (s.core.ops.any fun o => (o.aSlot.any fun p => p.1 == n.val) || (o.bSlot.any fun p => p.1 == n.val)) ||
    ((List.finRange 4).any fun c => (s.ctx (strandCtx c)).chans.any fun x => x.state != .idle && s.chanRing c x == some n) ||
    ((List.finRange 4).any fun c => match (s.ctx (strandCtx c)).pav.take with
      | some xa => s.takeRing (strandCtx c) xa == some n
      | none => false)

/-- RING_CONFIG_WRITE (R140). -/
def execRingConfigWrite (n : Fin 32) (v : Word) (s : State) : Out :=
  let r := s.ring n
  let on := bitAt v 63
  .next (if r.en then
      if on || s.ringBusy n then s.setRing n { r with err := 5 }
      else s.setRing n { r with en := false, err := 0, head := r.tail, filled := 0, free := r.free + r.filled, done := [], posted := [], rsv := 0 }
    else if on then
      let q := Ring.ofWord v true
      match s.ringError n q with
      | 0 => s.setRing n { q with free := q.slots }
      | e => s.setRing n { r with err := BitVec.ofNat 3 e }
    else s.setRing n { Ring.ofWord v false with head := r.head, tail := r.tail, filled := r.filled, held := r.held, free := r.free })

/-! ### Register writes -/

/-- The registers of the core, the cluster and the fabric interface that the service context writes. -/
def State.serviceWrite (s : State) (n : Nat) (v : Word) : State :=
  match n with
  | 0x103 => { s with core := { s.core with coreErr := keep v 39 0 } }
  | 0x104 => { s with core := { s.core with svcEn := bitAt v 63, selReg := BitVec.ofNat 2 v.toNat } }
  | 0x216 => { s with cl := { s.cl with prismEn := bitAt v 0 } }
  | 0x520 => if s.fi.table.isNone ∨ s.fi.dark = true then s.modFi fun f => { f with fid := v.setWidth 16 } else s
  | 0x521 => s.writeGroup v
  | 0x523 => if fieldOf v 31 0 = 0 then s else s.modFi fun f => { f with qwint := v.setWidth 32 }
  | n =>
    if h : 0x110 ≤ n ∧ n ≤ 0x117 then
      let v := keep v 39 8
      if n % 2 = 0 then { s with core := { s.core with arenaBase := s.core.arenaBase.set ((n - 0x110) / 2) v (by omega) } }
      else { s with core := { s.core with arenaBound := s.core.arenaBound.set ((n - 0x110) / 2) v (by omega) } }
    else if h : 0x220 ≤ n ∧ n ≤ 0x223 then { s with cl := { s.cl with frames := s.cl.frames.set (n - 0x220) (keep v 39 18) (by omega) } }
    else s

/-- The trap registers of a context (R62). -/
def State.ctxWrite (s : State) (c : Fin 5) (n : Nat) (v : Word) : State :=
  match n with
  | 0x018 => s.modCtx c fun x => applyWrite (.trapCause v) x
  | 0x019 => s.modCtx c fun x => applyWrite (.trapPc v) x
  | 0x01D => s.modCtx c fun x => { x with trapVec := keep v 39 2 ||| keep v 0 0 }
  | _ => s

/-- The die memory block (R242), by offset, as any writer reaches it. -/
def DieMem.put (d : DieMem) (o : Nat) (v : Word) : DieMem :=
  match o with
  | 0x000 => { d with asidt := keep v 39 17 }
  | 0x050 => { d with merr := v }
  | 0x060 => if d.mapBusy then { d with mapCode := 6 } else d
  | 0x058 => { d with code := keep v 47 40 ||| keep v 23 0 }
  | o => if h : 0x200 ≤ o ∧ o < 0x280 ∧ o % 8 = 0 then { d with stage := d.stage.set ((o - 0x200) / 8) v (by omega) } else d

/-- DL_VMASK after a write (R295). -/
def writeVmask (old v : Word) : Word :=
  let ways := if fieldOf v 47 32 = 0 then fieldOf old 47 32 else fieldOf v 47 32
  BitVec.ofNat 64 (ways * 2 ^ 32 + 2 ^ 20 + fieldOf v 19 0)

/-- DL_VFA (R295): while FLR reads 1 only EN = 0 is noted. -/
def VFn.putA (f : VFn) (v : Word) : VFn :=
  if f.flr then (if bitAt v 63 then f else { f with enOff := true })
  else { f with en := bitAt v 63, feat := BitVec.ofNat 4 (fieldOf v 43 40), qw := BitVec.ofNat 8 (fieldOf v 23 16), cw := BitVec.ofNat 8 (fieldOf v 15 8),
                bw := BitVec.ofNat 8 v.toNat }

/-- The die launch block (R287), by offset. -/
def DieLaunch.put (d : DieLaunch) (o : Nat) (v : Word) : DieLaunch :=
  match o with
  | 0x008 => { d with jobt := keep v 39 13 }
  | 0x010 => { d with faultq := keep v 63 52 ||| keep v 15 0 }
  | o =>
    if o % 8 ≠ 0 then d
    else if 0x5000 ≤ o ∧ o < 0x6000 then
      let n : BitVec 6 := BitVec.ofNat 6 ((o - 0x5000) / 64)
      let f := d.vf n
      match o % 64 / 8 with
      | 0 => d.setVf n (f.putA v)
      | 1 => d.setVf n { f with vfb := keep v 47 32 ||| keep v 15 0 }
      | 2 => d.setVf n { f with log := writeLogRing f.log v }
      | _ => d
    else if 0x6000 ≤ o ∧ o < 0x8000 then
      let n : BitVec 6 := BitVec.ofNat 6 ((o - 0x6000) / 128)
      let f := d.vf n
      if h : (o - 0x6000) % 128 / 8 < 12 then
        d.setVf n { f with masks := f.masks.set ((o - 0x6000) % 128 / 8) (writeVmask (f.masks.get ⟨_, h⟩) v) h }
      else d
    else d

/-- The Pavane registers (R321), by number − 0x480: while EN is set only PV_CRED is written here. -/
def Pavane.put (p : Pavane) (n : Nat) (v : Word) : Pavane :=
  if n = 7 then { p with upc := BitVec.ofNat 13 (capAt 4096 (fieldOf v 28 16)), dnc := BitVec.ofNat 13 (capAt 4096 (fieldOf v 12 0)) }
  else if bitAt p.base 63 then p
  else match n with
    | 0 => { p with base := keep v 63 63 ||| keep v 41 40 ||| keep v 39 13 }
    | 1 => { p with count := v.setWidth 9 }
    | 3 => { p with stashBase := keep v 41 40 ||| keep v 39 8 }
    | 4 => { p with stashSlots := keep v 39 32 ||| keep v 6 0 }
    | 5 => { p with up := keep v 63 63 ||| keep v 11 0 }
    | 6 => { p with down := keep v 63 63 ||| keep v 11 0 }
    | 8 => { p with ten := keep v 46 44 ||| keep v 43 32 ||| keep v 20 8 ||| keep v 5 0 }
    | 9 => { p with arg := v }
    | _ => p

/-- The package block (R306), by register number. -/
def Package.put (p : Package) (n : Nat) (v : Word) : Package :=
  match n with
  | 5 => { p with marginEn := bitAt v 63, period := if fieldOf v 47 32 = 0 then p.period else BitVec.ofNat 16 (fieldOf v 47 32),
                  roundNew := p.roundNew || (p.roundOn && fieldOf v 47 32 != 0) }
  | 6 => if fieldOf v 15 0 < 1200 then p else { p with watts := v.setWidth 16 }
  | 7 => { p with evq := writeLogRing p.evq v }
  | 8 => { p with evhead := v.setWidth 32 }
  | n => if 0x80 ≤ n ∧ n < 0x8E then { p with pv := p.pv.put (n - 0x80) v } else p

/-- A write to an MMIO register at an offset: a register with a command runs it as its own step. -/
def State.mmioWrite (s : State) (lantern : Bool) (o : Nat) (v : Word) : State :=
  match mmioEvent o v with
  | .registerWrite _ _ _ =>
    if 0x10040 ≤ o ∧ o < 0x10050 then (if lantern then s.writeChans ((o - 0x10040) / 8 * 32) v else s)
    else if 0x10000 ≤ o ∧ o < 0x20000 then { s with dm := s.dm.put (o - 0x10000) v }
    else if 0x20000 ≤ o ∧ o < 0x30000 then { s with dl := s.dl.put (o - 0x20000) v }
    else if 0x30000 ≤ o ∧ o < 0x40000 ∧ o % 8 = 0 then { s with pk := s.pk.put ((o - 0x30000) / 8) v }
    else s
  | .msiSignal _ => s
  | .functionLevelReset f =>
    ({ s with dl := s.dl.put (o - 0x20000) (v &&& ~~~(1#64 <<< 62)) } : State).enqueue (.functionLevelReset f)
  | e => s.enqueue e

/-- REGISTER_WRITE (R77, R242, R287, R306, R321, R339): numbers below 0x800 are system registers, 0x10000 + o is MMIO offset o, and a
virtual function reaches only its launch page (R301). After a failed boot BAR0 takes only a replacement image (R309). -/
def execRegisterWrite (by_ : Writer) (num : Nat) (v : Word) (s : State) : Out :=
  .next (match by_ with
    | .page f =>
      let x := s.dl.vf f
      if num = 0x1000 ∧ x.flr = false ∧ s.pk.fail = 0 then { s with dl := s.dl.setVf f { x with head := v.setWidth 32 } } else s
    | .ctx c => s.ctxWrite c num v
    | .hyper =>
      if s.pk.fail ≠ 0 then { s with pk := { s.pk with image := s.pk.image ++ [(num, v)] } }
      else if num < 0x800 then s.serviceWrite num v else if 0x10000 ≤ num then s.mmioWrite false (num - 0x10000) v else s
    | .service | .block => if num < 0x800 then s.serviceWrite num v else if 0x10000 ≤ num then s.mmioWrite false (num - 0x10000) v else s
    | .lantern => if 0x10000 ≤ num then s.mmioWrite true (num - 0x10000) v else s)

end Sys2Proof.Machine
end

