-- ==== Sys2Proof/Machine/Launch.lean ====
section
/-! DEFINITION. Launch queues, their rings and doorbells (R288 to R291), the launch pool, dependences, order and completion
(R12 to R16, R289, R292 to R294). -/

namespace Sys2Proof.Machine

def State.modDl (s : State) (f : DieLaunch → DieLaunch) : State := { s with dl := f s.dl }
def DieLaunch.queue (d : DieLaunch) (q : Nat) : Queue := getAt Queue.reset d.queues q
def DieLaunch.setQueue (d : DieLaunch) (q : Nat) (k : Queue) : DieLaunch := { d with queues := putAt Queue.reset d.queues q k }
def State.setQueue (s : State) (q : Nat) (k : Queue) : State := s.modDl fun d => d.setQueue q k

/-! ### The rings of the queues (R291) -/

/-- The bytes of a ring, and the units of 64 KiB that it takes in the area. -/
def Queue.bytes (k : Queue) : Nat := 2 ^ k.log2n.toNat * 128
def Queue.units (k : Queue) : Nat := (k.bytes + 65535) / 65536

/-- The resident rings. -/
def DieLaunch.resident (d : DieLaunch) : List (Nat × Queue) := d.queues.filter fun e => e.2.en && !e.2.swap
/-- The area in units of 64 KiB. -/
def DieLaunch.areaSize (d : DieLaunch) : Nat := fieldOf d.qarea 15 0
/-- A weight of 0 counts as 1 (R295). -/
def weight (b : Byte) : Nat := if b = 0 then 1 else b.toNat
/-- The virtual functions that own an enabled queue. -/
def DieLaunch.owners (d : DieLaunch) : List (BitVec 6) := ((d.queues.filter (·.2.en)).map (·.2.vf)).eraseDups
def DieLaunch.use (d : DieLaunch) (v : BitVec 6) : Nat := ((d.resident.filter (·.2.vf == v)).map (·.2.units)).sum
def DieLaunch.queueWeight (d : DieLaunch) (v : BitVec 6) : Nat := weight (d.vf v).qw
/-- Use less share, times the sum of the weights. -/
def DieLaunch.excess (d : DieLaunch) (v : BitVec 6) : Int :=
  (d.use v * (d.owners.map d.queueWeight).sum : Nat) - (d.areaSize * d.queueWeight v : Nat)

/-- The lowest place in the area where `n` units are free, none where there is no such place. -/
def DieLaunch.gap (d : DieLaunch) (n : Nat) : Option Nat :=
  let starts := 0 :: d.resident.map fun e => e.2.slot + e.2.units
  (starts.filter fun u => decide (u + n ≤ d.areaSize) &&
    d.resident.all fun e => decide (u + n ≤ e.2.slot ∨ e.2.slot + e.2.units ≤ u)).min?

/-- Where the ring of a queue stands. -/
def DieLaunch.ringAt (d : DieLaunch) (k : Queue) : Nat :=
  if k.swap then k.base.toNat * 128 else 0x8000000000 + (fieldOf d.qarea 35 20 + k.slot) * 65536

/-- Whole sectors, `n` bytes from `a`, become zero under the mapping in force (R250, R254). A sector without a tag is a zero-tagged one of epoch 0. -/
def DieMem.clearSpan (d : DieMem) (a n : Nat) : DieMem :=
  let secs := if 2 ^ 37 ≤ a ∨ (d.blocks.all fun b => b.2 == 0) = true then [] else (List.range (n / 32)).map (a / 32 + ·)
  secs.foldl (fun d sec => d.setTag sec ⟨0, d.epochOf (sec * 32), false⟩)
    { d with mem := d.mem.filter fun e => !decide (a ≤ e.1 ∧ e.1 < a + n), tags := d.tags.filter fun e => !decide (a / 32 ≤ e.1 ∧ e.1 < a / 32 + n / 32) }

/-- The sectors of a span of `n` bytes that do not stand under key slot 0 and the mapping in force (R254, R260). -/
def DieMem.strange (d : DieMem) (a n : Nat) : List Nat :=
  let secs := if 2 ^ 37 ≤ a ∨ (d.blocks.all fun b => b.2 == 0) = true then (d.tags.map (·.1)).filter fun e => decide (a / 32 ≤ e ∧ e < a / 32 + n / 32)
    else (List.range (n / 32)).map (a / 32 + ·)
  secs.filter fun e => !d.plain (d.keyTag 0) e

/-- Move `n` bytes of device memory, a whole number of sectors, under key slot 0 (R260): what was written under another key or mapping moves as free
bytes (R254, R261). -/
def State.moveBytes (s : State) (src dst n : Nat) : State :=
  let odd := s.dm.strange src n
  let cells := s.dm.mem.filter fun e => decide (src ≤ e.1 ∧ e.1 < src + n) && !odd.contains (e.1 / 32)
  let (k, s) := s.stamp
  let s : State := { s with dm := s.dm.clearSpan dst n }
  let s := cells.foldl (fun (s : State) e => s.devWrite (dst + (e.1 - src)) [e.2]) s
  odd.foldl (fun (s : State) e => s.devWrite (dst + (e * 32 - src)) ((List.range 32).map fun i => Config.freeByte k (e * 32 + i))) s

/-- The ring that is swapped out for a ring of `v`: the largest of the virtual function whose use most exceeds its share, the higher
number at a tie. None where that is `v` itself, or where it has no resident ring. -/
def DieLaunch.victim (d : DieLaunch) (v : BitVec 6) : Option Nat :=
  let worst := d.owners.foldl (fun (b : Option (BitVec 6)) w => match b with
    | none => some w
    | some b => if d.excess b < d.excess w ∨ (d.excess b = d.excess w ∧ b.toNat < w.toNat) then some w else some b) none
  match worst with
  | none => none
  | some w =>
    if w = v then none
    else ((d.resident.filter (·.2.vf == w)).foldl (fun (b : Option (Nat × Queue)) e => match b with
      | none => some e
      | some b => if b.2.units < e.2.units then some e else some b) none).map (·.1)

/-- The swapped ring that returns first to the free area: of the virtual function with the lowest use for its share. -/
def DieLaunch.returning (d : DieLaunch) : Option Nat :=
  ((d.queues.filter fun e => e.2.en && e.2.swap && (d.gap e.2.units).isSome).foldl (fun (b : Option (Nat × Queue)) e => match b with
    | none => some e
    | some b => if d.use e.2.vf * d.queueWeight b.2.vf < d.use b.2.vf * d.queueWeight e.2.vf then some e else some b) none).map (·.1)

/-- Area was freed: a swapped ring returns. -/
def State.areaFreed (s : State) : State := match s.dl.returning with | some q => s.later (.queueRingSwap (BitVec.ofNat 9 q) false) | none => s

/-- The queue freezes and the overrun is posted to its owner (R290). -/
def State.overrun (s : State) (q : BitVec 9) (sub : Nat) (t : Word32) : State :=
  let k := s.dl.queue q.toNat
  let s := s.setQueue q.toNat { k with frozen := true }
  (s.log k.vf ⟨3, sub, 0, 0, k.vf, 0, 0, 0, 0, q.setWidth 64, t.setWidth 64⟩).raise (some k.vf) 1

/-- Move the ring of a queue between the area and its backing. What would stand in the carve-out at or above its size reaches nothing, and is the
overrun of the queue (R251). -/
def State.moveRing (s : State) (q src dst : Nat) : State :=
  let k := s.dl.queue q
  let n := min k.bytes (min (s.dm.room src) (s.dm.room dst))
  let s := s.moveBytes src dst n
  if n = k.bytes ∨ k.frozen = true then s else s.overrun (BitVec.ofNat 9 q) 1 k.tail

def State.swapOut (s : State) (q : Nat) : State :=
  let k := s.dl.queue q
  if k.en && !k.swap then
    let s := s.moveRing q (s.dl.ringAt k) (k.base.toNat * 128)
    s.setQueue q { s.dl.queue q with swap := true, slot := 0 }
  else s

def State.swapIn (s : State) (q : Nat) : State :=
  let k := s.dl.queue q
  match s.dl.gap k.units with
  | some u =>
    if k.en && k.swap then
      let s := s.moveRing q (k.base.toNat * 128) (s.dl.ringAt { k with swap := false, slot := u })
      s.setQueue q { s.dl.queue q with swap := false, slot := u }
    else s
  | none => s

/-- QUEUE_RING_SWAP (R291): a ring moves to its backing, or back into the area where it fits. -/
def execQueueRingSwap (q : BitVec 9) (out : Bool) (s : State) : Out :=
  .next ((if out then s.swapOut q.toNat else s.swapIn q.toNat).areaFreed)

/-- Swap rings out until the ring of queue `q` fits, then place it (R291). -/
def State.placeRing (s : State) (q : Nat) : Nat → State
  | 0 => s
  | n + 1 =>
    let k := s.dl.queue q
    if (s.dl.gap k.units).isSome then s.swapIn q
    else match s.dl.victim k.vf with
      | none => s
      | some w => State.placeRing (s.swapOut w) q n

/-! ### Queues and doorbells -/

/-- QUEUE_AREA_CONFIG (R291): accepted only while no queue is enabled. -/
def execQueueAreaConfig (v : Word) (s : State) : Out :=
  if s.dl.queues.any (·.2.en) then .next s else .next (s.modDl fun d => { d with qarea := keep v 35 20 ||| keep v 15 0 })

/-- The writer owns the enabled queue and is not being reset (R288, R303). -/
def State.ownsQueue (s : State) (vf : BitVec 6) (q : BitVec 9) : Bool :=
  let k := s.dl.queue q.toNat
  k.en && k.vf == vf && !(s.dl.vf vf).flr

/-- An address at or above the size of the carve-out, as far as an offset of the launch queues reaches (R251). -/
def State.beyondCarve (s : State) (a : Nat) : Bool := decide (0x8000000000 + s.dm.carveSize ≤ a ∧ a < 0x8200000000)

/-- LAUNCH_WINDOW_WRITE (R288): the device routes the write to wherever the ring resides. -/
def execLaunchWindowWrite (vf : BitVec 6) (off : Nat) (v : Word) (s : State) : Out :=
  let q : BitVec 9 := BitVec.ofNat 9 (off / 2 ^ 23)
  let o := off % 2 ^ 23 / 8 * 8
  let k := s.dl.queue q.toNat
  if s.ownsQueue vf q = true ∧ o < k.bytes then
    let a := s.dl.ringAt k + o
    if s.beyondCarve a then .next (s.overrun q 1 k.tail) else .next (s.devPut a v)
  else .next s

/-- A RESET doorbell (R290): a frozen queue whose launches have retired starts again at T. -/
def State.resetQueue (s : State) (q : BitVec 9) (t : Word32) : State :=
  let k := s.dl.queue q.toNat
  if k.frozen = true ∧ k.pend = 0 then s.setQueue q.toNat { k with head := t, tail := t, ret := t, frozen := false, status := [] } else s

/-- DOORBELL (R290). -/
def execDoorbell (vf : BitVec 6) (q : BitVec 9) (v : Word) (s : State) : Out :=
  let k := s.dl.queue q.toNat
  let t : Word32 := v.setWidth 32
  let d := (t - k.tail).toNat
  if s.ownsQueue vf q = false then .next s
  else if bitAt v 63 then .next (s.resetQueue q t)
  else if k.frozen = true ∨ d = 0 then .next s
  else if 2 ^ 31 ≤ d then .next (s.overrun q 2 t)
  else if 2 ^ k.log2n.toNat < (t - k.head).toNat then .next (s.overrun q 1 t)
  else .next (s.setQueue q.toNat { k with tail := t })

/-- DOORBELL_RESET (R290). -/
def execDoorbellReset (vf : BitVec 6) (q : BitVec 9) (v : Word) (s : State) : Out :=
  if s.ownsQueue vf q then .next (s.resetQueue q (v.setWidth 32)) else .next s

/-! ### Completion -/

def Launch.word (l : Launch) (i : Nat) : Word := (l.record[i]?).getD 0
def Launch.asid (l : Launch) : BitVec 13 := BitVec.ofNat 13 (fieldOf (l.word 9) 20 8)
def Launch.prio (l : Launch) : Nat := fieldOf (l.word 9) 2 0
def Launch.who (l : Launch) : Who := whoOf l.asid l.vf l.job
def Launch.queueNo (l : Launch) : Nat := fieldOf l.id 56 48
def Launch.seq (l : Launch) : Word32 := l.id.setWidth 32

/-- The launch of an identifier that runs. -/
def DieLaunch.runningOf (d : DieLaunch) (id : Word) : Option Launch := d.pool.find? fun l => l.id == id && l.state == .running
/-- Replace the first launch of the pool that equals `l`. -/
def replaceLaunch (l m : Launch) : List Launch → List Launch
  | [] => []
  | a :: r => if a = l then m :: r else a :: replaceLaunch l m r
def State.setLaunch (s : State) (l m : Launch) : State := s.modDl fun d => { d with pool := replaceLaunch l m d.pool }

/-- Store bytes through an address space as the device itself, at this die's homes or toward another die's (R14, R384). A job that is not
enabled names no dies: this die is then the owner (R94; log 43). -/
def State.deviceStore (s : State) (w : Who) (a : Word) (v : Word) : State :=
  (pieces 2 a.toNat 8 0).foldl (fun (s : State) p =>
    let bytes : Sector := BitVec.ofNat 256 ((v.toNat >>> (8 * p.pos)) % 2 ^ (8 * p.len) * 2 ^ (8 * p.at_))
    if s.jobEnabled w.job w.vf then (s.toHome svc w p.sec p.mask bytes false false false).2
    else match s.access w (p.sec % 2 ^ 47 * 32) .store 8 with
      | (.ok (pa, e), s) => s.homeWrite w pa e p.mask bytes
      | (.error _, s) => s) s

/-- The status that a launch completes with (R14). -/
def Launch.final (l : Launch) : Nat := if l.status ≠ 0 then l.status else if l.faults = 0 then 0 else 3

/-- A launch completes: its completion word is written, if DONEP names one that is mapped (R14, R293). -/
def State.completeLaunch (s : State) (l : Launch) (status : Nat) : State :=
  let l' : Launch := { l with state := .complete, status := status, open_ := [] }
  let s := s.setLaunch l l'
  let donep := l.word 10
  if donep = 0 then s else s.deviceStore l.who donep (BitVec.ofNat 64 (status + capAt (2 ^ 32 - 1) l.faults * 256))

/-- A refused launch completes with status 1, and the refusal is logged (R13, R302). -/
def State.refuseLaunch (s : State) (l : Launch) (sub : Nat) : State :=
  (s.completeLaunch l 1).log l.vf ⟨2, sub, l.job, l.asid, l.vf, l.id, 0, 0, 0, 0, 0⟩

/-- LAUNCH_COMPLETE (R15, R293): every sub-launch has ended. -/
def execLaunchComplete (id : Word) (s : State) : Out :=
  match s.dl.runningOf id with
  | none => .next s
  | some l => if l.open_ = [] then .next (s.completeLaunch l l.final) else .next s

/-- The launch that retires next from a queue: its oldest of the pool, once complete. -/
def DieLaunch.retiring (d : DieLaunch) (q : Nat) : Option Launch :=
  match d.pool.find? fun l => l.queueNo == q with
  | some l => if l.state = .complete then some l else none
  | none => none

/-- LAUNCH_RETIRE (R293): RET advances, PEND falls, and the queue keeps the status of its last 256 records. -/
def execLaunchRetire (q : BitVec 9) (s : State) : Out :=
  match s.dl.retiring q.toNat with
  | none => .next s
  | some l =>
    let k := s.dl.queue q.toNat
    let k' : Queue := { k with ret := k.ret + 1, pend := k.pend - 1, status := ((l.seq.toNat, l.status) :: k.status).take 256 }
    .next (s.modDl fun d => { d.setQueue q.toNat k' with pool := d.pool.erase l })

/-- The jobs whose table entry has a byte other than 0 at its top, as every enabled one has (R297), or is not read as it was written. -/
def State.listedJobs (s : State) : List (BitVec 12) :=
  let base := fieldOf s.dl.jobt 39 13 * 2 ^ 13
  ((s.dm.mem.filter fun e => decide (base ≤ e.1 ∧ e.1 < base + 32768 ∧ e.1 % 8 = 7)).map fun e => BitVec.ofNat 12 ((e.1 - base) / 8)) ++
    ((s.dm.strange base 32768).flatMap fun e => (List.range 4).map fun i => BitVec.ofNat 12 ((e * 32 - base) / 8 + i))

/-! ### Stopping and enabling a queue -/

/-- The valid DEP words of a record. -/
def Launch.deps (l : Launch) : List Word := ((l.record.drop 5).take 4).filter fun w => bitAt w 63

/-- The launch of the pool that a DEP word waits on stands before another (R292, R293): a launch of the named queue, not after the named record. -/
def Launch.blocks (m : Launch) (w : Word) : Bool :=
  fieldOf w 56 48 == m.queueNo && decide ((BitVec.ofNat 32 (fieldOf w 31 0) - m.seq).toNat < 2 ^ 31)

/-- The waiting launches that a launch waits on. -/
def DieLaunch.blockers (d : DieLaunch) (l : Launch) : List Launch :=
  d.pool.filter fun m => m.state == .waiting && l.deps.any fun w => !d.depMet w && m.blocks w

/-- The waiting launches that can be reached from some by what they wait on. -/
def DieLaunch.reach (d : DieLaunch) (l : List Launch) : Nat → List Launch
  | 0 => l
  | n + 1 => DieLaunch.reach d (l ++ l.flatMap d.blockers).eraseDups n

/-- The launch stands in a cycle of dependences (R292). -/
def DieLaunch.inCycle (d : DieLaunch) (l : Launch) : Bool := (d.reach (d.blockers l) d.pool.length).contains l

/-- The launches of a dependence cycle wait until their queue is stopped: then those of the queue end without running, with status 5 (R292;
log 99). -/
def State.endCycles (s : State) (q : Nat) : State :=
  (s.dl.pool.filter fun l => l.queueNo == q && l.state == .waiting && s.dl.inCycle l).foldl (fun (s : State) l => s.completeLaunch l 5) s

/-- A queue stops (R288): no further record is taken. -/
def State.stopQueue (s : State) (q : Nat) : State := s.setQueue q { s.dl.queue q with en := false, swap := false, slot := 0 }

/-- LAUNCH_QUEUE_CONFIG (R288): an accepted enabling write starts the queue empty; a write with EN = 0 stops it. -/
def execLaunchQueueConfig (q : BitVec 9) (v : Word) (s : State) : Out :=
  let k := s.dl.queue q.toNat
  if bitAt v 63 then
    let log2n := fieldOf v 47 43
    let base := fieldOf v 39 7
    let vf : BitVec 6 := BitVec.ofNat 6 (fieldOf v 57 52)
    if k.en = false ∧ log2n ≤ 16 ∧ (s.dl.vf vf).en = true ∧ base * 128 + 2 ^ log2n * 128 ≤ 2 ^ 37 then
      let s := s.setQueue q.toNat ⟨true, false, true, vf, BitVec.ofNat 5 log2n, BitVec.ofNat 33 base, 0, 0, 0, k.pend, [], 0⟩
      .next (s.placeRing q.toNat 513).areaFreed
    else .next s
  else if k.en then .next ((s.endCycles q.toNat).stopQueue q.toNat).areaFreed
  else .next s

/-! ### Taking -/

/-- A record may be taken from a queue (R289, R309). -/
def State.takeable (s : State) (k : Queue) : Bool :=
  k.en && !k.frozen && k.head != k.tail && decide (s.dl.pool.length < 256) && s.pk.stage == 6

/-- The turn at which a queue is visited next: a swapped ring only on every fourth turn (R289). -/
def DieLaunch.turnOf (d : DieLaunch) (q : Nat) (k : Queue) : Nat :=
  let a := d.turn + (q + 512 - d.turn % 512) % 512
  if k.swap then a + (7 - a / 512 % 4) % 4 * 512 else a

/-- The queue whose record is taken next, with its turn. -/
def State.nextQueue (s : State) : Option (Nat × Queue) :=
  (s.dl.queues.filter fun e => s.takeable e.2).foldl (fun (b : Option (Nat × Queue)) e => match b with
    | none => some e
    | some b => if s.dl.turnOf e.1 e.2 < s.dl.turnOf b.1 b.2 then some e else some b) none

/-- A DEP word for which the launch is refused (R292). -/
def DieLaunch.depRefused (d : DieLaunch) (l : Launch) (w : Word) : Bool :=
  let q := fieldOf w 56 48
  fieldOf w 62 57 != l.vf.toNat || !((d.queue q).en && (d.queue q).vf == l.vf) || fieldOf w 47 32 != 0 ||
    (q == l.queueNo && decide ((BitVec.ofNat 32 (fieldOf w 31 0) - l.seq).toNat < 2 ^ 31))

/-- The record itself is refused (R13, R341): address space, job, die map, reserved fields, those of the die map's header among them (R6). -/
def State.recordRefused (s : State) (l : Launch) : Bool :=
  let a := s.asidWord l.asid
  let w := l.word 9
  let h := s.devWord l.dmap
  let n := fieldOf h 12 0
  fieldOf a 1 0 != 1 || fieldOf a 7 2 != l.vf.toNat || !s.jobEnabled l.job l.vf || n == 0 || decide (4095 < n) || fieldOf h 63 13 != 0 ||
    fieldOf w 63 44 != 0 || fieldOf w 31 21 != 0 || fieldOf w 7 3 != 0 || (l.record.drop 11).any (· != 0)

/-- The identifier of a record (R289), in the layout of DEP0. -/
def launchId (vf : BitVec 6) (q : Nat) (seq : Word32) : Word := BitVec.ofNat 64 (2 ^ 63 + vf.toNat * 2 ^ 57 + q % 512 * 2 ^ 48 + seq.toNat)

/-- Take record HEAD of a queue (R289): it is read once, and so is its job's entry (R297). -/
def State.takeRecord (s : State) (q : Nat) (k : Queue) : State :=
  let a := s.dl.ringAt k + k.head.toNat % 2 ^ k.log2n.toNat * 128
  let s := s.modDl fun d => { d with turn := d.turnOf q k + 1 }
  if s.beyondCarve a then s.overrun (BitVec.ofNat 9 q) 1 k.tail
  else
    let record := (List.range 16).map fun i => s.devWord (a + 8 * i)
    let job : BitVec 12 := BitVec.ofNat 12 (fieldOf ((record[9]?).getD 0) 43 32)
    let l : Launch := ⟨launchId k.vf q k.head, k.vf, record, s.dl.dcyc.toNat, .waiting, [], 0, 0, s.dieMap job⟩
    let s := s.modDl fun d => { d.setQueue q { k with head := k.head + 1, pend := k.pend + 1 } with pool := d.pool ++ [l] }
    if s.recordRefused l then s.refuseLaunch l 1
    else if l.deps.any (s.dl.depRefused l) then s.refuseLaunch l 2
    else s

/-- LAUNCH_TAKE (R289). -/
def execLaunchTake (s : State) : Out := match s.nextQueue with | some (q, k) => .next (s.takeRecord q k) | none => .next s

/-! ### The loop table (R16, R17) -/

/-- A loop table: grid, levels as kind and effective extent, and whether its reserved fields are zero. -/
structure LoopTable where (nlev width height ndist : Nat) (levels : List (Nat × Nat)) (clean : Bool)

/-- The product of the extents of one kind. -/
def LoopTable.points (t : LoopTable) (kind : Nat) : Nat := (t.levels.filter (·.1 == kind)).foldl (fun a l => a * l.2) 1

/-- Read the table from its 64 bytes: `ext` are the extents of the launch record. The reserved fields of the header, of the levels in use and of the
last word are zero (R6, R16; log 100). Every image carries a table; one of zeros has height 0 (log 72). -/
def loopTable (w : List Word) (ext : List Nat) : LoopTable :=
  let h := (w[0]?).getD 0
  let n := fieldOf h 2 0
  let lv := (List.range (capAt 6 n)).map fun i =>
    let d := (w[i + 1]?).getD 0
    let e := (ext[i]?).getD 0
    let kind := fieldOf d 1 0
    (kind, if kind = 0 ∨ e = 0 then fieldOf d 63 32 else e)
  let zeros := fieldOf h 63 20 == 0 && !bitAt h 15 && fieldOf h 7 3 == 0 && (w[7]?).getD 0 == 0 &&
    (List.range (capAt 6 n)).all fun i => fieldOf ((w[i + 1]?).getD 0) 31 2 == 0
  ⟨n, fieldOf h 11 8 + 1, fieldOf h 14 12, fieldOf h 19 16, lv, zeros⟩

/-- The table breaks a limit of R16 that it states itself, or a reserved field of it is nonzero (R6; log 100). -/
def LoopTable.bad (t : LoopTable) : Bool :=
  !t.clean || t.nlev == 7 || t.height == 0 || t.height == 7 || t.levels.any (fun l => l.1 == 3 || l.2 == 0) || decide (96 < t.width * t.height) ||
    decide (2 ^ 20 < t.points 1) || decide (2 ^ 32 - 1 < t.points 0)

/-- The extents of a launch record (R12). -/
def Launch.extents (l : Launch) : List Nat := (List.range 6).map fun i => fieldOf (l.word (2 + i / 2)) (32 * (i % 2) + 31) (32 * (i % 2))

/-- An address of an image that names a die of the job: each die's loader reads the copy placed at the same die-local offset there (R384, R369;
log 30). -/
def State.imageHere (s : State) (w : Who) (sec : Nat) : Bool :=
  match s.dieOf w.job (sec / 2 ^ 47) with | .own => true | .other _ _ => true | _ => false

/-- Bytes of an image read for its address space (R384): none where one is not mapped or not readable. -/
def State.imageBytes (s : State) (w : Who) (l : List Piece) : Option (List Byte) × State :=
  match l with
  | [] => (some [], s)
  | p :: r =>
    if s.imageHere w p.sec then
      match s.homeSpan w .load 8 [{ p with sec := p.sec % 2 ^ 47 }] with
      | (.error _, s) => (none, s)
      | (.ok bs, s) => match State.imageBytes s w r with | (some q, s) => (some (bs ++ q), s) | (none, s) => (none, s)
    else (none, s)

/-- Read `n` bytes of an image. -/
def State.imageRead (s : State) (w : Who) (a n : Nat) : Option (List Byte) × State :=
  if 2 ^ 64 < a + n then (none, s) else s.imageBytes w (pieces (n / 32 + 2) a n 0)

/-- The words of a list of bytes. -/
def wordsOf (bs : List Byte) (n : Nat) : List Word := (List.range n).map fun i => wordOf ((bs.drop (8 * i)).take 8)

/-! ### Starting -/

/-- The aged priority (R34, R294). -/
def aged (prio waited : Nat) : Nat := capAt 7 (prio + waited / 2 ^ 20)
def State.agedOf (s : State) (l : Launch) : Nat := aged l.prio (s.dl.dcyc.toNat - l.taken)

/-- A named launch retired with a nonzero status (R292, R293). -/
def DieLaunch.depFailed (d : DieLaunch) (l : Launch) : Bool :=
  l.state == .waiting && l.deps.any fun w =>
    d.depMet w && (((d.queue (fieldOf w 56 48)).status.find? fun e => e.1 == fieldOf w 31 0).map (·.2)).getD 0 != 0

/-- The ready launch that starts next: the greatest aged priority, the earlier taken at a tie. -/
def State.startable (s : State) : Option Launch :=
  if 64 ≤ s.dl.running then none
  else (s.dl.pool.filter s.dl.ready).foldl (fun (b : Option Launch) l => match b with
    | none => some l
    | some b => if s.agedOf b < s.agedOf l then some l else some b) none

/-- The launch is refused under R16: a limit of the table, or its die points and the job's die map. -/
def State.tableRefused (s : State) (l : Launch) (t : LoopTable) : Bool :=
  t.bad || decide (fieldOf (s.devWord l.dmap) 12 0 < t.points 2) || (List.range (t.points 2)).any fun d => s.dieIn l.dmap d == .bad

/-- Create the sub-launch of die point d (R294). -/
def State.createSub (s : State) (l : Launch) (d : Nat) : State :=
  let m : SubMsg := ⟨s.ownIn l.dmap, none, l.id, d, l.vf, l.record⟩
  match s.dieIn l.dmap d with
  | .own => s.later (.sublaunchCreate m)
  | .other fid die => s.send ⟨fid, die, false, .sublaunch m⟩
  | _ => s.later (.sublaunchEnded l.id d 0 1)

/-- Start a launch (R16, R294). -/
def State.startLaunch (s : State) (l : Launch) : State :=
  if l.word 0 &&& 255 ≠ 0 then s.refuseLaunch l 1
  else match s.imageRead l.who ((l.word 0).toNat + 0x40) 64 with
    | (none, s) => s.refuseLaunch l 1
    | (some bs, s) =>
      let t := loopTable (wordsOf bs 8) l.extents
      if s.tableRefused l t then s.refuseLaunch l 1
      else
        let ds := List.range (t.points 2)
        let s := s.setLaunch l { l with state := .running, open_ := ds }
        ds.foldl (fun (s : State) d => s.createSub l d) s

/-- LAUNCH_START (R292, R294): a launch whose dependence failed completes with status 5; else the first ready one starts. -/
def execLaunchStart (s : State) : Out :=
  match s.dl.pool.find? s.dl.depFailed with
  | some l => .next (s.completeLaunch l 5)
  | none => match s.startable with
    | some l => .next (s.startLaunch l)
    | none => .next s

/-- The status of a launch of which one more sub-launch has ended with `b`: the lower of two refusals. -/
def joinStatus (a b : Nat) : Nat := if a = 0 then b else if b = 0 then a else min a b

/-- A sub-launch ends at its home (R294): its faults join the launch's, once. -/
def State.endSub (s : State) (id : Word) (d status faults : Nat) : State :=
  match s.dl.runningOf id with
  | none => s
  | some l =>
    if l.open_.contains d then
      let s := s.setLaunch l { l with open_ := l.open_.filter (· != d), faults := l.faults + faults, status := joinStatus l.status status }
      if status = 1 then s.log l.vf ⟨2, 1, l.job, l.asid, l.vf, l.id, 0, 0, 0, 0, 0⟩ else s
    else s

/-- SUBLAUNCH_ENDED (R294). -/
def execSublaunchEnded (id : Word) (d status faults : Nat) (s : State) : Out := .next (s.endSub id d status faults)

end Sys2Proof.Machine
end

