-- ==== Sys2Proof/Machine/Tenancy.lean ====
section
/-! DEFINITION. The fault service of the die (R298, R299), the shoot-down (R300), function-level reset (R303, R304), MSI-X signals of
the runtime (R306). -/

namespace Sys2Proof.Machine

/-! ### The fault service (R299) -/

/-- The channel whose parked row an entry of this die names. -/
def State.parkedRow (s : State) (w : FaultWords) : Option (Fin 4 × Fin 8) :=
  (List.finRange 4).findSome? fun c =>
    if (s.ctx (strandCtx c)).strand.any fun t => t.recAddr == fieldOf w.w0 39 6 * 64 then
      ((List.finRange 8).find? fun ch => (s.chan c ch).parked && (s.chan c ch).faultAddr == w.w1).map fun ch => (c, ch)
    else none

/-- What an entry of this die stands for. -/
def State.kindOf (s : State) (w : FaultWords) : FaultKind :=
  match fieldOf w.w0 1 0 with
  | 0 => match s.dl.away.find? fun a => a.q.addr == fieldOf w.w0 39 6 * 64 with
    | some a => .strand a.tag
    | none => .stray
  | 1 => match s.parkedRow w with
    | some (c, ch) => .copyRow c ch
    | none => .stray
  | _ => .stray

/-- A strand's entry is resolved: its record is queued at this moment, or the strand ends with an unresolved fault. -/
def State.resolveStrand (s : State) (tag : Nat) (resume : Bool) : State :=
  match s.dl.away.find? fun a => a.tag % 2 ^ 32 == tag % 2 ^ 32 with
  | none => s
  | some a =>
    if resume then
      s.modDl fun d => { d with away := d.away.erase a, records := d.records ++ [{ a.q with since := s.dl.dcyc.toNat }] }
    else s.endAway a 8

/-- A row's entry is resolved: it runs again, or becomes a copy fault (R185). -/
def State.resolveRow (s : State) (c : Fin 4) (ch : Fin 8) (resume : Bool) : State :=
  let x := s.chan c ch
  if !x.parked || x.state == .idle then s
  else if resume then s.setChan c ch { x with parked := false }
  else s.copyFault c ch x.row ⟨x.fault, x.srcSide, x.bad, x.faultAddr, x.off⟩

/-- A resolution that another die's fault service sent (R299; log 23). -/
def State.resolveTag (s : State) (tag : Nat) (resume : Bool) : State :=
  if tag % 2 = 0 then s.resolveStrand tag resume
  else
    let n := tag / 2 % 32
    s.resolveRow ⟨n / 8, by omega⟩ ⟨n % 8, by omega⟩ resume

/-- A resolution reaches what waits on the entry. -/
def State.resolve (s : State) (k : FaultKind) (resume : Bool) : State :=
  match k with
  | .strand tag => s.resolveStrand tag resume
  | .copyRow c ch => s.resolveRow c ch resume
  | .stray => s
  | .remote fid die tag job => s.send ⟨fid, die, false, .resolution tag resume job⟩

/-- An entry enters the fault queue, or fails at once where the ring is full or the service disabled; the service context of the core
that DL_FAULTQ names is interrupted. -/
def State.faultArrive (s : State) (w : FaultWords) (k : FaultKind) : State :=
  let r := s.dl.faultq
  let n := 2 ^ fieldOf r 55 52
  match (if bitAt r 63 then findIdx n fun i => s.dl.faults.all fun e => e.idx != i else none) with
  | none => s.resolve k false
  | some i =>
    let a := 0x8000000000 + fieldOf r 15 0 * 65536 + 32 * i
    let s := if s.beyondCarve a then s else s.devWrite a ([w.w0, w.w1, w.w2, w.w3].flatMap fun x => bytesOf x 8)
    let s := s.modDl fun d => { d with faults := d.faults ++ [⟨i, w, k⟩] }
    if fieldOf r 62 60 = s.core.core.toNat ∧ fieldOf r 59 56 = s.core.cluster.toNat then { s with core := { s.core with irq := true } } else s

/-- FAULT_ENTRY (R299), for an abort or a row of this die. -/
def execFaultEntry (e : FaultWords) (s : State) : Out := .next (s.faultArrive e (s.kindOf e))

/-- DL_FRES after a command. -/
def fresWord (op n : Nat) : Word := BitVec.ofNat 64 (op * 2 ^ 62 + n)

/-- Resolve an entry of the queue. -/
def State.resolveEntry (s : State) (n : BitVec 12) (resume : Bool) : State :=
  let s := s.modDl fun d => { d with fres := fresWord (if resume then 1 else 2) n.toNat }
  match s.dl.faults.find? fun e => e.idx == n.toNat with
  | none => s
  | some e => (s.modDl fun d => { d with faults := d.faults.erase e }).resolve e.kind resume

/-- FAULT_RESUME (R299). -/
def execFaultResume (n : BitVec 12) (s : State) : Out := .next (s.resolveEntry n true)
/-- FAULT_FAIL (R299). -/
def execFaultFail (n : BitVec 12) (s : State) : Out := .next (s.resolveEntry n false)

/-! ### The shoot-down (R300) -/

/-- A sector of address space `asid`, of job `job`, lies in a range of the die that began a shoot-down: this die or another. -/
def State.inShoot (s : State) (src : Option (BitVec 16 × BitVec 2)) (asid : BitVec 13) (n page : Nat) (job : BitVec 12) (k : Nat) : Bool :=
  let sec := keySec k
  let p := sec % 2 ^ 47 / 2 ^ 11
  keyAsid k == asid && (n == 15 || decide (page ≤ p ∧ p < page + 2 ^ n)) &&
    (match s.dieOf job (sec / 2 ^ 47), src with
      | .own, none => true
      | .other fid die, some (f, d) => fid == f && die == d
      | _, _ => false)

/-- A range shot down at this die: its dirty sectors go home, all its sectors leave L1 and L2; the acknowledgement follows the write-backs. -/
def State.shootRange (s : State) (src : Option (BitVec 16 × BitVec 2)) (v : Word) : State :=
  match rangeOf v with
  | none => s
  | some (asid, n, page) =>
    let s0 := s
    let job (k : Nat) : BitVec 12 := if (s0.l1At k).valid = 0 then (s0.l2At k).job else (s0.l1At k).job
    let s := s.flushAll svc fun k => s0.inShoot src asid n page (job k) k
    (s.modDl fun d => { d with shootOwed := d.shootOwed ++ [src] }).payShoot

/-- SHOOT_DOWN (R300). -/
def execShootDown (v : Word) (s : State) : Out :=
  match (if s.dl.shootDone then rangeOf v else none) with
  | none => .next s
  | some (asid, n, page) =>
    let s := s.modDl fun d => { d with shoot := rangeWord v, shootDone := false, shootWait := s.fi.members.length * 4 }
    let s := s.tlbDrop asid n page
    .next (s.fi.members.foldl (fun (s : State) fid => (List.range 4).foldl (fun (s : State) k =>
      if fid = s.fi.fid ∧ BitVec.ofNat 2 k = s.core.die then s.later (.shootDownRange v)
      else s.send ⟨fid, BitVec.ofNat 2 k, false, .shootRange v⟩) s) s)

/-- SHOOT_DOWN_RANGE (R300), of a shoot-down that this die began. -/
def execShootDownRange (v : Word) (s : State) : Out := .next (s.shootRange none v)

/-- SHOOT_DOWN_ACK (R300): DONE once every die has acknowledged. -/
def execShootDownAck (s : State) : Out :=
  if s.dl.shootWait = 0 then .next s
  else .next (s.modDl fun d => { d with shootWait := d.shootWait - 1, shootDone := d.shootWait == 1 })

/-! ### Function-level reset (R303) -/

/-- The job's entry is enabled for the tenant. -/
def State.jobOfTenant (s : State) (v : BitVec 6) (j : BitVec 12) : Bool := bitAt (s.jobEntry j) 63 && fieldOf (s.jobEntry j) 45 40 == v.toNat

/-- Zero a span of device memory, its poison with it (R263). -/
def State.zeroSpan (s : State) (a n : Nat) : State := s.modDm fun d => d.clearSpan a n

/-- Messages of the tenant that a port has not sent are discarded by the sender (R348). -/
def State.dropUnsent (s : State) (v : BitVec 6) (c : Fin 5) : State :=
  (List.finRange 16).foldl (fun (s : State) n =>
    let p := s.port c n
    if p.unsent.isEmpty || !s.jobOfTenant v p.job then s
    else (s.setPort c n { p with unsent := [] }).count p.job 0 0 p.unsent.length) s

/-- The tenant's words that are queued at a context, whatever strand it holds, are dropped and counted (R303, R343). -/
def State.dropQueued (s : State) (v : BitVec 6) (c : Fin 5) : State :=
  (List.finRange 16).foldl (fun (s : State) n =>
    let p := s.port c n
    let mine := p.queue.filter fun a => s.jobOfTenant v a.job
    if mine.isEmpty then s
    else (s.setPort c n { p with queue := p.queue.filter fun a => !mine.contains a, read := 0 }).dropMessages mine) s

/-- A pending trap is one of an operation of the tenant. -/
def State.trapOfTenant (s : State) (v : BitVec 6) (c : Fin 5) (a : Async) : Bool :=
  if a.trap.cause = 11 then ((s.ctx c).chans.get (fin8 (BitVec.ofNat 3 (a.trap.opd.get 0).toNat))).who.vf == v
  else s.core.ops.any fun o => o.id == a.op && o.who.vf == v

/-- The engine operations of the tenant in a context are cancelled, whichever strand the context holds now, and the traps they left pending are
not taken (R188, R234, R303). -/
def State.cancelTenant (s : State) (v : BitVec 6) (c : Fin 5) : State :=
  let s0 := s
  let s := s.modCtx c fun x => { x with asyncs := x.asyncs.filter fun a => !s0.trapOfTenant v c a }
  let s := s.cancelTiles fun o => o.ctx.val == c.val && o.who.vf == v
  match asStrand c with | some i => s.cancelFills i false (fun x => x.who.vf == v) id | none => s

/-- Step 2 for a context: a region of the tenant's strand is aborted, sealed or not, and its record discarded; engine operations are cancelled;
Mirror service and a hold end. -/
def State.resetContext (s : State) (v : BitVec 6) (c : Fin 5) : State :=
  match (s.ctx c).strand with
  | none => s.cancelTenant v c
  | some t =>
    if t.vf ≠ v then s.cancelTenant v c
    else (((((s.undoRegion c).cancelTenant v c).modCtx c fun x => { x with asyncs := [] }).leave c none).dropPorts c t.job)

/-- A context reserved for a record of the tenant is free again (R136). -/
def State.endReservation (s : State) (v : BitVec 6) (c : Fin 5) : State :=
  match (s.ctx c).reserved with
  | none => s
  | some a =>
    if fieldOf (s.devWord a) 50 45 ≠ v.toNat then s
    else (s.modCtx c fun x => { x with reserved := none }).dropPorts c (BitVec.ofNat 12 (fieldOf (s.devWord (a + 8)) 63 52))

/-- The Pavane unit of the tenant stops, its stash and reservations dropped (R332). -/
def State.resetPavane (s : State) (v : BitVec 6) : State :=
  if s.pv.vf ≠ v then s
  else
    let s := s.modPv fun p => { p with base := withField p.base 63 63 0, run := 0, stash := [], tasks := [], loaded := false }
    (List.finRange 32).foldl (fun (s : State) n => s.setRing n { s.ring n with rsv := 0 }) s

/-- Step 1: the queues of the tenant stop; its launches that wait complete with status 4. The rings' bytes go with them (log 35). -/
def State.stopTenant (s : State) (v : BitVec 6) : State :=
  let qs := s.dl.queues.filter fun e => e.2.en && e.2.vf == v
  let s := qs.foldl (fun (s : State) e =>
    let s := if e.2.swap then s else s.zeroSpan (s.dl.ringAt e.2) e.2.bytes
    s.setQueue e.1 { e.2 with en := false, swap := false, slot := 0, status := [] }) s
  let s := s.areaFreed
  (s.dl.pool.filter fun l => l.vf == v && l.state == .waiting).foldl (fun (s : State) l => s.completeLaunch l 4) s

/-- FUNCTION_LEVEL_RESET (R303 steps 1 and 2): the tenant's jobs are then to drain; one that meets another is merged into it (R304). -/
def execFunctionLevelReset (v : BitVec 6) (s : State) : Out :=
  if (s.dl.vf v).flr then .next s
  else
    let s := s.modDl fun d => d.setVf v { d.vf v with flr := true }
    let s := s.stopTenant v
    let s := (List.finRange 5).foldl (fun (s : State) c => (s.resetContext v c).endReservation v c) s
    let s := (List.finRange 5).foldl (fun (s : State) c => (s.dropUnsent v c).dropQueued v c) s
    let s := s.modDl fun d => { d with records := d.records.filter (·.vf != v), away := d.away.filter (·.q.vf != v) }
    let s := s.dropSubs (·.vf == v)
    let mine (e : FaultEntry) : Bool := fieldOf (s.asidWord (BitVec.ofNat 13 e.words.w3.toNat)) 7 2 == v.toNat
    let s := s.modDl fun d => { d with faults := d.faults.filter fun e => !mine e }
    let drain := (s.listedJobs.filter fun j => s.jobEnabled j v).map fun j => (j, s.waveNow j)
    .next ((s.resetPavane v).modDl fun d => d.setVf v { d.vf v with drain := drain })

/-- The tenant's key slots are destroyed (R303 step 4). -/
def State.destroyKeys (s : State) (v : BitVec 6) : State :=
  (List.finRange 64).foldl (fun (s : State) n =>
    let k := s.dm.keys.get n
    if n.val = 0 ∨ k.vf ≠ v ∨ k.state = 0 then s
    else s.modDm fun d => { d with keys := d.keys.set n.val { k with state := 0, gen := k.gen + 1 } n.isLt, tlb := d.tlb.filter fun e => pteSlot e.pte != n }) s

/-- The tenant's job table entries are disabled (R303 step 3). -/
def State.disableJobs (s : State) (v : BitVec 6) : State :=
  (s.listedJobs.filter (s.jobOfTenant v)).foldl (fun (s : State) j =>
    s.devPut (fieldOf s.dl.jobt 39 13 * 2 ^ 13 + 8 * j.toNat) (withField (s.jobEntry j) 63 63 0)) s

/-- A job of the tenant has drained: a wave begun after step 2 has found it quiet, with what was lost counted as discarded (R303, R348, R349). -/
def State.drained (s : State) (e : BitVec 12 × Nat) : Bool := (s.fi.job e.1).decl.any fun d => d.quiet && decide (e.2 < d.number)

/-- FLR_COMPLETE (R303 steps 3 to 6), once the jobs have drained and every sector is acknowledged. -/
def execFlrComplete (v : BitVec 6) (s : State) : Out :=
  if (s.dl.vf v).flr = false ∨ s.core.flying ≠ [] ∨ (s.dl.vf v).drain.all s.drained = false then .next s
  else
    let s := (s.disableJobs v).destroyKeys v
    let f := s.dl.vf v
    let s := s.zeroSpan (0x8000000000 + fieldOf f.vfb 15 0 * 65536) (fieldOf f.vfb 47 32 * 65536)
    let s := (s.dl.pool.filter fun l => l.vf == v && l.state == .running).foldl (fun (s : State) l => s.completeLaunch l 4) s
    let s := s.log v ⟨4, 0, 0, 0, v, 0, 0, 0, 0, 0, 0⟩
    let s := (s.raise (some v) 2).raise none 2
    .next (s.modDl fun d => let f := d.vf v; d.setVf v { f with flr := false, en := f.en && !f.enOff, enOff := false, drain := [] })

/-! ### MSI-X signals of the runtime -/

/-- MSI_SIGNAL (R306): a write to PK_MSI by a service context; vectors 0 to 2 are the device's. -/
def execMsiSignal (v : Word) (s : State) : Out :=
  if fieldOf v 5 0 < 3 then .next s else .next (s.raise (some (BitVec.ofNat 6 (fieldOf v 13 8))) (fieldOf v 5 0))

end Sys2Proof.Machine
end

