-- ==== Sys2Proof/Machine/Link.lean ====
section
/-! DEFINITION. Optical links: flits and packets as they are sent and received (R353 to R357), relock (R362), markers (R359). -/

namespace Sys2Proof.Machine

def State.setLink (s : State) (i : Fin 16) (l : Link) : State := s.modFi fun f => { f with links := f.links.set i.val l i.isLt }
def State.link (s : State) (i : Fin 16) : Link := s.fi.links.get i

/-! ### Flits (R354) -/

/-- The CRC-32 of IEEE 802.3, least significant bit first: `n` bits of a value from bit `i` on, into the register `c`. -/
def crcBits (v : Nat) : Nat → Nat → Nat → Nat
  | 0, _, c => c
  | n + 1, i, c => if c % 2 = v >>> i % 2 then crcBits v n (i + 1) (c / 2) else crcBits v n (i + 1) (c / 2 ^^^ 0xEDB88320)
/-- The CRC-32 of the low `n` bits of a value. -/
def crc32 (v n : Nat) : BitVec 32 := ~~~(BitVec.ofNat 32 (crcBits v n 0 0xFFFFFFFF))

def flitType (f : BitVec 576) : Nat := fieldOf f 515 512
def flitAck (f : BitVec 576) : BitVec 14 := BitVec.ofNat 14 (fieldOf f 529 516)
def flitSeq (f : BitVec 576) : BitVec 14 := BitVec.ofNat 14 (fieldOf f 543 530)
def flitPayload (f : BitVec 576) : BitVec 512 := f.setWidth 512
/-- The CRC of a flit covers its payload and the low four control bytes. -/
def flitGood (f : BitVec 576) : Bool := crc32 (f.toNat % 2 ^ 544) 544 == BitVec.ofNat 32 (fieldOf f 575 544)

/-- A flit with its control bytes. -/
def mkFlit (payload : BitVec 512) (type : Nat) (seq ack : BitVec 14) : BitVec 576 :=
  let low := payload.toNat + (type % 16 + ack.toNat * 16 + seq.toNat * 2 ^ 18) * 2 ^ 512
  BitVec.ofNat 576 (low + (crc32 low 544).toNat * 2 ^ 544)

/-- Flits of these types take a sequence number (log 24). -/
def sequenced (type : Nat) : Bool := type == 1 || type == 2 || type == 4 || type == 5

/-! ### Packets as flits (R355) -/

def UnitId.pack (u : UnitId) : Nat := u.cluster.toNat + u.core.toNat * 16 + u.ctx.toNat * 128 + u.port.toNat * 512
def UnitId.unpack (ld n : Nat) : UnitId :=
  ⟨BitVec.ofNat 12 ld, BitVec.ofNat 4 n, BitVec.ofNat 3 (n / 16), BitVec.ofNat 2 (n / 128), BitVec.ofNat 4 (n / 512)⟩

/-- The unit with the high bit of its port number set: no context or channel has it, and a packet of kind 1 that is not counted (R396; log 113), or of
kind 7 that probes (log 17), names its source so. -/
def UnitId.special (u : UnitId) : UnitId := { u with port := u.port ||| 8 }

/-- A packet's fields before its routing. -/
structure Wire where
  (kind job asid : Nat) (src dst : UnitId) (tag : Nat) (arg : Nat) (data : List Byte)

def wordsBytes (l : List Word) : List Byte := l.flatMap fun w => bytesOf w 8

/-- Cut bytes into segments of at most 992. -/
def wireSegments (fuel : Nat) (bs : List Byte) (off : Nat) : List (Nat × List Byte × Bool) :=
  match fuel with
  | 0 => []
  | n + 1 => if bs.length ≤ 992 then [(off, bs, true)] else (off, bs.take 992, false) :: wireSegments n (bs.drop 992) (off + 992)

/-- The sub-launch tag (log 23). -/
def subTag (id : Word) (d : Nat) : Nat := (id.toNat * 4096 + d) % 2 ^ 32

/-- A packet serves a job (R355): all but the fault service of a shoot-down, and kinds 12 and 13 under a job 0 that is not enabled. -/
def State.servesJob (s : State) (kind arg : Nat) (job : BitVec 12) : Bool :=
  !(kind == 12 && decide (3 ≤ arg % 256)) && (!(kind == 12 || kind == 13) || job != 0 || s.jobOn 0)

/-- The packets of a body (R355); a long output travels as several. An acknowledgement request has no kind (log 44). -/
def Body.wires (b : Body) : List Wire :=
  let z := UnitId.zero
  match b with
  | .port p dst => [⟨0, p.job.toNat, 0, p.src, dst, 0, p.words.length, wordsBytes p.words⟩]
  | .store p => [⟨1, p.job.toNat, p.asid.toNat, if p.remote then p.src else UnitId.special p.src, z, p.mask.toNat, p.off, bytesOf p.data 32⟩]
  | .atomic p => [⟨2, p.job.toNat, p.asid.toNat, p.src, z, p.tag, p.off % 2 ^ 52 + p.f.toNat * 2 ^ 52 + b2n p.axch * 2 ^ 58, wordsBytes [p.w, p.e]⟩]
  | .row p =>
    [⟨3, p.job.toNat, p.asid.toNat, p.src, z,
      p.bytes.length + (match p.red with | some o => RedOp.code o * 2 ^ 10 + 2 ^ 14 | none => 0) + b2n p.last * 2 ^ 15 + p.serial % 2 ^ 16 * 2 ^ 16,
      p.off, p.bytes⟩]
  | .pavane p dst => (wireSegments (p.bytes.length / 992 + 1) p.bytes 0).map fun g =>
      ⟨4, p.job.toNat, 0, z, dst, 0, p.ring.val + (p.off + g.1) * 256 + g.2.1.length * 2 ^ 32 + b2n (p.last && g.2.2) * 2 ^ 42, g.2.1⟩
  | .pvCredit job up => [⟨5, job.toNat, 0, z, z, 0, b2n up, []⟩]
  | .jset job v => [⟨6, job.toNat, 0, z, z, 0, 0, wordsBytes [v]⟩]
  | .read p => [⟨7, p.job.toNat, p.asid.toNat, if p.len = 0 then UnitId.special p.src else p.src, z, p.tag, p.off % 2 ^ 52 + max 1 p.len * 2 ^ 52 + b2n p.engine * 2 ^ 62 + b2n p.ws * 2 ^ 63, []⟩]
  | .reply job dst tag (.data bs) => [⟨8, job.toNat, 0, z, dst, tag, bs.length, bs⟩]
  | .reply job dst tag (.failed o n) => [⟨8, job.toNat, 0, z, dst, tag, o * 2 ^ 16 + n * 2 ^ 24, []⟩]
  | .atomReply job dst tag (.data bs) => [⟨9, job.toNat, 0, z, dst, tag, 0, bs⟩]
  | .atomReply job dst tag (.failed o n) => [⟨9, job.toNat, 0, z, dst, tag, o * 2 ^ 16 + n * 2 ^ 24, []⟩]
  | .ack job dst rows count serial => [⟨10, job.toNat, 0, z, dst, serial, count % 2 ^ 32 + b2n rows * 2 ^ 32, []⟩]
  | .credit job dst words => [⟨11, job.toNat, 0, z, dst, 0, words, []⟩]
  | .faultEntry w tag job => [⟨12, job.toNat, 0, z, z, tag, 1, wordsBytes [w.w0, w.w1, w.w2, w.w3]⟩]
  | .resolution tag resume job => [⟨12, job.toNat, 0, z, z, tag, 2 + (if resume then 1 else 2) * 256, []⟩]
  | .shootRange v => [⟨12, 0, 0, z, z, 0, 3, wordsBytes [v]⟩]
  | .shootAck => [⟨12, 0, 0, z, z, 0, 4, []⟩]
  | .sublaunch p =>
    let job := fieldOf ((p.record[9]?).getD 0) 43 32
    [⟨13, job, 0, { z with ldie := p.src }, z, subTag p.id p.d, 1, wordsBytes ([BitVec.ofNat 64 p.d, p.id, 0, 0] ++ p.record)⟩]
  | .subEnded id d status faults job => [⟨13, job.toNat, 0, z, z, subTag id d, 2, wordsBytes [BitVec.ofNat 64 (status + faults % 2 ^ 32 * 256)]⟩]
  | .ackRequest _ | .marker _ _ | .wave _ | .declaration _ | .flits _ _ => []

/-- The 64 bytes of data at block `i`, after the 32 inline bytes. -/
def dataBlock (bs : List Byte) (i : Nat) : BitVec 512 := BitVec.ofNat 512 (ofBytes ((bs.drop (32 + 64 * i)).take 64))

/-- The logical die that a die of another package has in a job's die map, 0 where it has none, and the incarnation expected of it. -/
def State.mapEntry (s : State) (job : BitVec 12) (fid : BitVec 16) (die : BitVec 2) : Nat × Nat :=
  match findIdx (fieldOf (s.devWord (s.dieMap job)) 12 0) fun ld => s.dieOf job ld == .other fid die with
  | some ld => (ld, fieldOf (s.devWord (s.dieMap job + 8 + 8 * ld)) 55 48)
  | none => (0, 0)

/-- The flits of a packet: header and data (R355). -/
def State.wireFlits (s : State) (p : Packet) (w : Wire) : List (Nat × BitVec 512) :=
  let job : BitVec 12 := BitVec.ofNat 12 w.job
  let served := s.servesJob w.kind w.arg job
  let (dl, inc) := if served then s.mapEntry job p.fid p.die else (0, 0)
  let n := (w.data.length - 32 + 63) / 64
  let w0 := p.fid.toNat + p.die.toNat * 2 ^ 16 + s.core.die.toNat * 2 ^ 18 + s.fi.fid.toNat * 2 ^ 20 + s.fi.inc.toNat * 2 ^ 36 + inc * 2 ^ 44 +
    w.kind * 2 ^ 52 + n % 16 * 2 ^ 56 + b2n p.flush * 2 ^ 60
  let w1 := w.job + dl * 2 ^ 12 + (if served then (s.ownLdie job).toNat else 0) * 2 ^ 24 + w.asid * 2 ^ 36
  let w2 := UnitId.pack w.src + UnitId.pack w.dst * 2 ^ 16 + w.tag % 2 ^ 32 * 2 ^ 32
  let h := w0 + w1 * 2 ^ 64 + w2 * 2 ^ 128 + w.arg % 2 ^ 64 * 2 ^ 192 + ofBytes (w.data.take 32) * 2 ^ 256
  (1, BitVec.ofNat 512 h) :: (List.range n).map fun i => (2, dataBlock w.data i)

/-- The payload of a wave flit (R355). -/
def wavePayload (job : BitVec 12) (second act decl quiet : Bool) (number : Nat) (sum : Int) (jflags : Word) (member : Nat) (die : BitVec 2) : BitVec 512 :=
  BitVec.ofNat 512 (job.toNat + b2n second * 2 ^ 12 + b2n act * 2 ^ 13 + b2n decl * 2 ^ 14 + b2n quiet * 2 ^ 15 + number % 2 ^ 48 * 2 ^ 64 +
    (BitVec.ofInt 128 sum).toNat * 2 ^ 128 + jflags.toNat * 2 ^ 256 + (member % 2 ^ 10 + die.toNat * 2 ^ 10) * 2 ^ 320)

/-- The flits of a packet that leaves the package. -/
def State.flitsOf (s : State) (p : Packet) : List (Nat × BitVec 512) :=
  match p.body with
  | .marker job l => [(5, BitVec.ofNat 512 (job.toNat + s.fi.fid.toNat * 2 ^ 16 + l % 16 * 2 ^ 32))]
  | .wave w => [(4, wavePayload w.job w.second w.act false false w.number w.sum 0 w.member w.die)]
  | .declaration d => [(4, wavePayload d.job false false true d.quiet d.number 0 d.jflags (s.fi.members.idxOf p.fid) p.die)]
  | .flits h ds => (1, h) :: ds.map fun d => (2, d)
  | b => b.wires.flatMap (s.wireFlits p)

/-- The live fibre whose turn it is (R353). -/
def Link.nextFibre (l : Link) : Option (Fin 4) := ([1, 2, 3, 4].map fun i => l.turn + i).find? l.live

/-- A flit goes out over the next fibre in turn (R353): none goes where no fibre is live. -/
def Link.emit (l : Link) (f : BitVec 576) : Link × Nat :=
  match l.nextFibre with
  | none => (l, 0)
  | some k => ({ l with out := l.out ++ [(k.val, f)], turn := k }, k.val)

/-- A sequenced flit goes out and joins the replay buffer (R356); it acknowledges what has arrived. -/
def Link.put (l : Link) (type : Nat) (payload : BitVec 512) : Link :=
  let f := mkFlit payload type l.txSeq (l.rxSeq - 1)
  let (l', k) := l.emit f
  { l' with replayBuf := l.replayBuf ++ [⟨l.txSeq, f, k⟩], txSeq := l.txSeq + 1, ackSent := l.rxSeq - 1 }

/-- The flits that wait go out as far as the replay buffer has room: it holds at most 4096 (R356). -/
def Link.drain (l : Link) : Nat → Link
  | 0 => l
  | n + 1 => match l.queue with
    | [] => l
    | f :: r => if l.replayBuf.length < 4096 then Link.drain { l.put f.1 f.2 with queue := r } n else l

/-- The link takes another packet: it is up and no flit of an earlier one waits. -/
def Link.room (l : Link) : Bool := l.isUp && l.queue.isEmpty && decide (l.replayBuf.length < 4096)

/-- The link that carries the packets for a package: the one that has carried them as long as it is up, so that they arrive in the order of their sending
(R270, R272, R273); else an up link to the package, or failing that any up link. -/
def State.linkFor (s : State) (fid : BitVec 16) : Option (Fin 16) :=
  let used := (List.finRange 16).find? fun i => getAt 0 s.fi.via fid.toNat == i.val + 1 && (s.link i).isUp
  (used.orElse fun _ => (List.finRange 16).find? fun i => (s.link i).isUp && (s.link i).peerFid == fid).orElse fun _ =>
    (List.finRange 16).find? fun i => (s.link i).isUp

/-- The link that a packet leaves on, where it takes one now: a marker's own. -/
def State.route (s : State) (p : Packet) : Option (Fin 16) :=
  let i : Option (Fin 16) := match p.body with
    | .marker _ l => (List.finRange 16).find? fun i => i.val == l
    | _ => s.linkFor p.fid
  i.filter fun i => (s.link i).room

/-- A packet that waits for the dark interval to end (R351). -/
def State.darkHeld (s : State) (p : Packet) : Bool :=
  s.fi.dark && (match p.body with | .port _ _ => true | .pavane _ _ => true | .pvCredit _ _ => true | .credit _ _ _ => true | _ => false)

/-- A packet leaves the package now: a marker, or one for another package, once a group table is loaded (R395), out of the dark interval (R351), over a
link that takes it. -/
def State.leaves (s : State) (p : Packet) : Bool :=
  ((match p.body with | .marker _ _ => true | _ => false) || (p.fid != s.fi.fid && s.fi.table.isSome && !s.darkHeld p)) &&
    (s.route p).isSome && !(s.flitsOf p).isEmpty

/-- The first packet that leaves goes out as flits (R353 to R356). -/
def State.sendPacket (s : State) : Option State :=
  (s.fi.outbox.find? s.leaves).bind fun p =>
    (s.route p).map fun i =>
      let l := ({ s.link i with queue := s.flitsOf p } : Link).drain 16
      let via := match p.body with | .marker _ _ => s.fi.via | _ => putAt 0 s.fi.via p.fid.toNat (i.val + 1)
      (s.setLink i l).modFi fun f => { f with outbox := f.outbox.erase p, via := via }

/-- A link that owes its peer an acknowledgement and has nothing to send sends an acknowledgement-only flit (R354, R356). -/
def Link.sendAck (l : Link) : Link :=
  { (l.emit (mkFlit 0 3 0 (l.rxSeq - 1))).1 with ackSent := l.rxSeq - 1 }

/-- What a link does without a new packet: flits that waited for room go out, else an acknowledgement that it owes. -/
def Link.ownTurn (l : Link) : Option Link :=
  if !l.isUp then none
  else if !l.queue.isEmpty && decide (l.replayBuf.length < 4096) then some (l.drain 16)
  else if l.ackSent != l.rxSeq - 1 then some l.sendAck
  else none

/-- The links send: a packet, or what one of them owes. -/
def State.transmit (s : State) : Option State :=
  s.sendPacket.orElse fun _ => (List.finRange 16).findSome? fun i => (s.link i).ownTurn.map (s.setLink i)

/-! ### Receiving a packet -/

/-- Word i of a header. -/
def headWord (h : BitVec 512) (i : Nat) : Nat := fieldOf h (64 * i + 63) (64 * i)
def headKind (h : BitVec 512) : Nat := fieldOf h 55 52
def headJob (h : BitVec 512) : BitVec 12 := BitVec.ofNat 12 (headWord h 1)
def headTag (h : BitVec 512) : Nat := bits (headWord h 2) 63 32
def headArg (h : BitVec 512) : Word := BitVec.ofNat 64 (headWord h 3)
/-- All the data bytes: inline and data flits. -/
def packetBytes (h : BitVec 512) (ds : List (BitVec 512)) : List Byte :=
  bytesOf (BitVec.ofNat 256 (fieldOf h 511 256)) 32 ++ ds.flatMap fun d => bytesOf d 64

/-- The length of the data that a packet of a kind carries (R355). -/
def headLength (h : BitVec 512) : Nat :=
  let arg := headArg h
  match headKind h with
  | 0 => fieldOf arg 6 0 * 8
  | 1 => 32
  | 2 => 16
  | 3 => bits (headTag h) 9 0
  | 4 => fieldOf arg 41 32
  | 6 => 8
  | 8 => fieldOf arg 15 0
  | 9 => 8
  | 12 => if fieldOf arg 7 0 = 1 then 32 else if fieldOf arg 7 0 = 3 then 8 else 0
  | 13 => if fieldOf arg 7 0 = 1 then 160 else 8
  | _ => 0

/-- A field marked zero is nonzero, or a field is out of its range (R355). -/
def headBad (h : BitVec 512) (ds : List (BitVec 512)) : Bool :=
  let k := headKind h
  let w1 := headWord h 1
  let w2 := headWord h 2
  let arg := headArg h
  let tag := headTag h
  let n := headLength h
  let argBad := match k with
    | 0 => fieldOf arg 63 7 != 0 || n == 0 || decide (512 < n)
    | 1 => fieldOf arg 63 52 != 0 || fieldOf arg 4 0 != 0
    | 2 => fieldOf arg 63 59 != 0
    | 3 => fieldOf arg 63 52 != 0 || n == 0 || decide (992 < n) || (tag.testBit 14 && (RedOp.ofCode (bits tag 13 10)).isNone)
    | 4 => fieldOf arg 7 5 != 0 || fieldOf arg 63 43 != 0 || n == 0 || decide (992 < n)
    | 5 => fieldOf arg 63 1 != 0
    | 6 => arg != 0
    | 7 => fieldOf arg 61 52 == 0 || decide (992 < fieldOf arg 61 52)
    | 8 => fieldOf arg 63 32 != 0 || decide (992 < n)
    | 9 => fieldOf arg 15 0 != 0 || fieldOf arg 63 32 != 0
    | 10 => fieldOf arg 63 33 != 0
    | 11 => fieldOf arg 63 7 != 0
    | 12 => fieldOf arg 63 16 != 0 || fieldOf arg 7 0 == 0 || decide (4 < fieldOf arg 7 0) ||
        (if fieldOf arg 7 0 = 2 then fieldOf arg 15 8 == 0 || decide (2 < fieldOf arg 15 8) else fieldOf arg 15 8 != 0)
    | 13 => fieldOf arg 63 8 != 0 || fieldOf arg 7 0 == 0 || decide (2 < fieldOf arg 7 0)
    | _ => true
  let tagZero := (k == 0 || k == 4 || k == 5 || k == 6 || k == 11) && tag != 0
  let asidBad := !(k == 1 || k == 2 || k == 3 || k == 7) && bits w1 48 36 != 0
  let zeros := (packetBytes h ds).drop n
  let unitBad := decide (12 ≤ bits w2 3 0) || decide (12 ≤ bits w2 19 16)
  argBad || unitBad || tagZero || asidBad || fieldOf h 63 61 != 0 || bits w1 63 49 != 0 || bits w2 15 13 != 0 || bits w2 31 29 != 0 ||
    ds.length != (n - 32 + 63) / 64 || zeros.any (· != 0)

/-- The kinds that are counted (R346). -/
def countedKind (k : Nat) : Bool := decide (k ≤ 5)

/-- A packet that ends a message: a row and an output are one message each. -/
def endsMessage (h : BitVec 512) : Bool :=
  match headKind h with
  | 3 => (headTag h).testBit 15
  | 4 => bitAt (headArg h) 42
  | _ => true

/-- A packet is dropped: a counted one is counted as discarded by the receiver (R348). -/
def State.discardPacket (s : State) (h : BitVec 512) : State := if countedKind (headKind h) && endsMessage h then s.count (headJob h) 0 0 1 else s

def Link.error (l : Link) : Link := { l with crcErrors := l.crcErrors + 1 }

/-- The reply that a packet of kind 8 or 9 carries: data where neither an order nor a SUB of a failure is named. -/
def replyOf (h : BitVec 512) (bs : List Byte) : Reply :=
  if fieldOf (headArg h) 31 16 = 0 then .data bs else .failed (fieldOf (headArg h) 23 16) (fieldOf (headArg h) 31 24)

/-- The launch and die point of a sub-launch tag. -/
def State.findSub (s : State) (tag : Nat) : Option (Word × Nat) :=
  (s.dl.pool.filter (·.state == .running)).findSome? fun l => (l.open_.find? fun d => subTag l.id d == tag).map fun d => (l.id, d)

/-- A fault service packet (R355 kind 12). -/
def State.faultPacket (s : State) (h : BitVec 512) (bs : List Byte) : State :=
  let w := wordsOf bs 4
  let word (i : Nat) : Word := (w[i]?).getD 0
  let fid : BitVec 16 := BitVec.ofNat 16 (fieldOf h 35 20)
  let die : BitVec 2 := BitVec.ofNat 2 (fieldOf h 19 18)
  match fieldOf (headArg h) 7 0 with
  | 1 => s.faultArrive ⟨word 0, word 1, word 2, word 3⟩ (.remote fid die (headTag h) (headJob h))
  | 2 => s.resolveTag (headTag h) (fieldOf (headArg h) 15 8 == 1)
  | 3 => s.shootRange (some (fid, die)) (word 0)
  | _ => s.later .shootDownAck

/-- A launch control packet (R355 kind 13). -/
def State.launchPacket (s : State) (h : BitVec 512) (bs : List Byte) : State :=
  let w := wordsOf bs 20
  let word (i : Nat) : Word := (w[i]?).getD 0
  if fieldOf (headArg h) 7 0 = 1 then
    s.later (.sublaunchCreate ⟨BitVec.ofNat 12 (bits (headWord h 1) 35 24), some (BitVec.ofNat 16 (fieldOf h 35 20), BitVec.ofNat 2 (fieldOf h 19 18)), word 1, (word 0).toNat, BitVec.ofNat 6 (fieldOf (word 1) 62 57), (w.drop 4).take 16⟩)
  else match s.findSub (headTag h) with
    | some (id, d) => s.later (.sublaunchEnded id d (fieldOf (word 0) 7 0) (fieldOf (word 0) 39 8))
    | none => s

/-- A packet for this die is taken in: the event that it stands for (R355). -/
def State.takePacket (s : State) (h : BitVec 512) (ds : List (BitVec 512)) : State :=
  let job := headJob h
  let arg := headArg h
  let tag := headTag h
  let sl := bits (headWord h 1) 35 24
  let src := UnitId.unpack sl (bits (headWord h 2) 15 0)
  let dst := UnitId.unpack (bits (headWord h 1) 23 12) (bits (headWord h 2) 31 16)
  let bs := (packetBytes h ds).take (headLength h)
  let asid : BitVec 13 := BitVec.ofNat 13 (bits (headWord h 1) 48 36)
  let vf : BitVec 6 := BitVec.ofNat 6 (fieldOf (s.jobEntry job) 45 40)
  let off := fieldOf arg 51 0
  let ctx := fin4 dst.ctx
  match headKind h with
  | 0 => s.later (.portMessageArrive ⟨src, job, ctx, fin16 dst.port, wordsOf bs (fieldOf arg 6 0)⟩)
  | 1 => s.later (.storeSector ⟨{ src with port := 0 }, src.port != 8, job, vf, asid, off, BitVec.ofNat 32 tag, BitVec.ofNat 256 (ofBytes bs), fieldOf h 60 60 == 1, false⟩)
  | 2 => s.later (.atomicPerform ⟨src, true, job, vf, asid, off, BitVec.ofNat 6 (fieldOf arg 57 52), bitAt arg 58, wordOf (bs.take 8), wordOf (bs.drop 8), tag⟩)
  | 3 => s.later (.copyRowSegment ⟨src, true, job, vf, asid, off, bs, if tag.testBit 14 then RedOp.ofCode (bits tag 13 10) else none, tag.testBit 15, bits tag 31 16⟩)
  | 4 => s.later (.pavaneOutput ⟨job, ctx, fin32 (BitVec.ofNat 5 arg.toNat), fieldOf arg 31 8, bs, bitAt arg 42⟩)
  | 5 => s.creditCame job (bitAt arg 0)
  | 6 => s.later (.jsetArrive job (wordOf bs))
  | 7 => s.later (.remoteReadRequest ⟨{ src with port := src.port &&& 7 }, job, vf, asid, off, if bitAt src.port 3 then 0 else fieldOf arg 61 52, bitAt arg 62, bitAt arg 63, tag⟩)
  | 8 => s.later (.remoteReadReply tag (replyOf h bs))
  | 9 => s.later (.atomicReply tag (replyOf h bs))
  | 10 => s.later (.remoteAck (BitVec.ofNat 12 sl) (bitAt arg 32) (fieldOf arg 31 0) tag)
  | 11 => s.later (.portCredit ctx (fin16 dst.port) (fieldOf arg 6 0))
  | 12 => s.faultPacket h bs
  | _ => s.launchPacket h bs

/-- The kinds that name a unit of the receiver's core. -/
def forUnit (k : Nat) : Bool := k == 0 || k == 4 || k == 8 || k == 9 || k == 10 || k == 11

/-- The incarnations of a packet are the ones expected (R345); one that serves no job has no die map to expect them. -/
def State.incGood (s : State) (h : BitVec 512) : Bool :=
  let e := s.devWord (s.dieMap (headJob h) + 8 + 8 * bits (headWord h 1) 35 24)
  !s.servesJob (headKind h) (headArg h).toNat (headJob h) || (fieldOf h 51 44 == s.fi.inc.toNat && fieldOf e 55 48 == fieldOf h 43 36)

/-- A whole packet has arrived: it passes on, is dropped, or is taken in. Before the first group table the links carry none (R395). -/
def State.arrive (s : State) (i : Fin 16) (h : BitVec 512) (ds : List (BitVec 512)) : State :=
  let fid : BitVec 16 := BitVec.ofNat 16 (fieldOf h 15 0)
  let die : BitVec 2 := BitVec.ofNat 2 (fieldOf h 17 16)
  let pass (s : State) : State := s.send ⟨fid, die, fieldOf h 60 60 == 1, .flits h ds⟩
  if s.fi.table.isNone then s
  else if headBad h ds then (s.setLink i (s.link i).error).discardPacket h
  else if fid ≠ s.fi.fid ∨ die ≠ s.core.die then pass s
  else if !s.incGood h then s.discardPacket h
  else if forUnit (headKind h) && !s.onCore (UnitId.unpack 0 (bits (headWord h 2) 31 16)) then pass s
  else s.takePacket h ds

/-- A wave flit: a declaration or a visit, for this die or for another of the group (R349). -/
def State.waveFlit (s : State) (p : BitVec 512) : State :=
  let job : BitVec 12 := BitVec.ofNat 12 p.toNat
  let number := fieldOf p 111 64
  let die : BitVec 2 := BitVec.ofNat 2 (fieldOf p 331 330)
  let member := fieldOf p 329 320
  if bitAt p 14 then
    let d : DeclMsg := ⟨job, bitAt p 15, number, BitVec.ofNat 64 (fieldOf p 319 256)⟩
    let fid := (s.fi.members[member]?).getD s.fi.fid
    if fid = s.fi.fid ∧ die = s.core.die then s.later (.quietDeclaration d) else s.send ⟨fid, die, false, .declaration d⟩
  else s.forward ⟨job, bitAt p 12, bitAt p 13, number, 0, (BitVec.ofNat 128 (fieldOf p 255 128)).toInt, member, die⟩

/-! ### The link -/

/-- Drop from the replay buffer what a cumulative acknowledgement covers (R354, R356). -/
def Link.trim (l : Link) (ack : BitVec 14) : Link := { l with replayBuf := l.replayBuf.filter fun e => !decide ((ack - e.seq).toNat < 4096) }

/-- Send again the chosen flits of the replay buffer, in order, each over the next fibre in turn (R353, R356), where a fibre is live. -/
def Link.again (l : Link) (p : SentFlit → Bool) : Link :=
  l.replayBuf.foldl (fun (a : Link) e =>
    if p e && l.isUp then
      let (b, k) := a.emit e.flit
      { b with replayBuf := b.replayBuf ++ [{ e with fibre := k }], replays := b.replays + 1, replaying := some e.seq }
    else { a with replayBuf := a.replayBuf ++ [e] }) { l with replayBuf := [] }

/-- Send again every flit from a sequence number on (R356). -/
def Link.resend (l : Link) (seq : BitVec 14) : Link := (l.trim (seq - 1)).again fun e => decide ((e.seq - seq).toNat < 4096)

/-- A replay is in progress: its last flit is not acknowledged (R363). -/
def Link.inReplay (l : Link) : Bool := match l.replaying with | some q => l.replayBuf.any fun e => e.seq == q | none => false

/-- Ask the peer for the first missing flit (R356). -/
def Link.ask (l : Link) : Link := (l.emit (mkFlit 0 6 0 l.rxSeq)).1

/-- A sequenced flit in its turn. -/
def State.takeFlit (s : State) (i : Fin 16) (f : BitVec 576) : State :=
  let l := s.link i
  let p := flitPayload f
  match flitType f with
  | 1 =>
    let l := if l.asm_.isSome then l.error else l
    if fieldOf p 59 56 = 0 then (s.setLink i { l with asm_ := none }).arrive i p []
    else s.setLink i { l with asm_ := some (p, []) }
  | 2 =>
    match l.asm_ with
    | none => s.setLink i l.error
    | some (h, ds) =>
      let ds := ds ++ [p]
      if ds.length = fieldOf h 59 56 then (s.setLink i { l with asm_ := none }).arrive i h ds
      else s.setLink i { l with asm_ := some (h, ds) }
  | 4 => if s.fi.table.isSome then s.waveFlit p else s
  | _ =>
    let s := s.setLink i { l with peerFid := BitVec.ofNat 16 (fieldOf p 31 16), peerLink := BitVec.ofNat 4 (fieldOf p 35 32) }
    s.later (.markerArrive (BitVec.ofNat 12 p.toNat) i)

/-- LINK_FLIT_RECEIVE (R354 to R356): whatever the transmit direction has lost (R370), but not during a relock. A copy of a flit that has arrived is
acknowledged again. -/
def execLinkFlitReceive (link : Fin 16) (flit : BitVec 576) (s : State) : Out :=
  let l := s.link link
  let t := flitType flit
  if l.state = .locking then .next s
  else if !flitGood flit then .next (s.setLink link l.error.ask)
  else if 7 ≤ t then .next (s.setLink link l.ask)
  else if t = 6 then .next (s.later (.replayRequest link (flitAck flit)))
  else
    let l := l.trim (flitAck flit)
    let s := s.setLink link l
    if !sequenced t then .next s
    else if flitSeq flit = l.rxSeq then .next ((s.setLink link { l with rxSeq := l.rxSeq + 1 }).takeFlit link flit)
    else if (l.rxSeq - flitSeq flit).toNat ≤ 4096 then .next (s.setLink link { l with ackSent := l.rxSeq - 2 })
    else .next (s.setLink link l.ask)

/-- REPLAY_REQUEST (R356). -/
def execReplayRequest (link : Fin 16) (seq : BitVec 14) (s : State) : Out := .next (s.setLink link ((s.link link).resend seq))

/-- MARKER_ARRIVE (R359). -/
def execMarkerArrive (job : BitVec 12) (link : Fin 16) (s : State) : Out :=
  let l := s.link link
  .next (s.setLink link { l with markers := putAt 0 l.markers job.toNat ((getAt 0 l.markers job.toNat + 1) % 256) })

/-- The state that the live masks give (R353, R357, R359): down where no fibre has 4 live wavelengths. -/
def stateOf (masks : Vector (BitVec 16) 4) : LinkState :=
  if masks.all (fun m => decide (popcount m.toNat 16 < 4)) then .down else if masks.all (· == BitVec.allOnes 16) then .up else .degraded

/-- WAVELENGTH_DEAD (R357): a live wavelength of the transmit direction is declared dead. All that a fibre loses in one Lantern cycle, as with a laser
module of four wavelengths, is one loss of light (R370). -/
def execWavelengthDead (link : Fin 16) (fibre : Fin 4) (wave : Fin 16) (s : State) : Out :=
  let l := s.link link
  if l.state = .locking ∨ !bitAt (l.masks.get fibre) wave.val then .next s
  else .next (s.setLink link { l with failing := l.failing.set fibre.val (l.failing.get fibre ||| 1#16 <<< wave.val) fibre.isLt })

/-- The flits that a fibre's loss of light sends again: its own, all where a replay was in progress (R357, R363). -/
def Link.lostFlits (l : Link) (fibre : Fin 4) : SentFlit → Bool := fun e => l.inReplay || e.fibre == fibre.val

/-- A fibre goes on without the wavelengths declared dead, or retires; its unacknowledged flits are sent again (R357). -/
def Link.restripe (l : Link) (fibre : Fin 4) : Link :=
  let masks := l.masks.set fibre.val (l.masks.get fibre &&& ~~~l.failing.get fibre) fibre.isLt
  ({ l with masks := masks, state := stateOf masks, failing := l.failing.set fibre.val 0 fibre.isLt } : Link).again (l.lostFlits fibre)

/-- The loss of light of one fibre takes effect; it is posted unless DARK is set (R357). -/
def State.loseLight (s : State) (link : Fin 16) (fibre : Fin 4) : State :=
  let l := s.link link
  if l.failing.get fibre = 0 then s
  else
    let l' := l.restripe fibre
    let n := (l'.replays - l.replays).toNat
    let s := s.setLink link l'
    if s.fi.dark then s
    else s.serviceAt (link.val / 4) 7 0 (BitVec.ofNat 64 (link.val * 2 ^ 60 + fibre.val * 2 ^ 56 + (l'.masks.get fibre).toNat * 2 ^ 32 + n % 2 ^ 32))

/-- The links at the end of a Lantern cycle (R357). -/
def State.linkTurn (s : State) : State :=
  if s.fi.links.all fun (l : Link) => l.failing.all (· == 0) then s
  else (List.finRange 16).foldl (fun s i => (List.finRange 4).foldl (fun s k => s.loseLight i k) s) s

/-- LINK_RELOCK (R362). -/
def execLinkRelock (link : Fin 16) (s : State) : Out :=
  .next (s.setLink link { s.link link with state := .locking, failing := Vector.replicate 4 0 })

/-- RELOCK_DONE (R362): the wavelengths that lock are live, a fibre with fewer than 4 of them stays retired; both sequence spaces start again (log 26). -/
def execRelockDone (link : Fin 16) (locked : BitVec 64) (s : State) : Out :=
  let l := s.link link
  if l.state ≠ .locking then .next s
  else
    let masks : Vector (BitVec 16) 4 := Vector.ofFn fun k => BitVec.ofNat 16 (fieldOf locked (16 * k.val + 15) (16 * k.val))
    .next (s.setLink link { l with masks := masks, state := stateOf masks, txSeq := 0, rxSeq := 0, replayBuf := [], queue := [], turn := 3, ackSent := 0x3FFF,
                                   replaying := none, asm_ := none })

end Sys2Proof.Machine
end

