-- ==== Sys2Proof/Machine/MemInstr.lean ====
section
/-! DEFINITION. Memory instructions of the Y slot (R94 to R111): loads and stores, atomics, FENCE, cache hints, vector loads and
stores. PHASE stands with the other closes in Control. -/

namespace Sys2Proof.Machine

/-! ### Scalar accesses -/

/-- The address of LD and ST (R98): `imm` counts units of the size. -/
def offsetAddr (base : Word) (imm : BitVec 8) (sz : BitVec 2) : Word := base + imm.signExtend 64 * BitVec.ofNat 64 (2 ^ sz.toNat)
/-- The address of LDX and STX (R99). -/
def indexAddr (base index : Word) (sc : BitVec 2) : Word := base + index <<< sc.toNat

/-- LD (R98): 2^sz bytes, zero- or sign-extended, latency 6. -/
def execLd (f : LoadOp) (s : State) : Out :=
  perform (.ld f) f.g s fun s => s.loadY (s.homeY f.i f.d) (offsetAddr (s.readY f.i f.a) f.imm f.sz) (2 ^ f.sz.toNat) f.sx

/-- ST (R98): the low bytes of y[d] enter the phase buffer. -/
def execSt (f : StoreOp) (s : State) : Out :=
  perform (.st f) f.g s fun s => some (s.storeY (offsetAddr (s.readY f.i f.a) f.imm f.sz) (s.readY f.i f.d) (2 ^ f.sz.toNat))

/-- LDX (R99). -/
def execLdx (f : LoadX) (s : State) : Out :=
  perform (.ldx f) f.g s fun s =>
    s.loadY (s.homeY f.i f.d) (indexAddr (s.readY f.i f.a) (s.readY f.i f.b) f.sc) (2 ^ f.sz.toNat) f.sx

/-- STX (R99). -/
def execStx (f : StoreX) (s : State) : Out :=
  perform (.stx f) f.g s fun s =>
    some (s.storeY (indexAddr (s.readY f.i f.a) (s.readY f.i f.b) f.sc) (s.readY f.i f.d) (2 ^ f.sz.toNat))

/-! ### Atomics -/

/-- The f fields of ATOM and AXCH (R102). -/
def atomField (ord : AOrd) (dbl : Bool) (op : Nat) : BitVec 6 := BitVec.ofNat 6 (AOrd.code ord * 16 + b2n dbl * 8 + op)
def axchField (ord : AOrd) (dbl : Bool) (op : Nat) : BitVec 6 := BitVec.ofNat 6 (AOrd.code ord * 8 + b2n dbl * 4 + op)

/-- ATOM (R102): the old value returns at latency 6. -/
def execAtom (f : AtomArgs) (op : AtomOp) (s : State) : Out :=
  perform (.atom f op) f.g s fun s =>
    some (s.atomicIssue (some (s.homeY f.i f.d)) (s.readY f.i f.a) (s.readY f.i f.b) 0 (atomField f.ord f.dbl (AtomOp.code op)) false f.ord)

/-- ASWP (R102). -/
def execAswp (f : AtomArgs) (s : State) : Out :=
  perform (.aswp f) f.g s fun s =>
    some (s.atomicIssue (some (s.homeY f.i f.d)) (s.readY f.i f.a) (s.readY f.i f.b) 0 (axchField f.ord f.dbl 0) true f.ord)

/-- ACAS (R102): y[d] is the value expected. -/
def execAcas (f : AtomArgs) (s : State) : Out :=
  perform (.acas f) f.g s fun s =>
    some (s.atomicIssue (some (s.homeY f.i f.d)) (s.readY f.i f.a) (s.readY f.i f.b) (s.readY f.i f.d) (axchField f.ord f.dbl 1) true f.ord)

/-- ALD (R102): no write is made. -/
def execAld (i : Bool) (g : BitVec 4) (d a : BitVec 5) (ord : AOrd) (dbl : Bool) (s : State) : Out :=
  perform (.ald i g d a ord dbl) g s fun s =>
    some (s.atomicIssue (some (s.homeY i d)) (s.readY i a) 0 0 (axchField ord dbl 2) true ord)

/-- AST (R102): nothing returns. -/
def execAst (i : Bool) (g : BitVec 4) (a b : BitVec 5) (ord : AOrd) (dbl : Bool) (s : State) : Out :=
  perform (.ast i g a b ord dbl) g s fun s =>
    some (s.atomicIssue none (s.readY i a) (s.readY i b) 0 (axchField ord dbl 3) true ord)

/-! ### Fences and cache hints -/

/-- FENCE (R108): the context holds until the condition of its kind; ALL asks for the acknowledgements first (R272). -/
def execFence (g : BitVec 4) (kind : FenceKind) (s : State) : Out :=
  perform (.fence g kind) g s fun s =>
    let s := if kind = .all then s.askAcks s.core.cur else s
    some (s.modMe fun x => { x with waits := x.waits ++ [.fence kind] })

/-- The sectors of the 256-byte line that holds an address (R109). -/
def lineSectors (a : Word) : List Nat := (List.range 8).map fun i => a.toNat / 256 * 8 + i

/-- Prefetch one sector of this die into L1 and L2, or L2 alone; dropped on any failure (R109). -/
def State.prefetch (s : State) (c : Fin 5) (sec : Nat) (l1 : Bool) : State :=
  let w := s.who c
  match s.dieOf w.job (sec / 2 ^ 47) with
  | .own =>
    match s.access w (sec % 2 ^ 47 * 32) .load 1 with
    | (.error _, _) => s
    | (.ok (pa, p), s1) =>
      if pteType p ≠ 0 then s
      else
        let (h, poisoned, s2) := s1.homeRead pa p
        if poisoned then s else s2.fill w (ckey w.asid sec) h l1 true
  | _ => s

/-- PREF (R109): a line into L1 (and L2) or L2. The memory-side cache holds nothing that its storage does not (log 8), and a line of
another die is dropped. -/
def execPref (f : Reg1) (lvl : CacheLvl) (s : State) : Out :=
  perform (.pref f lvl) f.g s fun s =>
    let a := s.readY f.i f.a
    match lvl with
    | .ms => some s
    | .l1 => some ((lineSectors a).foldl (fun s sec => s.prefetch s.core.cur sec true) s)
    | .l2 => some ((lineSectors a).foldl (fun s sec => s.prefetch s.core.cur sec false) s)

/-- Write back and invalidate the dirty sectors of a list for the strand's ASID (R109); the first whose home has departed (R396). -/
def State.flushDirty (s : State) (c : Fin 5) (l : List Nat) : Option Nat × State :=
  l.foldl (fun r sec =>
    let (gone, s) := r
    let k := ckey (s.who c).asid sec
    if (s.l1At k).dirty = 0 ∧ (s.l2At k).dirty = 0 then (gone, s)
    else
      let (lost, s) := s.flushSector c k
      (gone.orElse fun _ => if lost then some sec else none, s)) (none, s)

/-- FLSH (R109): the line's dirty sectors go home; the context holds until they are acknowledged. A sector of its own whose home has departed is
the strand fault of R396. -/
def execFlsh (f : Reg1) (s : State) : Out :=
  perform (.flsh f) f.g s fun s =>
    let c := s.core.cur
    match s.flushDirty c (lineSectors (s.readY f.i f.a)) with
    | (some sec, s) => some (s.faultStop 2 (BitVec.ofNat 64 (sec * 32)))
    | (none, s) =>
      if s.me.owesAcks then some ((s.askAcks c).modMe fun x => { x with waits := x.waits ++ [.acks false] })
      else some s

/-- INVL (R109): clean sectors of the line for the strand's ASID leave L1, or L1 and L2. -/
def State.invalidateClean (s : State) (c : Fin 5) (sec : Nat) (both : Bool) : State :=
  let k := ckey (s.who c).asid sec
  let s := if (s.l1At k).dirty = 0 then s.setL1 k L1Sector.none else s
  if both && (s.l2At k).dirty ||| (s.l2At k).out == 0 then s.setL2 k L2Sector.none else s

def execInvl (f : Reg1) (both : Bool) (s : State) : Out :=
  perform (.invl f both) f.g s fun s =>
    some ((lineSectors (s.readY f.i f.a)).foldl (fun s sec => s.invalidateClean s.core.cur sec both) s)

/-! ### Vector loads and stores -/

/-- Bits [1:0] cleared (R110). -/
def wordAligned (w : Word) : Nat := w.toNat / 4 * 4

/-- Element addresses (R110). -/
def contigAddr (b : Nat) (i : Nat) : Nat := (b + 4 * i) % 2 ^ 64
def strideAddr (b st : Nat) (i : Nat) : Nat := (b + i * st) % 2 ^ 64
def gatherAddr (b : Nat) (idx : Vec) (i : Nat) : Nat :=
  (b + ((BitVec.ofNat 32 (lane idx 32 i)).signExtend 64).toNat / 4 * 4) % 2 ^ 64

/-- The pieces of the enabled elements, in lane order. -/
def elements (k : Mask) (addr : Nat → Nat) : List Piece :=
  ((List.range 64).filter fun i => bitAt k i).map fun i => ⟨addr i / 32, addr i % 32, 4, 4 * i⟩

/-- The bits of the enabled 32-bit elements. -/
def elementBits (k : Mask) : Vec := laneBits 32 64 k

/-- A vector load of the enabled elements (R110). -/
def State.loadV (s : State) (d : Fin 32) (k : Mask) (addr : Nat → Nat) (lat : Nat) : Option State :=
  let l := elements k addr
  if l.any fun p => s.loadWaits (p.sec * 32 + p.at_) 4 then none
  else match s.readSpan s.core.cur 4 l with
    | (.bad a b, s) => some (s.abortHere a b)
    | (.lost a, s) => some (s.faultStop 6 a)
    | (.gone a, s) => some (s.faultStop 2 a)
    | (.noFrame, s) =>
      let (n, s) := s.stamp
      some (s.frameError.land (.v d (elementBits k) (Config.freeVec n 0)) lat)
    | (.data raw owed, s) =>
      let raw := BitVec.ofNat 2048 (clearGaps raw owed)
      if owed.isEmpty then some (s.land (.v d (elementBits k) raw) lat)
      else
        let (id, s) := s.newTag
        let (tags, s) := s.requestAll id owed
        some (s.landPart (.v d (elementBits k) raw) lat id tags)

/-- A vector store of the enabled elements, a later lane over an earlier one (R110). -/
def State.storeV (s : State) (v : Vec) (k : Mask) (addr : Nat → Nat) : State :=
  s.storeEnd (s.storeSpan s.core.cur 4 v.toNat (elements k addr))

/-- VLD (R110): 64 contiguous elements, latency 8. -/
def execVld (f : VMemOp) (s : State) : Out :=
  perform (.vld f) f.g s fun s => s.loadV (s.homeV f.i f.d) (s.readK f.k) (contigAddr (wordAligned (s.readY f.i f.a))) 8

/-- VST (R110). -/
def execVst (f : VMemOp) (s : State) : Out :=
  perform (.vst f) f.g s fun s => some (s.storeV (s.plainV f.i f.d) (s.readK f.k) (contigAddr (wordAligned (s.readY f.i f.a))))

/-- VLDS (R110): a stride from y[b], latency 8. -/
def execVlds (f : VMemOp) (b : BitVec 5) (s : State) : Out :=
  perform (.vlds f b) f.g s fun s =>
    s.loadV (s.homeV f.i f.d) (s.readK f.k) (strideAddr (wordAligned (s.readY f.i f.a)) (wordAligned (s.readY f.i b))) 8

/-- VSTS (R110). -/
def execVsts (f : VMemOp) (b : BitVec 5) (s : State) : Out :=
  perform (.vsts f b) f.g s fun s =>
    some (s.storeV (s.plainV f.i f.d) (s.readK f.k) (strideAddr (wordAligned (s.readY f.i f.a)) (wordAligned (s.readY f.i b))))

/-- VGATH (R110): offsets from the 32-bit lanes of v[b], latency 12. -/
def execVgath (f : VMemOp) (b : BitVec 5) (s : State) : Out :=
  perform (.vgath f b) f.g s fun s =>
    s.loadV (s.homeV f.i f.d) (s.readK f.k) (gatherAddr (wordAligned (s.readY f.i f.a)) (s.plainV f.i b)) 12

/-- VSCAT (R110). -/
def execVscat (f : VMemOp) (b : BitVec 5) (s : State) : Out :=
  perform (.vscat f b) f.g s fun s =>
    some (s.storeV (s.plainV f.i f.d) (s.readK f.k) (gatherAddr (wordAligned (s.readY f.i f.a)) (s.plainV f.i b)))

end Sys2Proof.Machine
end

