-- ==== Sys2Proof/Machine/Strands.lean ====
section
/-! DEFINITION. Sub-launches and their images (R16 to R21, R294, R384, R385), the start and resume of strands (R9, R27, R34, R269),
eviction (R31), the switches of the selector (R33, R133), traps as events. -/

namespace Sys2Proof.Machine

/-! ### Images (R384, R385) -/

/-- An image as its loader reads it. -/
structure Image where
  (hdr : List Word) (code : List Byte) (rings : List (Word × Word)) (rels : List (Word × Word)) (table : LoopTable)

def Image.word (m : Image) (i : Nat) : Word := (m.hdr[i]?).getD 0
def Image.codeSize (m : Image) : Nat := fieldOf (m.word 1) 63 32
def Image.codeOff (m : Image) : Nat := fieldOf (m.word 1) 31 0
def Image.dataSize (m : Image) : Nat := fieldOf (m.word 2) 63 32
def Image.dataOff (m : Image) : Nat := fieldOf (m.word 2) 31 0
/-- The entry word of the prologue (0), the kernel (1) or the epilogue (2). -/
def Image.entry (m : Image) (i : Nat) : Word := m.word (5 + i)
def Image.trip (m : Image) : Nat := fieldOf (m.word 16) 63 32
def Image.pinned (m : Image) : Bool := bitAt (m.word 16) 0

/-- The number of a ring record, its slots and bytes of a slot. -/
def ringOf (r : Word) : Nat := fieldOf r 4 0
def ringSlots (r : Word) : Nat := fieldOf r 53 42 + 1
def ringBytes (r : Word) : Nat := (fieldOf r 41 34 + 1) * 256
def ringZ (r : Word) : Option Nat := if bitAt r 63 then some (fieldOf r 62 60) else none

/-- A ring table breaks R382 or R385: a bit that is to be zero, a ring declared twice, a z register bound twice. -/
def ringsBad (l : List (Word × Word)) : Bool :=
  let zs := l.filterMap fun r => ringZ r.1
  l.any (fun r => fieldOf r.1 59 54 != 0 || fieldOf r.1 33 5 != 0) ||
    (l.map fun r => ringOf r.1).eraseDups.length != l.length || zs.eraseDups.length != zs.length

/-- A relocation record is refused. -/
def Image.relBad (m : Image) (r : Word × Word) : Bool :=
  let kind := fieldOf r.1 39 32
  let off := fieldOf r.1 31 0
  (kind != 1 && kind != 2) || fieldOf r.1 63 40 != 0 || off % 8 != 0 || decide (m.dataSize < off + 8) ||
    (kind == 2 && decide (m.codeSize ≤ r.2.toNat))

/-- The header breaks a condition of R384. -/
def Image.headerBad (m : Image) : Bool :=
  m.word 0 != 0xCAE10B0A00000001 || fieldOf (m.word 4) 63 40 != 0 || (List.range 3).any (fun i => fieldOf (m.entry i) 62 32 != 0) ||
    fieldOf (m.word 16) 31 1 != 0 || (m.hdr.drop 18).any (· != 0) || m.codeOff % 256 != 0 || m.codeSize % 4 != 0 || m.dataOff % 8 != 0 ||
    decide (32 < fieldOf (m.word 4) 39 32) || (List.range 3).any fun i => decide (m.codeSize / 4 ≤ fieldOf (m.entry i) 31 0)

def pairsOf (l : List Word) : List (Word × Word) :=
  match l with
  | a :: b :: r => (a, b) :: pairsOf r
  | _ => []

/-- Read a table of `n` 16-byte records. -/
def State.recordsAt (s : State) (w : Who) (a n : Nat) : Option (List (Word × Word)) × State :=
  match s.imageRead w a (16 * n) with
  | (some bs, s) => (some (pairsOf (wordsOf bs (2 * n))), s)
  | (none, s) => (none, s)

/-- Read and check an image (R384): none where it is refused. -/
def State.loadImage (s : State) (l : Launch) : Option Image × State :=
  let k := (l.word 0).toNat
  if k % 256 ≠ 0 then (none, s)
  else match s.imageRead l.who k 256 with
    | (none, s) => (none, s)
    | (some hb, s) =>
      let hdr := wordsOf hb 32
      let m : Image := ⟨hdr, [], [], [], loopTable ((hdr.drop 8).take 8) l.extents⟩
      if m.headerBad || m.table.bad || m.trip != m.table.points 0 then (none, s)
      else match s.imageRead l.who (k + m.codeOff) m.codeSize with
        | (none, s) => (none, s)
        | (some code, s) => match s.imageRead l.who (k + m.dataOff) m.dataSize with
          | (none, s) => (none, s)
          | (some _, s) => match s.recordsAt l.who (k + fieldOf (m.word 4) 31 0) (fieldOf (m.word 4) 39 32) with
            | (none, s) => (none, s)
            | (some rings, s) => match s.recordsAt l.who (k + fieldOf (m.word 3) 31 0) (fieldOf (m.word 3) 63 32) with
              | (none, s) => (none, s)
              | (some rels, s) =>
                if ringsBad rings || rels.any m.relBad then (none, s) else (some { m with code := code, rings := rings, rels := rels }, s)

/-! ### Binding (R18, R20) -/

/-- The sizes of the stretches of scratchpad storage that is not mapped out, over half banks from the `i`th on; `run` bytes stand before them (R137). -/
def Core.stretches (k : Core) (i run : Nat) : Nat → List Nat
  | 0 => [run]
  | n + 1 => if k.mappedOut (i * 0x8000) then run :: Core.stretches k (i + 1) 0 n else Core.stretches k (i + 1) (run + 0x8000) n

/-- Rings of the sizes `l` stand side by side in stretches of the sizes `room`, each ring in one of them. -/
def fitsIn (room l : List Nat) : Bool :=
  match l with
  | [] => true
  | n :: r => (List.range room.length).any fun i => decide (n ≤ room.getD i 0) && fitsIn (room.set i (room.getD i 0 - n)) r

/-- The scratchpad's bank states admit rings of these sizes (R20): all of them together. -/
def Core.admits (k : Core) (l : List Nat) : Bool := fitsIn (k.stretches 0 0 48) l

/-- This core is eligible (R20): not retired, its banks admit the rings, its cluster has an engine for the tenant. -/
def State.coreEligible (s : State) (vf : BitVec 6) (rings : List (Word × Word)) : Bool :=
  !s.core.retired && s.core.admits (rings.map fun r => ringSlots r.1 * ringBytes r.1) && fieldOf (s.vmask vf) 15 0 != 0

/-! ### Sub-launches (R19, R21, R294) -/

/-- Where the model's sequencer writes records: below the dump area (log 11). -/
def recordBase : Nat := 0x1FE0000000
def recordSpace : Nat := 0xF000000

/-- The arena address of an entry word in a loop record (R21). -/
def entryWord (base : Nat) (e : Word) : Word := BitVec.ofNat 64 (b2n (bitAt e 63) * 2 ^ 63 + base + 4 * fieldOf e 31 0)

/-- The address of this die's copy of an image's byte (log 30). -/
def State.copyAt (s : State) (w : Who) (a : Word) : Word :=
  match s.dieOf w.job (fieldOf a 63 52) with | .other _ _ => withField a 63 52 (s.ownLdie w.job).toNat | _ => a

/-- Apply a relocation (R385), to this die's copy of the data. -/
def State.relocate (s : State) (l : Launch) (m : Image) (base : Nat) (r : Word × Word) : State :=
  let v : Word := if fieldOf r.1 39 32 = 1 then l.word 0 + r.2 else BitVec.ofNat 64 base + r.2
  s.deviceStore l.who (s.copyAt l.who (l.word 0 + BitVec.ofNat 64 (m.dataOff + fieldOf r.1 31 0))) v

/-- The bytes of the data that a ring record's init names, as far as the data and the ring go (R382). -/
def State.initBytes (s : State) (l : Launch) (m : Image) (r : Word × Word) : List Byte × State :=
  let n := min (ringSlots r.1 * ringBytes r.1) (m.dataSize - r.2.toNat)
  if r.2 = BitVec.allOnes 64 ∨ n = 0 then ([], s)
  else
    let (bs, s) := s.imageRead l.who ((l.word 0).toNat + m.dataOff + r.2.toNat) n
    (bs.getD [], s)

/-- The eight words of a new strand's record (R9, R19). -/
def freshWords (l : Launch) (lrec : Nat) (entry : Word) (lcore : Nat) (x2 : Nat) : List Word :=
  [BitVec.ofNat 64 (l.asid.toNat * 2 ^ 51 + l.vf.toNat * 2 ^ 45 + l.prio * 2 ^ 42 + fieldOf entry 39 2 * 4),
   BitVec.ofNat 64 (l.job.toNat * 2 ^ 52 + lrec),
   BitVec.ofNat 64 (lcore % 2 ^ 16 * 2 ^ 48 + b2n (bitAt entry 63) * 2 ^ 32),
   l.word 1, BitVec.ofNat 64 x2, 0, 0, 0]

def State.writeWords (s : State) (a : Nat) (l : List Word) : State := s.devWrite a (l.flatMap fun w => bytesOf w 8)

/-- Before a sub-launch starts on a core, the clean L1 sectors of its address space are dropped and the refresh count rises (R269). -/
def State.freshen (s : State) (asid : BitVec 13) : State :=
  let s := s.dropClean asid
  { s with cl := { s.cl with refcnt := s.cl.refcnt + 1 } }

/-- A sub-launch that does not start ends at once (R294). -/
def State.failSub (s : State) (p : SubMsg) (status : Nat) : State := s.reportEnd p.home p.id p.d status 0 (BitVec.ofNat 12 (fieldOf ((p.record[9]?).getD 0) 43 32))
/-- Queue the strands of a sub-launch in increasing n (R18, R34). -/
def State.queueStrands (s : State) (l : Launch) (p : SubMsg) (lrec : Nat) (entry : Word) (cores n i : Nat) : State :=
  match n with
  | 0 => s
  | k + 1 =>
    let a := lrec + 64 + 64 * i
    let s := s.writeWords a (freshWords l lrec entry (i % cores) i)
    let q : QRec := ⟨a, l.vf, BitVec.ofNat 3 l.prio, s.dl.dcyc.toNat, none, none, .prologue, BitVec.ofNat 20 i, BitVec.ofNat 32 p.d, l.id, true⟩
    State.queueStrands (s.modDl fun d => { d with records := d.records ++ [q] }) l p lrec entry cores k (i + 1)

/-- Room for `code` bytes in the code arena, which has `size`, and for the records of `n` strands (log 11). -/
def DieLaunch.hasRoom (d : DieLaunch) (size code n : Nat) : Bool :=
  decide (d.arenaNext + code ≤ size) && decide (d.recNext + 64 + 64 * n ≤ recordSpace)

/-- The arena and the record space begin anew once no sub-launch stands in them (log 11). -/
def State.clearArena (s : State) : State :=
  if s.dl.subs.isEmpty then s.modDl fun d => { d with arenaNext := 0, recNext := if d.away.isEmpty && d.records.isEmpty then 0 else d.recNext } else s

def DieMem.arenaSize (d : DieMem) : Nat := fieldOf d.code 47 40 * 2 ^ 24

/-- Start a sub-launch whose image is accepted (R20, R21, R384). Without an eligible core it ends with status 2; where the arena or the record space has
no room now it waits for it, and one that could never have it is not placed (log 11). -/
def State.startSub (s : State) (l : Launch) (p : SubMsg) (m : Image) : State :=
  let s := s.clearArena
  let n := m.table.points 1
  let at_ := s.dl.arenaNext
  let lrec := recordBase + s.dl.recNext
  let base := 0x8100000000 + at_
  if !s.coreEligible l.vf m.rings || decide (s.dm.arenaSize < m.codeSize) || decide (recordSpace < 64 + 64 * n) then s.failSub p 2
  else if !s.dl.hasRoom s.dm.arenaSize m.codeSize n then s.modDl fun d => { d with held := d.held ++ [⟨p, m.codeSize, n⟩] }
  else
    let s := s.arenaWrite base m.code
    let s := m.rels.foldl (fun (s : State) r => s.relocate l m base r) s
    let s := s.writeWords lrec [entryWord base (m.entry 0), entryWord base (m.entry 1), entryWord base (m.entry 2), BitVec.ofNat 64 m.trip,
      l.word 0 + 0x40, BitVec.ofNat 64 (b2n m.pinned), BitVec.ofNat 64 n, 0]
    let (inits, s) := m.rings.foldl (fun (a : List (List Byte) × State) r => let (b, s) := a.2.initBytes l m r; (a.1 ++ [b], s)) ([], s)
    let queued := s.cl.prismEn && !bitAt (m.entry 1) 63
    let u : Sub := ⟨l.id, p.d, l.vf, l.job, lrec, n, 0, 0, p.home, m.rings, inits, queued⟩
    let s := s.modDl fun d => { d with subs := d.subs ++ [u], arenaNext := (at_ + m.codeSize + 255) / 256 * 256, recNext := d.recNext + 64 + 64 * n }
    let s := if queued then { s with cl := { s.cl with prismPend := s.cl.prismPend + 1 } } else s
    (s.freshen l.asid).queueStrands l p lrec (entryWord base (m.entry 0)) (m.table.width * m.table.height) n 0

/-- A sub-launch that waits for room, and now has it (R20). -/
def State.heldDue (s : State) : Option SubMsg :=
  let d := s.clearArena.dl
  (s.dl.held.find? fun h => d.hasRoom s.dm.arenaSize h.code h.strands).map (·.msg)

/-- SUBLAUNCH_CREATE (R20, R294, R384). -/
def execSublaunchCreate (p : SubMsg) (s : State) : Out :=
  let s := s.modDl fun d => { d with held := d.held.filter fun h => h.msg != p }
  let l : Launch := ⟨p.id, p.vf, p.record, 0, .running, [], 0, 0, 0⟩
  match s.loadImage l with
  | (none, s) => .next (s.failSub p 1)
  | (some m, s) => .next (s.startSub l p m)

/-! ### The start of a strand (R27, R34, R294) -/

def QRec.age (q : QRec) (now : Nat) : Nat := aged q.prio.toNat (now - q.since)

/-- The contexts that a virtual function occupies here. -/
def State.occupied (s : State) (v : BitVec 6) : Nat := ((List.finRange 4).filter fun c => (s.ctx (strandCtx c)).strand.any fun t => t.vf == v).length

/-- The virtual function occupies more than its share of the die's 384 strand contexts (R294). -/
def State.overShare (s : State) (v : BitVec 6) : Bool :=
  let cw (x : VFn) : Nat := weight x.cw
  let total := ((s.dl.vfs.filter (·.2.en)).map fun e => cw e.2).sum
  decide (384 * cw (s.dl.vf v) < s.occupied v * total)

/-- The rings of context `c` stand as an image declares them, empty (R382; log 10). -/
def State.ringMatches (s : State) (c : Fin 4) (r : Word) : Bool :=
  match s.core.physRing c (ringOf r) with
  | none => false
  | some n =>
    let g := s.ring n
    g.en && g.ctx.toNat == c.val && g.slots == ringSlots r && g.bytes == ringBytes r && g.filled == 0 && g.held == 0 &&
      (match ringZ r with | some z => !g.cons && g.z.toNat == z | none => g.cons)

/-- The sub-launch of a queued record. -/
def State.subOf (s : State) (q : QRec) : Option Sub := s.dl.subs.find? fun u => u.lrec == fieldOf (s.devWord (q.addr + 8)) 39 6 * 64

/-- The ring records that a new strand of this record needs. -/
def State.ringsFor (s : State) (q : QRec) : List (Word × Word) :=
  if q.fresh then (((s.subOf q).map (·.rings)).getD []) else []

/-- A queued record may start in context `c` (R32, R136, R326): one that is bound to no context needs an eligible core. -/
def State.mayStart (s : State) (c : Fin 4) (q : QRec) : Bool :=
  match (s.ctx (strandCtx c)).reserved with
  | some a => a == q.addr
  | none => (match q.place with
      | some d => d == c
      | none => match s.subOf q with | some u => q.fresh || s.coreEligible u.vf u.rings | none => true) &&
    (s.ringsFor q).all fun r => s.ringMatches c r.1

/-- The better of two records (R34, R294): within its share before beyond it, then the greater aged priority, then the earlier queued. A
Pavane task of the context comes ahead (R326). -/
def State.startsBefore (s : State) (a b : QRec) : Bool :=
  let now := s.dl.dcyc.toNat
  if a.task.isSome && b.task.isSome then false
  else if a.task.isSome != b.task.isSome then a.task.isSome
  else decide (b.age now < a.age now)

/-- The record that starts next in context `c`. -/
def State.nextRecord (s : State) (c : Fin 4) : Option QRec :=
  let x := s.ctx (strandCtx c)
  if x.strand.isSome then none
  else
    let within := s.dl.records.any fun q => !s.overShare q.vf
    (s.dl.records.filter fun q => (!within || !s.overShare q.vf) && s.mayStart c q).foldl (fun (b : Option QRec) q => match b with
      | none => some q
      | some b => if s.startsBefore q b then some q else some b) none

/-- The initial contents of a ring (R382): bytes of the image's data, read when the sub-launch started, zeros beyond the data's end; every slot is
filled. -/
def State.initRing (s : State) (c : Fin 4) (r : Word × Word) (bs : List Byte) : State :=
  if r.2 = BitVec.allOnes 64 then s
  else match s.core.physRing c (ringOf r.1) with
    | none => s
    | some n =>
      let g := s.ring n
      let len := g.slots * g.bytes
      let s := { s with core := s.core.spadWrite (g.slotAt 0) (bs.take len ++ List.replicate (len - bs.length) 0) }
      s.setRing n { g with head := 0, tail := g.slots, filled := g.slots, free := 0, done := [], posted := [] }

/-- A strand starts or resumes in context `c` from its record (R9, R27): identity, checkpoint, defined registers; the view is refreshed
before it issues, and a resume raises the refresh count of the cluster (R211, R269). -/
def State.startStrand (s : State) (c : Fin 4) (q : QRec) : State :=
  let w (i : Nat) : Word := s.devWord (q.addr + 8 * i)
  let lrec := fieldOf (w 1) 39 6 * 64
  let t : Strand := ⟨BitVec.ofNat 13 (fieldOf (w 0) 63 51), BitVec.ofNat 6 (fieldOf (w 0) 50 45), BitVec.ofNat 3 (fieldOf (w 0) 44 42),
    BitVec.ofNat 12 (fieldOf (w 1) 63 52), lrec, BitVec.ofNat 16 (fieldOf (w 2) 63 48), BitVec.ofNat 32 (w 2).toNat, q.idx, q.point, q.launch,
    bitAt (s.devWord (lrec + 0x28)) 0 || q.task.isSome, q.task, q.stage, q.addr⟩
  let live : Vector Word 5 := Vector.ofFn fun i => w (3 + i.val)
  let sub := s.dl.subs.find? fun u => u.lrec == lrec
  let s := s.modDl fun d => { d with records := d.records.erase q }
  let (n, s) := s.stamp
  let s := s.modCtx (strandCtx c) fun x =>
    { (((x.vacate none).scramble n).restore live) with strand := some t, quota := 0 }
  let s := match q.fresh, sub with
    | true, some u => (u.rings.zip u.inits).foldl (fun (s : State) (e : (Word × Word) × List Byte) => s.initRing c e.1 e.2) s
    | _, _ => s
  let s := if q.fresh then (s.dropClean t.asid).modCtx (strandCtx c) fun x => { x with view := s.cl.refcnt } else s.refresh (strandCtx c)
  s.newRegion (strandCtx c) (BitVec.ofNat 64 (fieldOf (w 0) 39 2 * 4)) (bitAt (w 2) 32)

/-- STRAND_START (R34). -/
def execStrandStart (c : Fin 4) (s : State) : Out :=
  match s.nextRecord c with
  | some q => .next (s.startStrand c q)
  | none => .next s

/-! ### Eviction (R31) -/

/-- A request for the eviction of context `c` falls due: a record that could run there has an aged priority 2 or more above the strand's, and
no context is free. -/
def State.evictionDue (s : State) (c : Fin 4) : Bool :=
  let now := s.dl.dcyc.toNat
  match (s.ctx (strandCtx c)).strand with
  | none => false
  | some t => (s.ctx (strandCtx c)).evict.isNone && !(s.ctx (strandCtx c)).leaving &&
      ((List.finRange 4).all fun d => (s.ctx (strandCtx d)).strand.isSome || (s.ctx (strandCtx d)).reserved.isSome) &&
      s.dl.records.any fun q => (match q.place with | some d => d == c | none => true) && decide (t.prio.toNat + 2 ≤ q.age now)

/-- EVICTION_REQUEST (R31): the strand is evicted at its next region close. -/
def execEvictionRequest (c : Fin 4) (s : State) : Out :=
  if s.evictionDue c then .next (s.modCtx (strandCtx c) fun x => { x with evict := some s.dl.dcyc.toNat }) else .next s

/-- The region of a context is closing, or a release in it has published stores that an abort could not take back (R26, R104). -/
def Ctx.closing (x : Ctx) : Bool :=
  (x.waits ++ x.aside).any fun w => match w with
    | .close _ _ => true
    | .finish => true
    | .evict => true
    | .leave _ => true
    | .atomic _ _ _ _ _ _ _ _ .acks => true
    | _ => false

/-- 2^16 core cycles have passed since the request, the region is unsealed, and no Mirror service runs (R31, R207). -/
def State.evictionOver (s : State) (c : Fin 4) : Bool :=
  let x := s.ctx (strandCtx c)
  (match x.evict with | some t => decide (t + 2 ^ 16 ≤ s.dl.dcyc.toNat) | none => false) && !x.sealed && !x.mirrorAct && !x.closing

/-- EVICTION_TIMEOUT (R26, R31): an unsealed region is aborted; a sealed one is awaited. -/
def execEvictionTimeout (c : Fin 4) (s : State) : Out := .next (if s.evictionOver c then s.evictByAbort (strandCtx c) else s)

/-! ### The selector (R33, R133) -/

/-- The context after another in the cyclic order. -/
def afterCtx (c : Fin 5) : Fin 5 := ⟨(c.val + 1) % 5, Nat.mod_lt _ (by omega)⟩

/-- ISSUE_QUOTA_SWITCH (R33): a context that has issued 4096 bundles while another was ready is switched away, as a hold. -/
def execIssueQuotaSwitch (s : State) : Out :=
  if 4096 ≤ s.me.quota then
    let s := s.modMe fun x => { x with quota := 0 }
    .next { s with core := { s.core with cur := afterCtx s.core.cur } }
  else .next s

/-- INTERRUPT (R133): the service context takes over in handler mode at its TRAP_VEC; the strand contexts are held until it has handled the
interrupt, and selection then resumes with the context after the one interrupted (log 16). -/
def execInterrupt (s : State) : Out :=
  if s.core.irq = true ∧ (s.ctx svc).hm = false then
    let s := s.modCtx svc fun x =>
      let pc := pcWord x.pc x.nat
      ({ x with trapPc := pc, trapNpc := pc, entryPc := pc, xferAt := x.xfer.isSome } : Ctx).toHandler
    .next { s with core := { s.core with cur := svc, irq := false, serving := true, resumeAt := if s.core.cur = svc then 0 else afterCtx s.core.cur } }
  else .next s

/-! ### Traps as events -/

/-- ASYNC_TRAP_ENTRY (R64). -/
def execAsyncTrapEntry (c : Fin 4) (s : State) : Out :=
  if (s.ctx (strandCtx c)).strand.isSome then .next (s.takeAsync (strandCtx c)) else .next s

/-- ILLEGAL_INSTRUCTION (R50, R63): CAUSE 1 of a word of the bundle in issue. -/
def execIllegalInstruction (slot sub : Nat) (word : Word32) (s : State) : Out :=
  .next (s.takeTrap (TrapRec.plain 1 sub slot (word.setWidth 64) 0))

/-- ILLEGAL_BUNDLE (R38 to R40, R63): CAUSE 2. -/
def execIllegalBundle (slot sub : Nat) (word : Word32) (s : State) : Out :=
  .next (s.takeTrap (TrapRec.plain 2 sub slot (word.setWidth 64) 0))

/-- FETCH_BOUND_TRAP (R63, R148): CAUSE 3. -/
def execFetchBoundTrap (sub : Nat) (word : Word32) (addr : Word) (s : State) : Out :=
  .next (s.takeTrap (TrapRec.plain 3 sub 7 (word.setWidth 64) addr))

end Sys2Proof.Machine
end

