-- ==== Sys2Proof/Machine/Pavane.lean ====
section
/-! DEFINITION. The Pavane unit: task requests (R327, R328), table loads (R323, R324), the head evaluation, the start of tasks, bubbles
and the stall event (R325, R326, R331), outputs and credits of peers (R329, R330). -/

namespace Sys2Proof.Machine

/-! ### Instructions -/

/-- PVPOST (R328): checked, then recorded for the close. -/
def execPvpost (f : Reg1) (s : State) : Out :=
  perform (.pvpost f) f.g s fun s => do
    let (v, s) ← s.readX f.i f.a
    match s.postCheck s.core.cur v with
    | some sub => some (s.faultStop sub v)
    | none => some (s.modMe fun x => { x with pav := { x.pav with post := some v } })

/-- PVSTASH (R328). -/
def execPvstash (f : Reg1) (s : State) : Out :=
  perform (.pvstash f) f.g s fun s => do
    let (v, s) ← s.readX f.i f.a
    match s.stashCheck s.core.cur v with
    | some sub => some (s.faultStop sub v)
    | none => some (s.modMe fun x => { x with pav := { x.pav with stash := some v } })

/-- PVTAKE (R328). -/
def execPvtake (f : Reg1) (s : State) : Out :=
  perform (.pvtake f) f.g s fun s => do
    let (v, s) ← s.readX f.i f.a
    match s.takeCheck s.core.cur v with
    | some sub => some (s.faultStop sub v)
    | none => some (s.modMe fun x => { x with pav := { x.pav with take := some v } })

def PvCause.idx : PvCause → Fin 3 | .input => 0 | .dest => 1 | .stash => 2

/-- PVBUB (R328): a bubble counter, latency 2. -/
def execPvbub (i : Bool) (g : BitVec 4) (d : BitVec 5) (cause : PvCause) (s : State) : Out :=
  perform (.pvbub i g d cause) g s fun s => s.writeX i d (s.pv.bub.get (PvCause.idx cause)) 2

/-- PVSTAT (R328): PV_STAT, latency 2. -/
def execPvstat (i : Bool) (g : BitVec 4) (d : BitVec 5) (s : State) : Out :=
  perform (.pvstat i g d) g s fun s => s.writeX i d s.pv.stat 2

/-! ### Loading the table (R323, R324) -/

/-- The unit stops: no further entry starts (R321). -/
def Pavane.stop (p : Pavane) : Pavane := { p with base := withField p.base 63 63 0, loaded := false }

/-- The stash span lies in HBM or in the carve-out (R241); the carve-out of another die has at most its range. -/
def State.stashSpanOk (s : State) (p : Pavane) : Bool :=
  let a := fieldOf p.stashBase 39 8 * 256
  let n := p.slots * p.slotBytes
  let carve := if p.stashDie = s.core.die.toNat then s.dm.carveSize else 2 ^ 30
  n == 0 || decide (a + n ≤ 2 ^ 37) || decide (0x8000000000 ≤ a ∧ a + n ≤ 0x8000000000 + carve)

/-- Entry i as it stands in memory; on another die its words are free (log 30). -/
def State.readEntry (s : State) (i : Nat) : PvEntry × State :=
  let p := s.pv
  if fieldOf p.base 41 40 = s.core.die.toNat then
    let a := fieldOf p.base 39 13 * 2 ^ 13 + 32 * i
    (⟨s.devWord a, s.devWord (a + 8), s.devWord (a + 16), s.devWord (a + 24)⟩, s)
  else
    let (n, s) := s.stamp
    (⟨Config.freeWord n 0, Config.freeWord n 1, Config.freeWord n 2, Config.freeWord n 3⟩, s)

def State.readEntries (s : State) : Nat → List PvEntry × State
  | 0 => ([], s)
  | n + 1 =>
    let (l, s) := State.readEntries s n
    let (e, s) := s.readEntry n
    (l ++ [e], s)

/-- A reserved field of an entry is nonzero. -/
def PvEntry.reserved (e : PvEntry) : Bool :=
  fieldOf e.w0 61 56 != 0 || fieldOf e.w0 50 32 != 0 || fieldOf e.w1 63 40 != 0 || fieldOf e.w1 5 0 != 0 || fieldOf e.w2 63 16 != 0 ||
    fieldOf e.w3 63 28 != 0 || fieldOf e.w3 15 14 != 0

/-- The placement die, cluster and core of an entry. -/
def PvEntry.die (e : PvEntry) : BitVec 2 := BitVec.ofNat 2 (fieldOf e.w2 15 14)
def PvEntry.cluster (e : PvEntry) : Nat := fieldOf e.w2 13 10
def PvEntry.core (e : PvEntry) : Nat := fieldOf e.w2 9 7

/-- RING_CFG of an entry's input ring, on whatever core of the package that stands (R139). -/
def State.inputCfg (s : State) (e : PvEntry) : Word :=
  if s.placedHere e then (s.ring e.iring).cfg else s.ringAt s.fi.fid e.die e.cluster e.core e.iring

/-- The placement core is retired (R313). -/
def State.placeRetired (s : State) (e : PvEntry) : Bool :=
  if s.placedHere e then s.core.retired else s.pk.coreElse.contains (clusterNo e.die (BitVec.ofNat 4 e.cluster) * 8 + e.core)

/-- The ERR code of entry i (R324), 0 where it passes. What stands at a loop record on another die is a free bit of `n` (log 36). -/
def State.entryError (s : State) (n i : Nat) (e : PvEntry) : Nat :=
  let p := s.pv
  let a := e.lrec
  let cfg := s.inputCfg e
  if e.kind = 3 then 0
  else if e.reserved then 1
  else if (e.kind = 2 ∧ !(e.noIn && e.noDest)) ∨ (e.kind < 2 ∧ e.hasStash = true ∧ p.slots = 0) then 2
  else if e.noIn = false ∧ !(bitAt cfg 63 && fieldOf cfg 59 58 == e.ctx.val) then 3
  else if e.noDest = false ∧ bitAt (p.outReg e) 63 = false then 4
  else if s.placeRetired e || (if e.die = s.core.die then !s.dm.live a || !bitAt (s.devWord (a + 0x28)) 0 else Config.freeBit n i) then 5
  else 0

/-- The first failure of a table, in index order (R324). -/
def State.tableError (s : State) (l : List PvEntry) : Option Nat × State :=
  let (n, s) := s.stamp
  (((List.range l.length).zip l |>.map fun e => s.entryError n e.1 e.2).find? (· != 0), s)

/-- PAVANE_TABLE_LOAD (R323): a write to PV_HEAD. -/
def execPavaneTableLoad (v : Word) (s : State) : Out :=
  let p := s.pv
  if !bitAt p.base 63 ∨ p.run ≠ 0 then .next (s.modPv fun p => { p with err := 7 })
  else if p.count = 0 ∨ 256 < p.count.toNat ∨ 64 < p.slots ∨ !s.stashSpanOk p then .next (s.modPv fun p => { p.stop with err := 6 })
  else
    let (l, s) := s.readEntries p.count.toNat
    let (e, s) := s.tableError l
    match e with
    | some c => .next (s.modPv fun p => { p.stop with err := BitVec.ofNat 4 c })
    | none =>
      let h : BitVec 9 := v.setWidth 9
      let s := s.modPv fun p =>
        { p with head := h, done := decide (p.count.toNat ≤ h.toNat), wraps := 0, table := l, stash := [], bub := Vector.replicate 3 0, stall := false, err := 0,
                 loaded := true }
      .next ((List.finRange 32).foldl (fun (s : State) n => s.setRing n { s.ring n with rsv := 0 }) s)

/-- PAVANE_DISABLE (R321): a write of PV_BASE with EN clear; while EN is set it clears EN alone. -/
def execPavaneDisable (v : Word) (s : State) : Out :=
  .next (s.modPv fun p => if bitAt p.base 63 then p.stop else p.put 0 v)

/-! ### The head (R325, R326, R331) -/

/-- The lowest free stash slot. -/
def Pavane.freeSlot (p : Pavane) : Option Nat := findIdx p.slots fun n => p.stash.all fun t => t.slot != n

/-- Input has arrived for the head entry; of a ring on another core that is not seen here, hence free (log 36). -/
def State.inputReady (s : State) (e : PvEntry) : Bool × State :=
  if e.noIn then (true, s)
  else if s.placedHere e then
    let r := s.ring e.iring
    (decide (r.rsv + 1 ≤ r.filled), s)
  else
    let (n, s) := s.stamp
    (Config.freeBit n 0, s)

/-- Why the head waits: the BLOCK code (R325). In the dark interval the counts of both directions are held, so no entry takes a credit (R351; log
112). -/
def State.headBlock (s : State) (e : PvEntry) : Nat × State :=
  let p := s.pv
  let (ok, s) := s.inputReady e
  if !ok then (1, s)
  else if e.hasStash ∧ e.kind = 0 ∧ p.freeSlot.isNone then (3, s)
  else if e.hasStash ∧ e.kind = 1 ∧ (p.mbStash e.mb).isNone then (3, s)
  else if e.noDest = false ∧ ((if e.kind = 1 then p.upc else p.dnc) = 0 ∨ s.fi.dark = true) then (2, s)
  else (0, s)

/-- HEAD moves on (R325). -/
def Pavane.advance (p : Pavane) (e : PvEntry) : Pavane :=
  let h : BitVec 9 := if e.wrap then 0 else p.head + 1
  { p with head := h, wraps := if e.wrap then p.wraps + 1 else p.wraps, done := decide (p.count.toNat ≤ h.toNat) }

/-- Where the unit writes the records of its tasks: above those of sub-launches, the lowest place not in use (log 11). -/
def State.taskRecord (s : State) : Nat :=
  let base := recordBase + recordSpace
  let used := (s.pv.tasks.map (·.1)) ++ (s.dl.records.map (·.addr)) ++ (s.dl.away.map fun a => a.q.addr) ++
    ((List.finRange 5).filterMap fun c => (s.ctx c).strand.map (·.recAddr)) ++ ((List.finRange 5).filterMap fun c => (s.ctx c).reserved)
  base + 64 * ((findIdx (used.length + 1) fun i => !used.contains (base + 64 * i)).getD 0)

/-- The record of a started task and the count of its loop record, on this die (R326). -/
def State.writeTask (s : State) (a i : Nat) (e : PvEntry) : State :=
  let p := s.pv
  let entry := s.devWord e.lrec
  let s := s.writeWords a
    [BitVec.ofNat 64 (fieldOf p.ten 20 8 * 2 ^ 51 + p.vf.toNat * 2 ^ 45 + fieldOf p.ten 46 44 * 2 ^ 42 + fieldOf entry 39 2 * 4),
     BitVec.ofNat 64 (p.job.toNat * 2 ^ 52 + e.lrec), BitVec.ofNat 64 (b2n (bitAt entry 63) * 2 ^ 32),
     p.arg, e.mb.setWidth 64, BitVec.ofNat 64 i, BitVec.ofNat 64 e.kind, p.wraps.setWidth 64]
  let n := s.devWord (e.lrec + 0x30)
  s.devPut (e.lrec + 0x30) (withField n 31 0 ((fieldOf n 31 0 + 1) % 2 ^ 32))

/-- Queue the strand of a started task, whose record stands at `a`, on its placement die (R326): a context of this core takes it, or another core
does. What the unit writes on another die is not seen here (log 36). -/
def State.queueTask (s : State) (a i : Nat) (e : PvEntry) : State :=
  let p := s.pv
  let s := if e.die = s.core.die then s.writeTask a i e else s
  if s.placedHere e then
    let q : QRec := ⟨a, p.vf, BitVec.ofNat 3 (fieldOf p.ten 46 44), s.dl.dcyc.toNat, some e.ctx, some i, .prologue, 0, 0, 0, false⟩
    s.modDl fun d => { d with records := d.records ++ [q] }
  else s.modPv fun p => { p with tasks := p.tasks ++ [(a, i)] }

/-- Start the head entry (R325). -/
def State.startTask (s : State) (i : Nat) (e : PvEntry) : State :=
  let s := if e.noIn = false ∧ s.placedHere e = true then s.setRing e.iring { s.ring e.iring with rsv := (s.ring e.iring).rsv + 1 } else s
  let (serial, s) := s.newTag
  let a := s.taskRecord
  let s := s.modPv fun p =>
    let p := { p with block := 0, stall := false, run := p.run + 1 }
    let p := if e.hasStash ∧ e.kind = 0 then { p with stash := p.stash ++ [⟨p.freeSlot.getD 0, e.mb, false, serial, i, a, []⟩] } else p
    let p := if e.noDest then p else if e.kind = 1 then { p with upc := p.upc - 1 } else { p with dnc := p.dnc - 1 }
    p.advance e
  s.queueTask a i e

/-- The placement context of an entry shows code 0 or 8; that of another core is a free bit of `n` (R331; log 36). -/
def State.placeIdle (s : State) (n : Nat) (e : PvEntry) : Bool :=
  let code := s.ctxCode e.ctx
  if s.placedHere e then code == 0 || code == 8 else Config.freeBit n 0

/-- The last declaration for the unit's job that the die of PV_BASE has received is quiet: a free bit of `n` for another die (R331; log 36). -/
def State.quietSeen (s : State) (n : Nat) : Bool :=
  if fieldOf s.pv.base 41 40 = s.core.die.toNat then (s.fi.job s.pv.job).decl.any (·.quiet) else Config.freeBit n 1

/-- A wait for a count that the dark interval holds (R351): no deadlock. -/
def State.countHeld (s : State) (e : PvEntry) (b : Nat) : Bool := b == 2 && (if e.kind = 1 then s.pv.upc else s.pv.dnc) != 0

/-- The head waits: a bubble of the cause where its placement context is idle or reserved, and the stall event (R331). The counters do not wrap. -/
def State.headWaits (s : State) (e : PvEntry) (b : Nat) : State :=
  let (n, s) := s.stamp
  let p := s.pv
  let idle := s.placeIdle n e
  let s := s.modPv fun p =>
    { p with block := BitVec.ofNat 2 b,
             bub := if h : idle = true ∧ b - 1 < 3 then
               p.bub.set (b - 1) (BitVec.ofNat 64 (capAt (2 ^ 64 - 1) ((p.bub.get ⟨b - 1, h.2⟩).toNat + 1))) h.2 else p.bub }
  if p.run = 0 ∧ p.stall = false ∧ s.quietSeen n = true ∧ s.countHeld e b = false then
    let s := s.modPv fun p => { p with stall := true }
    if fieldOf p.base 41 40 = s.core.die.toNat then
      s.log p.vf ⟨5, b, p.job, BitVec.ofNat 13 (fieldOf p.ten 20 8), p.vf, 0, 0, 0, 0, p.head.setWidth 64, s.pv.stat⟩
    else s
  else s

/-- The unit evaluates its head (R325). -/
def State.headEval (s : State) : State :=
  let p := s.pv
  match (if p.active then p.table[p.head.toNat]? else none) with
  | none => s
  | some e =>
    if e.kind = 3 then s.modPv fun p => { p.advance e with block := 0 }
    else match s.headBlock e with
      | (0, s) => s.startTask p.head.toNat e
      | (b, s) => s.headWaits e b

/-- PAVANE_HEAD_EVAL (R325). -/
def execPavaneHeadEval (s : State) : Out := .next s.headEval

/-! ### Tasks on other cores (R326, R328) -/

/-- The end of a task of entry i on another core, whose record stood at `a`. -/
def State.taskOver (s : State) (a i : Nat) (fault : Bool) : State :=
  let s := s.modPv fun p => { p with tasks := p.tasks.erase (a, i), run := p.run - 1 }
  let s := if fault then s.voidStash (some i) a else s
  match s.pv.table[i]? with
  | some e => if e.die = s.core.die then s.updateLoop e.lrec true else s
  | none => s

/-- A task of entry i on another core takes a step: PVSTASH, PVTAKE (R328), its end (R326). -/
def State.taskStep (s : State) (i : Nat) (t : TaskStep) : State :=
  match s.pv.tasks.find? fun x => x.2 == i with
  | none => s
  | some (a, _) =>
    match t with
    | .stash bs =>
      let bs := bs.take s.pv.slotBytes
      match s.pv.ownStash i a with
      | none => s
      | some u => s.keepStash u (bs ++ List.replicate (s.pv.slotBytes - bs.length) 0)
    | .take => match (s.pv.table[i]?).bind fun e => s.pv.mbStash e.mb with
      | none => s
      | some u => s.modPv fun p => { p with stash := p.stash.filter fun v => v.serial != u.serial }
    | .done fault => s.taskOver a i fault

/-! ### Outputs and credits of peers (R328 to R330) -/

/-- PAVANE_OUTPUT (R328): the peer's unit claims a slot with the first segment of a message, after the channels that wait for one (R143), and
completes it with the last; a message that finds no slot is dropped and counted (R348). -/
def execPavaneOutput (p : PvMsg) (s : State) : Out :=
  let s := if p.off = 0 then s.grantClaims p.ring else s
  let r := s.ring p.ring
  let place : Option (Nat × Ring) := if p.off = 0 then (if r.en then r.claim else none) else r.incoming.map fun slot => (slot, r)
  match place with
  | none => .next (if p.last then s.count p.job 0 0 1 else s)
  | some (slot, r) =>
    let s := { s with core := s.core.spadWrite (r.slotAt slot + p.off) (p.bytes.take (r.bytes - p.off)) }
    .next (s.setRing p.ring (if p.last then { r.complete slot with posted := (slot, p.job) :: r.posted, incoming := none } else { r with incoming := some slot }))

/-- PAVANE_CREDIT (R329): the oldest credit of its direction that has arrived, under its job, is added; in the dark interval it is held (R332, R351). -/
def execPavaneCredit (up : Bool) (s : State) : Out :=
  let job := ((s.pv.credits.find? fun e => e.1 == up).map (·.2)).getD s.pv.job
  let s := s.modPv fun p => { p with credits := p.credits.erase (up, job) }
  if s.fi.dark then .next (s.modPv fun p => { p with heldCredits := p.heldCredits ++ [(up, job)] }) else .next (s.addCredit up job)

end Sys2Proof.Machine
end

