-- ==== Sys2Proof/Machine/Package.lean ====
section
/-! DEFINITION. The package level: resets and boot (R54, R309, R311, R345), the ladders of engines, banks and channels (R138, R201, R202,
R256, R310 to R313), storage errors of the core (R150, R151), machine check and dump (R314 to R316), attestation (R318), the clock
(R319), Prism (R214), what the host reads (R307). -/

namespace Sys2Proof.Machine

/-! ### Engines (R201, R202) -/

/-- The ladder. -/
def engineLadder : List (BitVec 8) := [0x1F, 0x1E, 0x14, 0x00]

/-- The highest step at or below `b` whose classes all passed. -/
def ladderStep (b : BitVec 8) (pass : BitVec 5) : BitVec 8 :=
  (engineLadder.find? fun t => t &&& ~~~b == 0 && t &&& ~~~(pass.setWidth 8) == 0).getD 0

def State.setEngine (s : State) (e : Fin 16) (g : Engine) : State := { s with cl := { s.cl with engines := s.cl.engines.set e.val g e.isLt } }

/-- ENGINE_MARGIN_TEST (R202): the engine takes no new records; the new bitmap waits for its installation. At most one engine of the cluster
is under test. The test at power-on finds the bitmap that stage 5 of boot writes (R309), and posts a demotion (R312). -/
def execEngineMarginTest (e : Fin 16) (pass : BitVec 5) (s : State) : Out :=
  let g := s.cl.engines.get e
  if s.pk.stage = 4 then
    let old := s.pk.flashEng.get e
    let b := ladderStep old pass
    let s := (s.modPk fun p => { p with flashEng := p.flashEng.set e.val b e.isLt }).testedEngine e.val
    .next (if b = old then s else s.service 2 (s.clusterAddr + e.val * 2 ^ 24) (b.setWidth 64))
  else if g.state = 2 then .next (s.testedEngine e.val)
  else if g.state ≠ 0 ∨ (s.cl.engines.any fun (x : Engine) => x.state == 1) = true then .next s
  else .next (s.setEngine e { g with state := 1, next := some (ladderStep g.bmap pass) })

/-- The engine whose installation is due: its queued operations have retired and no context of the cluster is in Mirror service. -/
def State.installDue (s : State) : Option (Fin 16 × BitVec 8) :=
  if (List.finRange 5).any fun c => (s.ctx c).mirrorAct then none
  else (List.finRange 16).findSome? fun e =>
    let g := s.cl.engines.get e
    if g.queued = 0 then g.next.map fun b => (e, b) else none

/-- An engine of this cluster takes a bitmap (R202, R311 to R313): flash first. An installation counts whatever it changes; a bitmap kept is a
test passed. -/
def State.install (s : State) (e : Fin 16) (b : BitVec 8) : State :=
  let g := s.cl.engines.get e
  let s := s.modPk fun p => { p with flashEng := p.flashEng.set e.val b e.isLt }
  let tests := if b = g.bmap ∧ g.tests ≠ BitVec.allOnes 16 then g.tests + 1 else g.tests
  let s := s.setEngine e { g with state := if b = 0 then 2 else 0, bmap := b, next := none, tests := tests }
  let s := { s with cl := { s.cl with install := s.cl.install + 1 } }
  let s := if b = g.bmap then s else s.service 2 (s.clusterAddr + e.val * 2 ^ 24) (b.setWidth 64)
  s.changed.testedEngine e.val

/-- An engine of another cluster takes a bitmap at or below its own on the ladder. -/
def State.installElse (s : State) (a : EngineAt) : State :=
  let n := engineNo a.die a.cluster a.engine
  let old := s.pk.engineOf n
  if s.otherCluster a.die a.cluster && engineLadder.contains a.bmap && a.bmap &&& ~~~old == 0 && a.bmap != old then
    let s := s.modPk fun p => { p with engElse := putAt 0x1F p.engElse n a.bmap }
    (s.serviceAt a.die.toNat 2 (a.cluster.toNat * 2 ^ 52 + a.engine.val * 2 ^ 24) (a.bmap.setWidth 64)).changed
  else s

/-- BITMAP_INSTALL (R202, R313): the installation that is due. -/
def execBitmapInstall (s : State) : Out :=
  match s.installDue with
  | none => .next s
  | some (e, b) => .next (s.install e b)

/-! ### Scratchpad banks (R138, R310) -/

/-- The address of a bank of this core in a service record (R312). -/
def State.bankAddr (s : State) (b : Fin 24) : Nat := s.coreAddr + b.val * 2 ^ 40

/-- BANK_MARGIN_TEST (R310): a failure leaves a demotion pending; at power-on it goes to flash, whence stage 5 of boot writes it (R309), and is posted
(R312). -/
def execBankMarginTest (b : Fin 24) (pass : Bool) (s : State) : Out :=
  if s.pk.stage = 4 then
    let x := s.pk.flashBank.get b
    let s := s.testedBank b.val
    .next (if pass ∨ 2 ≤ x.toNat then s
      else (s.modPk fun p => { p with flashBank := p.flashBank.set b.val (x + 1) b.isLt }).service 3 (s.bankAddr b) ((x + 1).setWidth 64))
  else
    let s := s.testedBank b.val
    if pass ∨ s.core.banks.get b = 2 ∨ s.core.demotions.contains b.val = true then .next s
    else .next (s.modCore fun k => { k with demotions := k.demotions ++ [b.val] })

/-- The storage that the next step of a bank maps out: its upper half, then its lower half. -/
def State.demoted (s : State) (b : Fin 24) : Nat := b.val * 0x10000 + (if s.core.banks.get b = 0 then 0x8000 else 0)

/-- No enabled ring and no window overlaps the storage (R138). -/
def State.demotionDue (s : State) (b : Fin 24) : Bool :=
  let a := s.demoted b
  s.core.demotions.contains b.val &&
    !((List.finRange 32).any fun n => (s.ring n).en && rangesMeet a 0x8000 ((s.ring n).base.toNat * 256) ((s.ring n).slots * (s.ring n).bytes)) &&
    !((List.finRange 4).any fun c => rangesMeet a 0x8000 (s.core.spBase c * 256) (s.core.spLen c * 256))

/-- A bank of this core takes the next step down (R138, R311 to R313). -/
def State.demoteBank (s : State) (b : Fin 24) : State :=
  let x := s.core.banks.get b + 1
  let s := s.modPk fun p => { p with flashBank := p.flashBank.set b.val x b.isLt }
  let s := s.modCore fun k => { k with banks := k.banks.set b.val x b.isLt, demotions := k.demotions.filter (· != b.val) }
  (s.service 3 (s.bankAddr b) (x.setWidth 64)).changed

/-- A bank of another core takes the next step down. -/
def State.demoteElse (s : State) (k : CoreAt) (b : Fin 24) : State :=
  let n := bankNo k b
  let x := s.pk.bankOf n + 1
  if s.otherCore k && decide (x ≤ 2) then
    let s := s.modPk fun p => { p with bankElse := putAt 0 p.bankElse n x }
    (s.serviceAt k.die.toNat 3 (k.cluster.toNat * 2 ^ 52 + k.core.toNat * 2 ^ 48 + b.val * 2 ^ 40) (BitVec.ofNat 64 x)).changed
  else s

/-- BANK_DEMOTION_APPLY (R138, R311 to R313): once nothing overlaps the storage. -/
def execBankDemotionApply (b : Fin 24) (s : State) : Out := .next (if s.demotionDue b then s.demoteBank b else s)

/-! ### Channels (R256, R310) -/

/-- The state of a channel in flash. -/
def Package.flashChan (p : Package) (ch : BitVec 6) : Nat :=
  let i := 2 * (ch.toNat % 32)
  fieldOf (if ch.toNat < 32 then p.flashChan0 else p.flashChan1) (i + 1) i

/-- A margin test of a channel at power-on (R309): a failure goes to flash. -/
def Package.testChannel (p : Package) (ch : BitVec 6) : Package :=
  let i := 2 * (ch.toNat % 32)
  match testedTo (p.flashChan ch) with
  | some x => if ch.toNat < 32 then { p with flashChan0 := withField p.flashChan0 (i + 1) i x } else { p with flashChan1 := withField p.flashChan1 (i + 1) i x }
  | none => p

/-- CHANNEL_MARGIN_TEST (R310): a failure at full derates the channel, one at derated makes it retire pending, which is posted (R312). -/
def execChannelMarginTest (ch : BitVec 6) (pass : Bool) (s : State) : Out :=
  if s.pk.stage = 4 then
    let old := s.pk.flashChan ch
    let s := s.testedChannel ch.toNat
    .next (if pass then s
      else if old = 1 then (s.modPk fun p => p.testChannel ch).service 4 (ch.toNat * 2 ^ 32) 3
      else s.modPk fun p => p.testChannel ch)
  else
    let s := s.testedChannel ch.toNat
    .next (match (if pass then none else testedTo (s.dm.chanState ch.toNat)) with | some x => s.moveChannel ch x | none => s)

/-- CHANNEL_RETIRE (R256). -/
def execChannelRetire (ch : BitVec 6) (s : State) : Out := .next (s.moveChannel ch 2)

/-- Another core is retired (R313). -/
def State.retireElse (s : State) (k : CoreAt) : State :=
  let n := clusterNo k.die k.cluster * 8 + k.core.toNat
  if s.otherCore k && !s.pk.coreElse.contains n then (s.modPk fun p => { p with coreElse := p.coreElse ++ [n] }).changed else s

/-- Other cores hold `n` entries of a controller, which with those of this core are at most 64 of a kind (R308). -/
def State.holdElse (s : State) (k : Fin 8) (subs : Bool) (n : Nat) : State :=
  if n + s.entriesOf k.val subs ≤ 64 then s.modPk fun p => { p with entryElse := putAt 0 p.entryElse (entryNo k.val subs) n } else s

/-- A unit of another cluster, core or die takes a step, which Lantern counts (R311 to R313). -/
def State.stepElse (s : State) (u : UnitStep) : State :=
  match u with
  | .engine a => s.installElse a
  | .bank k b => s.demoteElse k b
  | .channel die ch x => s.moveElse die ch x
  | .core k => s.retireElse k
  | .entries k subs n => s.holdElse k subs n
  | .ring fid k n cfg =>
    if fid = s.fi.fid ∧ k.die = s.core.die ∧ k.cluster = s.core.cluster ∧ k.core = s.core.core then s
    else s.modPk fun p => { p with ringElse := putAt 0 p.ringElse (ringNo fid k.die k.cluster.toNat k.core.toNat n) cfg }
  | .task i t => s.taskStep i t
  | .qwait job on => s.modFi fun f => { f with qwaitElse := if on then job :: f.qwaitElse.filter (· != job) else f.qwaitElse.filter (· != job) }

/-! ### Rounds (R310) -/

/-- MARGIN_ROUND (R310): a round starts while tests are enabled and none runs. It tests the engines of the cluster, the banks of the core and the
channels of the die that are not retired; those elsewhere are tested alongside (log 38). -/
def execMarginRound (s : State) : Out :=
  if !s.pk.marginEn || s.pk.roundOn then .next s
  else
    let eng := ((List.finRange 16).filter fun e => (s.cl.engines.get e).state != 2).map (·.val)
    let bank := ((List.finRange 24).filter fun b => s.core.banks.get b != 2).map (·.val)
    let chan := (List.range 64).filter fun c => (testedTo (s.dm.chanState c)).isSome
    .next (s.modPk fun p => { p with roundOn := true, roundAt := p.lcyc.toNat, roundEng := eng, roundBank := bank, roundChan := chan }).endRound

/-- What a test made now finds of a unit: engines 0 to 15, banks from 16, channels from 40. -/
def State.found (s : State) (unit : Nat) : BitVec 5 := Config.freeMargin s.pk.lcyc.toNat unit

/-- The tests that Lantern makes next: one engine at a time, in engine order (R310). -/
def State.testEvents (s : State) : List Event :=
  let eng (e : Nat) : Event := .engineMarginTest (fin16 (BitVec.ofNat 4 e)) (s.found e)
  let bank (b : Nat) : Event := .bankMarginTest ⟨b % 24, Nat.mod_lt _ (by omega)⟩ (bitAt (s.found (16 + b)) 0)
  let chan (c : Nat) : Event := .channelMarginTest (BitVec.ofNat 6 c) (bitAt (s.found (40 + c)) 0)
  (if s.cl.engines.any fun (x : Engine) => x.state == 1 then [] else (s.pk.roundEng.take 1).map eng) ++
    ((s.pk.extraBank ++ s.pk.roundBank).take 1).map bank ++ ((s.pk.extraChan ++ s.pk.roundChan).take 1).map chan

/-! ### Storage errors of the core (R150, R151) -/

/-- A core error event for Lantern (R151). A bank that it names is tested (R310); from such events Lantern decides whether to retire the core, by a
policy that is free (log 101). -/
def State.coreEvent (s : State) (fixed : Bool) (kind unit : Nat) : State :=
  let s := s.tell (.core fixed kind unit)
  let (n, s) := s.stamp
  let s := if !s.core.retired && Config.freeBit n 0 then (s.modCore fun k => { k with retired := true }).changed else s
  if kind = 1 then s.oweBank unit else s

/-- An uncorrected error: its kind, unit and count. -/
def State.uncorrected (s : State) (kind unit : Nat) : State :=
  (s.modCore fun k => { k with coreErr := withField (withField (countSat k.coreErr 23 16) 31 24 kind) 39 32 unit }).coreEvent false kind unit

/-- A corrected error: every 256th is an event for Lantern. -/
def State.corrected (s : State) (kind unit : Nat) : State :=
  let s := s.modCore fun k => { k with coreErr := countSat k.coreErr 15 0, fixed := k.fixed + 1 }
  if s.core.fixed % 256 = 0 then s.coreEvent true kind unit else s

def State.addFlaw (s : State) (p : CorePlace) (i : Nat) : State := s.modCore fun k => { k with flaws := ⟨p, i⟩ :: k.flaws }

/-- CORE_STORAGE_ERROR: `idx` is a 32-byte sector of the scratchpad or the weight buffer, a key of L1, a half row of the accumulator
store (tile × 512 + row × 8 + place), a line of the instruction cache. -/
def execCoreStorageError (place : CorePlace) (idx : Nat) (fixed : Bool) (s : State) : Out :=
  match place with
  | .state => .next (s.enqueue (.machineCheck 1 (BitVec.ofNat 32 ((s.core.die.toNat * 2 ^ 62 + s.coreAddr) / 2 ^ 32))))
  | .icache => .next ((s.modCore fun k => { k with icache := eraseAt k.icache idx }).corrected 0 0)
  | .l1Clean => .next ((if fixed ∨ (s.l1At idx).dirty ≠ 0 then s else s.setL1 idx L1Sector.none).corrected 0 0)
  | .scratchpad => .next (if fixed then s.corrected 1 (idx * 32 / 0x10000) else (s.addFlaw .scratchpad idx).uncorrected 1 (idx * 32 / 0x10000))
  | .l1Dirty =>
    .next (if fixed then s.corrected 2 0
      else if (s.l1At idx).dirty = 0 then s
      else (s.setL1 idx { s.l1At idx with poison := true }).uncorrected 2 0)
  | .accumulator => .next (if fixed then s.corrected 3 (idx / 512) else (s.addFlaw .accumulator idx).uncorrected 3 (idx / 512))
  | .weight => .next (if fixed then s.corrected 4 0 else (s.addFlaw .weight idx).uncorrected 4 0)

/-! ### Boot (R309) -/

/-- The bits of a row as a matrix row: address bits, each once. -/
def rowOfBits (l : List Nat) : Word32 := BitVec.ofNat 32 (l.foldl (fun a b => a ||| 2 ^ (b - 5)) 0)

/-- The default wide mapping (R255): the address bits of each output bit of R252. -/
def wideRow (j : Nat) : List Nat :=
  if j < 3 then [5 + j]
  else if j < 6 then [19 + (j - 3)]
  else if j < 8 then [15 + (j - 6), 28 + (j - 6)]
  else if j < 10 then [17 + (j - 8), 30 + (j - 8)]
  else if j = 10 then [8]
  else if j < 16 then [9 + (j - 11), 22 + (j - 11)]
  else if j = 16 then [14, 27]
  else [22 + (j - 17)]

def wideMatrix : Vector Word32 32 := Vector.ofFn fun j => rowOfBits (wideRow j.val)

/-- What a reset leaves: the position of the core, the flash, the incarnation, the generations of the keys, memory cells with their tags, and
the model's own counters. -/
def State.afterReset (s : State) : State :=
  { State.reset with
    core := { Core.reset with die := s.core.die, cluster := s.core.cluster, core := s.core.core, retired := s.core.retired }
    dm := { DieMem.reset with mem := s.dm.mem, tags := s.dm.tags, keys := s.dm.keys.map fun (k : KeySlot) => { k with state := 0 } }
    pk := { Package.reset with step := s.pk.step, flashEng := s.pk.flashEng, flashBank := s.pk.flashBank, flashChan0 := s.pk.flashChan0,
                               flashChan1 := s.pk.flashChan1, flashCauses := s.pk.flashCauses, engElse := s.pk.engElse, bankElse := s.pk.bankElse,
                               chanElse := s.pk.chanElse, coreElse := s.pk.coreElse, firmware := s.pk.firmware, dumps := s.pk.dumps, dumpBody := s.pk.dumpBody }
    fi := { Fabric.reset with inc := s.fi.inc }
    free := s.free, tags := s.tags }

/-- Boot stage 3: the wide mapping, key slot 0, the carve-out zeroed, the Mirror frames and, on die 0, the dump area reserved (R316). Where the frames stand in the
carve-out is free (R206). -/
def State.bootMaps (s : State) : State :=
  let (e, s) := s.newTag
  let (n, s) := s.stamp
  let k := s.dm.keys.get 0
  let frames : Vector Word 4 := Vector.ofFn fun c => BitVec.ofNat 64 (0x8000000000 + (Config.freeNat n 0 % 4093 + c.val) * 2 ^ 18)
  let s := { s with cl := { s.cl with frames := frames } }
  s.modDm fun d =>
    { d with regions := d.regions.set 0 ⟨1, false, 7, 0, wideMatrix⟩, blocks := Vector.replicate 8 (0, e), keys := d.keys.set 0 ⟨1, 0, k.gen + 1⟩,
             dumpSet := s.core.die == 0,
             mem := d.mem.filter fun c => decide (c.1 < 0x8000000000), tags := d.tags.filter fun t => decide (t.1 * 32 < 0x8000000000) }

/-- Boot stage 5: the states that the margin test of stage 4 left in flash. A cause set under firmware below 1.3 stays set over boots until 1.3
clears it (R391). -/
def State.bootUnits (s : State) : State :=
  let p := s.pk
  let s := { s with cl := { s.cl with engines := p.flashEng.map fun (b : BitVec 8) => ⟨0, 0, if b = 0 then 2 else 0, b, none⟩ } }
  let s := s.modCore fun k => { k with banks := p.flashBank }
  let s := s.modDm fun d => { d with chan0 := p.flashChan0, chan1 := p.flashChan1 }
  (s.modPk fun p => { p with causes := if p.firmware < 0x103 then p.flashCauses else 0 }).recompute

/-- A unit whose record cannot be read starts at full (R311). -/
def State.unreadUnit (s : State) (u : BootUnit) : State :=
  s.modPk fun p => match u with
    | .engine e => { p with flashEng := p.flashEng.set e.val 0x1F e.isLt }
    | .bank b => { p with flashBank := p.flashBank.set b.val 0 b.isLt }
    | .channel c =>
      let i := 2 * (c.toNat % 32)
      if c.toNat < 32 then { p with flashChan0 := withField p.flashChan0 (i + 1) i 0 } else { p with flashChan1 := withField p.flashChan1 (i + 1) i 0 }

/-- PACKAGE_RESET (R309, R345): the reset values, and boot begins with its first stage. -/
def execPackageReset (r : BootReport) (s : State) : Out :=
  let s := r.unread.foldl State.unreadUnit s.afterReset
  .next { s with fi := { s.fi with inc := s.fi.inc + 1 }, pk := { s.pk with stage := 1, bootFail := r.fail, firmware := r.firmware } }

/-- No engine of some cluster holds TS (R309 code 5). -/
def State.noTs (s : State) : Bool :=
  (s.pk.flashEng.all fun (b : BitVec 8) => !bitAt b 4) ||
    (List.range 48).any fun k => decide (16 ≤ (s.pk.engElse.filter fun e => e.1 / 16 == k && !bitAt e.2 4).length)

/-- The failure that stops boot at the stage it is in, 0 for none (R309). -/
def State.stageFails (s : State) : Byte :=
  let f := s.pk.bootFail
  match s.pk.stage.toNat with
  | 1 => if f = 1 ∨ f = 2 then f else 0
  | 2 => if f = 3 then f else 0
  | 3 => if f = 4 then f else 0
  | 4 => if s.noTs then 5 else 0
  | _ => 0

/-- Boot is in one of its stages and goes on. -/
def State.booting (s : State) : Bool := decide (1 ≤ s.pk.stage.toNat ∧ s.pk.stage.toNat ≤ 5) && s.pk.fail == 0

/-- Boot stage 4 begins: every engine of the cluster, bank of the core and channel of the die that flash does not hold retired is to be tested (R309). -/
def State.bootTests (s : State) : State :=
  s.modPk fun p => { p with
    roundEng := ((List.finRange 16).filter fun e => p.flashEng.get e != 0).map (·.val)
    roundBank := ((List.finRange 24).filter fun b => p.flashBank.get b != 2).map (·.val)
    roundChan := (List.range 64).filter fun c => (testedTo (p.flashChan (BitVec.ofNat 6 c))).isSome }

/-- Tests of the power-on margin test that are still to be made. -/
def State.bootOwes (s : State) : Bool :=
  s.pk.stage == 4 && !(s.pk.roundEng.isEmpty && s.pk.roundBank.isEmpty && s.pk.roundChan.isEmpty)

/-- The stage that boot is in ends: with a failure, or with its work done and the next stage begun (R309). -/
def execBootNext (s : State) : Out :=
  if !s.booting || s.bootOwes then .next s
  else if s.stageFails ≠ 0 then .next (s.modPk fun p => { p with fail := s.stageFails })
  else
    let s := if s.pk.stage = 3 then s.bootMaps.bootTests else if s.pk.stage = 5 then s.bootUnits else s
    .next (s.modPk fun p => { p with stage := p.stage + 1 })

/-- DEVICE_RESET (R54, R169): every register takes its reset value; what is counted since package reset goes on, and so do the identity and the
table of the group (log 34). -/
def execDeviceReset (s : State) : Out :=
  let r := s.afterReset
  .next { r with
    pk := { r.pk with seq := s.pk.seq, lcyc := s.pk.lcyc, clock := s.pk.clock, roundAt := s.pk.roundAt }
    fi := { r.fi with fid := s.fi.fid, table := s.fi.table, seq := s.fi.seq, idx := s.fi.idx,
                      links := s.fi.links.map fun (l : Link) => { Link.reset with replays := l.replays, crcErrors := l.crcErrors } } }

/-! ### Machine check (R314 to R316) -/

/-- The header of a dump (R315): what other dies hold and the lengths of the sections are not seen here and are free (log 37). The die is that of the failing
unit, as ADDR of R312 names it. -/
def State.dumpHeader (s : State) (n : Nat) (cause : Byte) (unitId : BitVec 32) : List Word :=
  let cyc (d : Nat) : Word := if d = s.core.die.toNat then s.dl.dcyc else Config.freeWord n d
  let sect (i : Nat) : List Word :=
    if i < 5 then [withField (withField (Config.freeWord n (8 + 2 * i)) 15 0 (i + 1)) 31 16 0, Config.freeWord n (9 + 2 * i)] else [0, 0]
  [0xCAE1D0D000000001, s.pk.seq,
   BitVec.ofNat 64 (cause.toNat + unitId.toNat / 2 ^ 30 * 2 ^ 8 + unitId.toNat / 2 ^ 16 * 2 ^ 16 + unitId.toNat * 2 ^ 32),
   cyc 0, cyc 1, cyc 2, cyc 3, s.pk.lcyc] ++ ((List.range 16).flatMap sect) ++ List.replicate 472 0

/-- The header of the newest dump is written on die 0, unencrypted, and copied to flash (R316). -/
def State.putHeader (s : State) (h : List Word) (older : List (List Word)) : State :=
  let s := s.modPk fun p => { p with dumps := (h :: older).take 16 }
  if s.core.die = 0 then s.modDm fun d => d.write 0 0x1FF0000000 (h.flatMap fun w => bytesOf w 8) else s

/-- A machine check after the one that halted the package takes a descriptor of the header's section table (R314), the next of those that the five sections
leave; its contents have no layout and are free (log 80). -/
def State.noteCheck (s : State) : State :=
  match s.pk.dumps with
  | [] => s
  | h :: older =>
    if 11 ≤ s.pk.checks then s
    else
      let (n, s) := s.stamp
      let i := 18 + 2 * s.pk.checks
      (s.modPk fun p => { p with checks := p.checks + 1 }).putHeader ((h.set i (Config.freeWord n 0)).set (i + 1) (Config.freeWord n 1)) older

/-- What the host port reports after a machine check: an uncorrectable internal error (R314). -/
def State.portError (s : State) : Bool := s.pk.halted.isSome

/-- MACHINE_CHECK (R314): the package halts, and the header of the dump is written; the body, where a live region covers the dump area (R316). A second one
does not start the dump again. -/
def execMachineCheck (cause : Byte) (unitId : BitVec 32) (s : State) : Out :=
  if s.pk.halted.isSome then .next s.noteCheck
  else
    let (n, s) := s.stamp
    let h := s.dumpHeader n cause unitId
    let s := s.modPk fun p => { p with halted := some cause, stage := 7, checks := 0, dumpBody := (s.dm.regionOf 0x1FF0000000).isSome }
    .next (s.putHeader h s.pk.dumps)

/-! ### Attestation and clock -/

/-- ATTEST_REQUEST (R318): the report is built at the end of the Lantern cycle; until then another request of the function is ignored. -/
def execAttestRequest (fn : Option (BitVec 6)) (v : Word) (s : State) : Out :=
  if s.pk.halted.isSome || s.pk.asking.any (fun e => e.1 == fn) then .next s
  else
    let a := keep v 63 12
    let s := match fn with
      | none => s.modPk fun p => { p with attest := a }
      | some f => { s with dl := s.dl.setVf f { s.dl.vf f with attest := a } }
    .next (s.modPk fun p => { p with asking := p.asking ++ [(fn, a)] })

/-- THERMAL_THROTTLE (R319): the clock moves by a sixteenth of 2.25 GHz; nothing else changes. -/
def execThermalThrottle (lower : Bool) (s : State) : Out :=
  .next (s.modPk fun p => { p with clock := if lower then (if p.clock ≤ 1 then 1 else p.clock - 1) else capAt 16 (p.clock + 1) })

/-! ### Prism (R214) -/

/-- The sub-launch whose loop record is queued for translation. -/
def State.queuedFor (s : State) (lrec : Nat) : Option Sub := s.dl.subs.find? fun u => u.lrec == lrec && u.prism

/-- PRISM_TRANSLATE (R214): while enabled, for a queued loop record whose kernel is portable. The native code is written into the code arena at the
address that the new KERNEL word names, and published with the invalidations of R149; only then is the whole word replaced, with KNAT set. -/
def execPrismTranslate (lrec : Nat) (code : NativeCode) (s : State) : Out :=
  match (if s.cl.prismEn ∧ !bitAt (s.devWord (lrec + 8)) 63 then s.queuedFor lrec else none) with
  | none => .next s
  | some u =>
    let s := s.arenaWrite (fieldOf code.word 39 2 * 4) code.bytes
    let s := s.devPut (lrec + 8) (code.word ||| (1#64 <<< 63))
    let s := s.modDl fun d => { d with subs := d.subs.map fun v => if v = u then { v with prism := false } else v }
    .next { s with cl := { s.cl with prismPend := s.cl.prismPend - 1 } }

/-! ### What the host reads (R307) -/

/-- A word of the physical function's BAR0: MMIO of die d. The package block is the same on every die; the rest of another die's MMIO is not in
State, and free (log 37). -/
def State.bar0Read (s : State) (x : Nat) : Word :=
  let o := x % 2 ^ 28
  if x / 2 ^ 28 = s.core.die.toNat ∨ (0x30000 ≤ o ∧ o < 0x40000) then s.mmio o else Config.freeWord s.free x

/-- A word of the physical function's BAR4 (R316): the dump area, which lies on die 0, where the body of a dump has a layout of Lantern's own and
is free (log 80); the flash copies of the last 16 headers, newest first. After a failed boot there is no BAR but BAR0 (R309). -/
def State.bar4Read (s : State) (x : Nat) : Word :=
  if s.pk.fail ≠ 0 then 0
  else if x < 2 ^ 28 then
    (if s.core.die = 0 ∧ (x < 0x1000 ∨ s.pk.dumpBody = false) then s.devWord (0x1FF0000000 + x) else Config.freeWord s.free x)
  else if x < 2 ^ 28 + 0x10000 then (((s.pk.dumps[(x - 2 ^ 28) / 0x1000]?).getD [])[(x - 2 ^ 28) % 0x1000 / 8]?).getD 0
  else 0

/-- A word of the BAR0 of virtual function v: its launch page on die d; the attestation register stands on the page of die 0 alone. After a machine check it
reads all ones (R314). -/
def State.pageRead (s : State) (v : BitVec 6) (x : Nat) : Word :=
  if s.portError then BitVec.allOnes 64
  else if x % 2 ^ 13 = 0x1800 then (if x / 2 ^ 13 = 0 then (s.dl.vf v).attest else 0)
  else if x / 2 ^ 13 = s.core.die.toNat then (s.dl.vf v).pageReg (x % 2 ^ 13) else Config.freeWord s.free x

/-- A word of the BAR2 of virtual function v: the ring of its queue on die d, wherever it resides (R288). -/
def State.launchRead (s : State) (v : BitVec 6) (x : Nat) : Word :=
  if s.portError then BitVec.allOnes 64
  else
  let k := s.dl.queue (x % 2 ^ 32 / 2 ^ 23)
  let o := x % 2 ^ 23 / 8 * 8
  if x / 2 ^ 32 ≠ s.core.die.toNat then Config.freeWord s.free x
  else if k.en && k.vf == v && decide (o < k.bytes) then s.devWord (s.dl.ringAt k + o) else 0

end Sys2Proof.Machine
end

