-- ==== Sys2Proof/Machine/Scale.lean ====
section
/-! DEFINITION. The S-slot instructions (R189, R190). -/

namespace Sys2Proof.Machine

/-- The tile operation error of SLD, SLOT 5 (R190, R224): none of the tile data applies to it. -/
def State.scaleError (s : State) (sub : Nat) : State :=
  if s.core.cur = svc then s
  else s.recordAsync s.core.cur ⟨TrapRec.plain 12 sub 5 (s.issue.word.setWidth 64) 0, none, s.tags, 0⟩

/-- SLD (R190), latency 5: eight NaN scales where the bytes are outside the window, mapped out or lost. -/
def execSld (g : BitVec 4) (d a : BitVec 5) (off : BitVec 10) (s : State) : Out :=
  perform (.sld g d a off) g s fun s =>
    let o := fieldOf (s.me.getE a) 20 3 * 8 + 8 * off.toNat
    let bad (sub : Nat) : Option State := some ((s.scaleError sub).land (.e (fin32 d) (BitVec.allOnes 64)) 5)
    match s.window s.core.cur o 8 with
    | none => bad 1
    | some p => if s.core.spadLost p 8 then bad 2 else some (s.land (.e (fin32 d) (wordOf (s.core.spadRead p 8))) 5)

/-- SSET.B (R190), latency 1. -/
def execSsetB (g : BitVec 4) (d : BitVec 5) (v : Byte) (s : State) : Out :=
  perform (.ssetB g d v) g s fun s => some (s.land (.e (fin32 d) (BitVec.ofNat 64 (v.toNat * 0x0101010101010101))) 1)

/-- SSET.SH (R190), latency 1. -/
def execSsetSh (g : BitVec 4) (d a : BitVec 5) (v : Byte) (s : State) : Out :=
  perform (.ssetSh g d a v) g s fun s => some (s.land (.e (fin32 d) ((s.me.getE a <<< 8) ||| v.setWidth 64)) 1)

/-- SMOV (R190), latency 1. -/
def execSmov (g : BitVec 4) (d a : BitVec 5) (s : State) : Out :=
  perform (.smov g d a) g s fun s => some (s.land (.e (fin32 d) (s.me.getE a)) 1)

end Sys2Proof.Machine
end

