-- ==== Sys2Proof/Machine/Vector.lean ====
section
/-! DEFINITION. Vector instructions of the V slot (R152 to R168). -/

namespace Sys2Proof.Machine

/-! ### Types and forms -/

/-- The floating-point format of a type, none for an integer type and E8M0. -/
def laneFmt : LaneType → Option FloatFmt
  | .f16 => some fp16 | .bf16 => some bf16 | .f32 => some fp32 | .e4m3 => some e4m3 | .e5m2 => some e5m2 | .e2m1 => some e2m1
  | .b8 | .i8 | .n8 | .i16 | .n16 | .i32 | .n32 | .i64 | .n64 | .e8m0 => none

/-- The type is signed (R112). -/
def laneSigned : LaneType → Bool
  | .i8 | .i16 | .i32 | .i64 => true
  | .b8 | .n8 | .n16 | .n32 | .n64 | .f16 | .bf16 | .f32 | .e4m3 | .e5m2 | .e2m1 | .e8m0 => false

/-- A lane read as an integer of the type. -/
def laneInt (t : LaneType) (v : Nat) : Int := if laneSigned t then signedOf (laneW t) v else v

/-- Read a vector source and go on; a slot lost to an error ends the strand (R150). -/
def State.withV (s : State) (i : Bool) (raw : BitVec 5) (go : Vec → State → Option State) : Option State :=
  match s.readV i raw with
  | none => none
  | some (.lost a, s) => some (s.faultStop 5 (BitVec.ofNat 64 a))
  | some (.val v, s) => go v s

/-- A lane result and its flags. -/
abbrev LaneOut := Nat × FFlags
/-- A lane result without flags (R155). -/
def plain (v : Nat) : LaneOut := (v, FFlags.none)

/-- The enabled lanes of a result, and the flags they raise together (R152). -/
def laneVec (w n : Nat) (k : Mask) (f : Nat → LaneOut) : Vec := ofLanes w n fun j => if bitAt k j then (f j).1 else 0
def laneFlags (n : Nat) (k : Mask) (f : Nat → LaneOut) : FFlags := loopUp n (fun j a => if bitAt k j then a.join (f j).2 else a) FFlags.none

/-- Land a lane-wise result under a write mask with its flags (R152). -/
def State.landLanes (s : State) (i : Bool) (d : BitVec 5) (t : LaneType) (k : Mask) (lat : Nat) (f : Nat → LaneOut) : State :=
  (s.writeV i d t k (laneVec (laneW t) (laneN t) k f) lat).landFlags (laneFlags (laneN t) k f) lat

/-- Two vector sources and the old destination under a write mask. -/
def formVvv (f : Vec3) (lat : Nat) (op : Nat → Nat → Nat → LaneOut) (s : State) : Option State :=
  s.withV f.i f.a fun a s => s.withV f.i f.b fun b s =>
    let d := s.plainV f.i f.d
    let w := laneW f.t
    some (s.landLanes f.i f.d f.t (s.readK f.k) lat fun j => op (lane a w j) (lane b w j) (lane d w j))

/-- One vector source under a write mask. -/
def formVv (f : Vec2) (lat : Nat) (op : Nat → LaneOut) (s : State) : Option State :=
  s.withV f.i f.a fun a s => some (s.landLanes f.i f.d f.t (s.readK f.k) lat fun j => op (lane a (laneW f.t) j))

/-- Every lane of v[d] from whole sources: the S forms and the permutes under a mask `k`. -/
def State.landWhole (s : State) (i : Bool) (d : BitVec 5) (t : LaneType) (k : Mask) (lat : Nat) (f : Nat → Nat) : State :=
  s.writeV i d t k (ofLanes (laneW t) (laneN t) f) lat

/-- The mask that enables every lane. -/
def allLanes : Mask := BitVec.allOnes 512

/-! ### Lane operations (R156, R157, R160) -/

/-- An operation with an integer and a floating-point column. -/
def byType (t : LaneType) (int : Int → Int → Int → Int) (flt : FloatFmt → Nat → Nat → Nat → LaneOut) (a b d : Nat) : LaneOut :=
  match laneFmt t with
  | some f => flt f a b d
  | none => plain (patternOf (laneW t) (int (laneInt t a) (laneInt t b) (laneInt t d)))

/-- An operation of integer types. -/
def intLane (t : LaneType) (int : Int → Int → Int) (a b _d : Nat) : LaneOut := plain (patternOf (laneW t) (int (laneInt t a) (laneInt t b)))

/-- An operation of floating-point types. -/
def fltLane (t : LaneType) (op : FloatFmt → Nat → LaneOut) (a : Nat) : LaneOut :=
  match laneFmt t with | some f => op f a | none => plain 0

/-- High half of the product (R156). -/
def mulHi (w : Nat) (a b : Int) : Int := a * b / (2 ^ w : Nat)

/-- The shift amount: the low log2(w) bits (R157). -/
def laneAmt (w b : Nat) : Nat := b % w

/-- The shifts of VLOG (R157). -/
def shlLane (w a b : Nat) : Nat := a * 2 ^ laneAmt w b % 2 ^ w
def shrLane (w a b : Nat) : Nat := a / 2 ^ laneAmt w b
def sraLane (w a b : Nat) : Nat := patternOf w (signedOf w a / (2 ^ laneAmt w b : Nat))
def rotLane (w a b : Nat) : Nat := (a * 2 ^ laneAmt w b) % 2 ^ w + a * 2 ^ laneAmt w b / 2 ^ w

/-- Leading and trailing zeros within `w` bits (R160). -/
def clzLane (a : Nat) : Nat → Nat
  | 0 => 0
  | n + 1 => if a.testBit n then 0 else clzLane a n + 1
def ctzLane (a i : Nat) : Nat → Nat
  | 0 => 0
  | n + 1 => if a.testBit i then 0 else ctzLane a (i + 1) n + 1

/-- The carry-less product, by the bits of `b` (R160). -/
def clmul (a b : Nat) : Nat → Nat
  | 0 => 0
  | n + 1 => clmul a b n ^^^ (if b.testBit n then a * 2 ^ n else 0)

/-- The conditions of VCMP (R158): a signalling NaN raises NV. -/
def VCond.holds (c : VCond) (t : LaneType) (a b : Nat) : Bool × FFlags :=
  let order (x y : Int) : Bool := match c with
    | .eq => x == y | .ne => x != y | .lt => decide (x < y) | .ge => decide (y ≤ x) | .le => decide (x ≤ y) | .gt => decide (y < x)
    | .unord => false
  match laneFmt t with
  | none => (order (laneInt t a) (laneInt t b), FFlags.none)
  | some f =>
    let x := f.value a
    let y := f.value b
    if x.isNan || y.isNan then (c == .ne || c == .unord, flagIf (x.signals || y.signals) FFlags.invalid)
    else (order (fOrd f a) (fOrd f b), FFlags.none)

/-! ### Reductions (R128, R129) -/

/-- One level of the tree. -/
def pairUp (op : Nat → Nat → LaneOut) : List LaneOut → List LaneOut
  | a :: b :: r => ((op a.1 b.1).1, (a.2.join b.2).join (op a.1 b.1).2) :: pairUp op r
  | l => l

/-- The tree over a power of two of lanes. -/
def treeOf (op : Nat → Nat → LaneOut) : Nat → List LaneOut → LaneOut
  | 0, l => l.headD (plain 0)
  | n + 1, l => treeOf op n (pairUp op l)

/-- Reduce the lanes that a mask selects; the others enter as the identity (R129). -/
def reduceLanes (t : LaneType) (k : Mask) (ident : Nat) (op : Nat → Nat → LaneOut) (v : Vec) : LaneOut :=
  treeOf op 9 ((List.range (laneN t)).map fun j => plain (if bitAt k j then lane v (laneW t) j else ident))

/-- A reduction: lane 0 takes the result, every other lane zero (R161). -/
def formVred (f : Vec2) (ident : Nat) (op : Nat → Nat → LaneOut) (s : State) : Option State :=
  s.withV f.i f.a fun a s =>
    let (r, g) := reduceLanes f.t (s.readK f.k) ident op a
    some ((s.landWhole f.i f.d f.t allLanes 6 fun j => if j = 0 then r else 0).landFlags g 6)

/-- The identities of R129. -/
def idAdd (t : LaneType) : Nat := match laneFmt t with | some f => f.sign true 0 | none => 0
def idMin (t : LaneType) : Nat := match laneFmt t with | some f => f.inf.getD f.top | none => patternOf (laneW t) (intTop (laneW t) (laneSigned t))
def idMax (t : LaneType) : Nat :=
  match laneFmt t with | some f => f.sign true (f.inf.getD f.top) | none => patternOf (laneW t) (intLeast (laneW t) (laneSigned t))

/-- Addition, minimum and maximum of a type. -/
def addLane (t : LaneType) (a b : Nat) : LaneOut := byType t (fun a b _ => a + b) (fun f a b _ => fAdd f a b) a b 0
def minLane (t : LaneType) (a b : Nat) : LaneOut := byType t (fun a b _ => min a b) (fun f a b _ => fPick f false a b) a b 0
def maxLane (t : LaneType) (a b : Nat) : LaneOut := byType t (fun a b _ => max a b) (fun f a b _ => fPick f true a b) a b 0

/-! ### Meanings: VAR1 and VAR2 -/

/-- VADD (R156), latency 3. -/
def execVadd (f : Vec3) (s : State) : Out := perform (.vadd f) 0 s (formVvv f 3 fun a b _ => addLane f.t a b)

/-- VSUB (R156), latency 3. -/
def execVsub (f : Vec3) (s : State) : Out :=
  perform (.vsub f) 0 s (formVvv f 3 (byType f.t (fun a b _ => a - b) fun f a b _ => fSub f a b))

/-- VMUL (R156), latency 4. -/
def execVmul (f : Vec3) (s : State) : Out :=
  perform (.vmul f) 0 s (formVvv f 4 (byType f.t (fun a b _ => a * b) fun f a b _ => fMul f a b))

/-- VFMA (R156): A × B + D, latency 4. -/
def execVfma (f : Vec3) (s : State) : Out :=
  perform (.vfma f) 0 s (formVvv f 4 (byType f.t (fun a b d => a * b + d) fFma))

/-- VMIN (R156), latency 3. -/
def execVmin (f : Vec3) (s : State) : Out := perform (.vmin f) 0 s (formVvv f 3 fun a b _ => minLane f.t a b)
/-- VMAX (R156), latency 3. -/
def execVmax (f : Vec3) (s : State) : Out := perform (.vmax f) 0 s (formVvv f 3 fun a b _ => maxLane f.t a b)

/-- VABSD (R156), latency 3: an integer difference as an unsigned number. -/
def execVabsd (f : Vec3) (s : State) : Out :=
  perform (.vabsd f) 0 s (formVvv f 3 (byType f.t (fun a b _ => ((a - b).natAbs : Int)) fun f a b _ => fAbsd f a b))

/-- VDIV (R156), latency 14. -/
def execVdiv (f : Vec3) (s : State) : Out := perform (.vdiv f) 0 s (formVvv f 14 fun a b _ => fltLane f.t (fun g a => fDiv g a b) a)
/-- VSQRT (R156), latency 16. -/
def execVsqrt (f : Vec2) (s : State) : Out := perform (.vsqrt f) 0 s (formVv f 16 (fltLane f.t fSqrt))
/-- VEXP2 (R156), latency 10. -/
def execVexp2 (f : Vec2) (s : State) : Out := perform (.vexp2 f) 0 s (formVv f 10 (fltLane f.t fExp2))
/-- VLOG2 (R156), latency 10. -/
def execVlog2 (f : Vec2) (s : State) : Out := perform (.vlog2 f) 0 s (formVv f 10 (fltLane f.t fLog2))

/-- VNEG (R156), latency 1. -/
def execVneg (f : Vec2) (s : State) : Out :=
  perform (.vneg f) 0 s (formVv f 1 fun a => byType f.t (fun a _ _ => -a) (fun g a _ _ => plain (fNeg g a)) a 0 0)

/-- VABS (R156), latency 1. -/
def execVabs (f : Vec2) (s : State) : Out :=
  perform (.vabs f) 0 s (formVv f 1 fun a => byType f.t (fun a _ _ => (a.natAbs : Int)) (fun g a _ _ => plain (fAbs g a)) a 0 0)

/-- VSCALE (R156), latency 3: the power is lane i of v[b] as a signed integer of the width. -/
def execVscale (f : Vec3) (s : State) : Out :=
  perform (.vscale f) 0 s (formVvv f 3 fun a b _ => fltLane f.t (fun g a => fScale g a (signedOf (laneW f.t) b)) a)

/-- VMULH (R156), latency 4. -/
def execVmulh (f : Vec3) (s : State) : Out := perform (.vmulh f) 0 s (formVvv f 4 (intLane f.t (mulHi (laneW f.t))))

/-- VADDS (R156), latency 3: the sum saturates. -/
def execVadds (f : Vec3) (s : State) : Out :=
  perform (.vadds f) 0 s (formVvv f 3 (intLane f.t fun a b => clamp (laneW f.t) (laneSigned f.t) (a + b)))

/-! ### Meanings: VLOG -/

/-- VAND (R157), latency 1. -/
def execVand (f : Vec3) (s : State) : Out := perform (.vand f) 0 s (formVvv f 1 fun a b _ => plain (a &&& b))
/-- VOR (R157), latency 1. -/
def execVor (f : Vec3) (s : State) : Out := perform (.vor f) 0 s (formVvv f 1 fun a b _ => plain (a ||| b))
/-- VXOR (R157), latency 1. -/
def execVxor (f : Vec3) (s : State) : Out := perform (.vxor f) 0 s (formVvv f 1 fun a b _ => plain (a ^^^ b))
/-- VANDN (R157), latency 1. -/
def execVandn (f : Vec3) (s : State) : Out := perform (.vandn f) 0 s (formVvv f 1 fun a b _ => plain (a - (a &&& b)))
/-- VSHL (R157), latency 2. -/
def execVshl (f : Vec3) (s : State) : Out := perform (.vshl f) 0 s (formVvv f 2 fun a b _ => plain (shlLane (laneW f.t) a b))
/-- VSHR (R157), latency 2. -/
def execVshr (f : Vec3) (s : State) : Out := perform (.vshr f) 0 s (formVvv f 2 fun a b _ => plain (shrLane (laneW f.t) a b))
/-- VSRA (R157), latency 2: signed for every type. -/
def execVsra (f : Vec3) (s : State) : Out := perform (.vsra f) 0 s (formVvv f 2 fun a b _ => plain (sraLane (laneW f.t) a b))
/-- VROTL (R157), latency 2. -/
def execVrotl (f : Vec3) (s : State) : Out := perform (.vrotl f) 0 s (formVvv f 2 fun a b _ => plain (rotLane (laneW f.t) a b))

/-! ### Meanings: VCMP -/

/-- VCMP (R158): a bit for each lane, latency 2; disabled lanes and the bits above give 0. -/
def execVcmp (f : VCmpOp) (s : State) : Out :=
  perform (.vcmp f) 0 s fun s => s.withV f.i f.a fun a s => s.withV f.i f.b fun b s =>
    let w := laneW f.t
    let n := laneN f.t
    let k := s.readK f.k
    let at_ (j : Nat) : LaneOut := let r := VCond.holds f.cc f.t (lane a w j) (lane b w j); (b2n r.1, r.2)
    some ((s.writeK f.d n (laneSum 1 (fun j => if bitAt k j then (at_ j).1 else 0) n) 2).landFlags (laneFlags n k at_) 2)

/-! ### Meanings: VPRM -/

/-- VPERM (R159), latency 3. -/
def execVperm (f : Vec3) (s : State) : Out :=
  perform (.vperm f) 0 s fun s => s.withV f.i f.a fun a s => s.withV f.i f.b fun b s =>
    let w := laneW f.t
    some (s.landWhole f.i f.d f.t (s.readK f.k) 3 fun j => lane a w (lane b w j % laneN f.t))

/-- VSLIDE (R159), latency 3. -/
def execVslide (f : Vec2) (down : Bool) (e : BitVec 4) (s : State) : Out :=
  perform (.vslide f down e) 0 s fun s => s.withV f.i f.a fun a s =>
    let w := laneW f.t
    let n := 2 ^ e.toNat
    some (s.landWhole f.i f.d f.t (s.readK f.k) 3 fun j =>
      if down then (if j + n < laneN f.t then lane a w (j + n) else 0) else if n ≤ j then lane a w (j - n) else 0)

/-- VBCAST (R159), latency 3. -/
def execVbcast (f : Vec2) (l : BitVec 5) (s : State) : Out :=
  perform (.vbcast f l) 0 s fun s => s.withV f.i f.a fun a s =>
    some (s.landWhole f.i f.d f.t (s.readK f.k) 3 fun _ => lane a (laneW f.t) l.toNat)

/-- VIOTA (R159), latency 3. -/
def execViota (i : Bool) (k : BitVec 3) (d : BitVec 5) (t : LaneType) (s : State) : Out :=
  perform (.viota i k d t) 0 s fun s => some (s.landWhole i d t (s.readK k) 3 fun j => j)

/-- VCMPR (R159), latency 3: the enabled lanes in order, then zeros. -/
def execVcmpr (f : Vec2) (s : State) : Out :=
  perform (.vcmpr f) 0 s fun s => s.withV f.i f.a fun a s =>
    let k := s.readK f.k
    let l := (List.range (laneN f.t)).filter fun j => bitAt k j
    some (s.landWhole f.i f.d f.t allLanes 3 fun j => match l[j]? with | some q => lane a (laneW f.t) q | none => 0)

/-- VEXPD (R159), latency 3: the n-th enabled lane takes lane n. -/
def execVexpd (f : Vec2) (s : State) : Out :=
  perform (.vexpd f) 0 s fun s => s.withV f.i f.a fun a s =>
    let k := s.readK f.k
    some (s.landWhole f.i f.d f.t allLanes 3 fun j => if bitAt k j then lane a (laneW f.t) (popcount k.toNat j) else 0)

/-- VZIP (R159), latency 3. -/
def execVzip (f : Vec3) (s : State) : Out :=
  perform (.vzip f) 0 s fun s => s.withV f.i f.a fun a s => s.withV f.i f.b fun b s =>
    some (s.landWhole f.i f.d f.t (s.readK f.k) 3 fun j => lane (if j % 2 = 0 then a else b) (laneW f.t) (j / 2))

/-- VUNZIP (R159), latency 3. -/
def execVunzip (f : Vec2) (s : State) : Out :=
  perform (.vunzip f) 0 s fun s => s.withV f.i f.a fun a s =>
    let h := laneN f.t / 2
    some (s.landWhole f.i f.d f.t (s.readK f.k) 3 fun j => lane a (laneW f.t) (if j < h then 2 * j else 2 * (j - h) + 1))

/-! ### Meanings: VBIT -/

/-- VCLMUL (R160), latency 3. -/
def execVclmul (f : Vec3) (s : State) : Out := perform (.vclmul f) 0 s (formVvv f 3 fun a b _ => plain (clmul a b 64 % 2 ^ 64))
/-- VCLMULH (R160), latency 3. -/
def execVclmulh (f : Vec3) (s : State) : Out := perform (.vclmulh f) 0 s (formVvv f 3 fun a b _ => plain (clmul a b 64 / 2 ^ 64))
/-- VPOPC (R160), latency 2. -/
def execVpopc (f : Vec2) (s : State) : Out := perform (.vpopc f) 0 s (formVv f 2 fun a => plain (popcount a (laneW f.t)))
/-- VCLZ (R160), latency 2. -/
def execVclz (f : Vec2) (s : State) : Out := perform (.vclz f) 0 s (formVv f 2 fun a => plain (clzLane a (laneW f.t)))
/-- VCTZ (R160), latency 2. -/
def execVctz (f : Vec2) (s : State) : Out := perform (.vctz f) 0 s (formVv f 2 fun a => plain (ctzLane a 0 (laneW f.t)))

/-- VSEL (R160), latency 2: every lane. -/
def execVsel (f : Vec3) (s : State) : Out :=
  perform (.vsel f) 0 s fun s => s.withV f.i f.a fun a s => s.withV f.i f.b fun b s =>
    let k := s.readK f.k
    some (s.landWhole f.i f.d f.t allLanes 2 fun j => lane (if bitAt k j then a else b) (laneW f.t) j)

/-- VMSB (R160), latency 2: a bitmap in the low bits of the register. -/
def execVmsb (f : Vec2) (s : State) : Out :=
  perform (.vmsb f) 0 s fun s => s.withV f.i f.a fun a s =>
    let k := s.readK f.k
    let w := laneW f.t
    let v := laneSum 1 (fun j => if bitAt k j then lane a w j / 2 ^ (w - 1) else 0) (laneN f.t)
    some (s.writeV f.i f.d f.t allLanes (BitVec.ofNat 2048 v) 2)

/-- VKTOV (R160), latency 2. -/
def execVktov (i : Bool) (d : BitVec 5) (a : BitVec 3) (t : LaneType) (s : State) : Out :=
  perform (.vktov i d a t) 0 s fun s =>
    let k := s.readK a
    some (s.landWhole i d t allLanes 2 fun j => if bitAt k j then 2 ^ laneW t - 1 else 0)

/-! ### Meanings: VRED -/

/-- VREDADD (R161), latency 6. -/
def execVredadd (f : Vec2) (s : State) : Out := perform (.vredadd f) 0 s (formVred f (idAdd f.t) (addLane f.t))
/-- VREDMIN (R161), latency 6. -/
def execVredmin (f : Vec2) (s : State) : Out := perform (.vredmin f) 0 s (formVred f (idMin f.t) (minLane f.t))
/-- VREDMAX (R161), latency 6. -/
def execVredmax (f : Vec2) (s : State) : Out := perform (.vredmax f) 0 s (formVred f (idMax f.t) (maxLane f.t))
/-- VREDAND (R161), latency 6. -/
def execVredand (f : Vec2) (s : State) : Out := perform (.vredand f) 0 s (formVred f (2 ^ laneW f.t - 1) fun a b => plain (a &&& b))
/-- VREDOR (R161), latency 6. -/
def execVredor (f : Vec2) (s : State) : Out := perform (.vredor f) 0 s (formVred f 0 fun a b => plain (a ||| b))
/-- VREDXOR (R161), latency 6. -/
def execVredxor (f : Vec2) (s : State) : Out := perform (.vredxor f) 0 s (formVred f 0 fun a b => plain (a ^^^ b))

/-- VSUMX (R162), latency 8: bits 511 to 0 of v[d] take the cell. -/
def execVsumx (i : Bool) (k : BitVec 3) (d a : BitVec 5) (s : State) : Out :=
  perform (.vsumx i k d a) 0 s fun s => s.withV i a fun v s =>
    let m := s.readK k
    let c := loopUp 64 (fun j (c : Cell) => if bitAt m j then c.addF32 (lane v 32 j) else c) (Cell.of (s.plainV i d).toNat)
    some (s.land (.v (s.homeV i d) (BitVec.ofNat 2048 (2 ^ 512 - 1)) (BitVec.ofNat 2048 c.bits)) 8)

/-- VSUMXC (R162), latency 8. -/
def execVsumxc (i : Bool) (d a : BitVec 5) (s : State) : Out :=
  perform (.vsumxc i d a) 0 s fun s => s.withV i a fun v s =>
    let (r, g) := (Cell.of v.toNat).toF32
    some ((s.landWhole i d .f32 allLanes 8 fun j => if j = 0 then r else 0).landFlags g 8)

/-! ### Meanings: VCVT and VRAND -/

/-- One conversion (R121, R163). -/
def convertLane (src dst : LaneType) (r : Round) (sat : Bool) (v : Nat) : LaneOut :=
  let x : FNum := match laneFmt src with
    | some f => f.value v
    | none => if src = .e8m0 then e8m0Value v else FNum.ofInt (laneInt src v)
  let fromInt := (laneFmt src).isNone && src != .e8m0
  match laneFmt dst with
  | some f => f.convert r sat x
  | none =>
    if dst = .e8m0 then toE8m0 r sat x
    else if fromInt then
      let i := laneInt src v
      plain (patternOf (laneW dst) (if sat then clamp (laneW dst) (laneSigned dst) i else i))
    else toInteger (laneW dst) (laneSigned dst) r x

/-- VCVT (R163), latency 3: the elements both types have; the higher destination lanes become zero whatever the mask. -/
def execVcvt (f : CvtOp) (s : State) : Out :=
  perform (.vcvt f) 0 s fun s => s.withV f.i f.a fun a s =>
    let k := s.readK f.k
    let n := min (laneN f.src) (laneN f.dst)
    let w := 2048 / n
    let q := s.me.v.get (s.homeV f.i f.a + 1)
    let at_ (j : Nat) : LaneOut := convertLane f.src f.dst ⟨f.rm, w, lane q w j⟩ f.sat (lane a (laneW f.src) j)
    let en : Mask := BitVec.ofNat 512 (k.toNat % 2 ^ n + (2 ^ 512 - 2 ^ n))
    some ((s.writeV f.i f.d f.dst en (laneVec (laneW f.dst) n k at_) 3).landFlags (laneFlags n k at_) 3)

/-- The output words of one counter group (R164). -/
def randGroup (v : Vec) (k0 k1 : Nat) (g : Nat) : List Word32 :=
  let c (j : Nat) : Word32 := BitVec.ofNat 32 (lane v 32 (4 * g + j))
  reel10 (c 0) (c 1) (c 2) (c 3) (BitVec.ofNat 32 k0) (BitVec.ofNat 32 k1)

/-- VRAND (R164), latency 8. -/
def execVrand (i : Bool) (k : BitVec 3) (d a b : BitVec 5) (s : State) : Out :=
  perform (.vrand i k d a b) 0 s fun s => s.withV i a fun v s => s.withV i b fun key s =>
    let l := (List.range 16).flatMap (randGroup v (lane key 32 0) (lane key 32 1))
    some (s.landWhole i d .n32 (s.readK k) 8 fun j => (l.getD j 0).toNat)

/-! ### Meanings: VMSK -/

/-- The low L bits of a mask operand. -/
def State.kBits (s : State) (k : BitVec 3) (t : LaneType) : Nat := (s.readK k).toNat % 2 ^ laneN t

/-- KAND (R165), latency 1. -/
def execKand (d a b : BitVec 3) (t : LaneType) (s : State) : Out :=
  perform (.kand d a b t) 0 s fun s => some (s.writeK d (laneN t) (s.kBits a t &&& s.kBits b t) 1)
/-- KOR (R165), latency 1. -/
def execKor (d a b : BitVec 3) (t : LaneType) (s : State) : Out :=
  perform (.kor d a b t) 0 s fun s => some (s.writeK d (laneN t) (s.kBits a t ||| s.kBits b t) 1)
/-- KXOR (R165), latency 1. -/
def execKxor (d a b : BitVec 3) (t : LaneType) (s : State) : Out :=
  perform (.kxor d a b t) 0 s fun s => some (s.writeK d (laneN t) (s.kBits a t ^^^ s.kBits b t) 1)
/-- KNOT (R165), latency 1. -/
def execKnot (d a : BitVec 3) (t : LaneType) (s : State) : Out :=
  perform (.knot d a t) 0 s fun s => some (s.writeK d (laneN t) (2 ^ laneN t - 1 - s.kBits a t) 1)
/-- KMOV (R165), latency 1. -/
def execKmov (d a : BitVec 3) (t : LaneType) (s : State) : Out :=
  perform (.kmov d a t) 0 s fun s => some (s.writeK d (laneN t) (s.kBits a t) 1)

/-- A count in 64-bit lane 0 and the predicate (R165). -/
def State.landCount (s : State) (i : Bool) (d : BitVec 5) (p : BitVec 4) (c : Nat) (any : Bool) : State :=
  (s.land (.v (s.homeV i d) (BitVec.allOnes 2048) (BitVec.ofNat 2048 c)) 1).land (.p (fin16 p) any) 1

/-- KPOPC (R165), latency 1. -/
def execKpopc (i : Bool) (d : BitVec 5) (a : BitVec 3) (p : BitVec 4) (t : LaneType) (s : State) : Out :=
  perform (.kpopc i d a p t) 0 s fun s => some (s.landCount i d p (popcount (s.kBits a t) (laneN t)) (s.kBits a t != 0))

/-- KFIRST (R165), latency 1. -/
def execKfirst (i : Bool) (d : BitVec 5) (a : BitVec 3) (p : BitVec 4) (t : LaneType) (s : State) : Out :=
  perform (.kfirst i d a p t) 0 s fun s => some (s.landCount i d p (ctzLane (s.kBits a t) 0 (laneN t)) (s.kBits a t != 0))

/-! ### Meanings: VMOVI and VEXT -/

/-- VMOVI (R166), latency 1. -/
def execVmovi (i : Bool) (k : BitVec 3) (d : BitVec 5) (imm : BitVec 10) (t : LaneType) (s : State) : Out :=
  perform (.vmovi i k d imm t) 0 s fun s => some (s.landWhole i d t (s.readK k) 1 fun _ => patternOf (laneW t) imm.toInt)

/-- VEXT (R167), latency 3: an x target that names a bound port takes the word at issue. -/
def execVext (i : Bool) (a l : BitVec 5) (dst : ExtDst) (s : State) : Out :=
  perform (.vext i a l dst) 0 s fun s => s.withV i a fun v s =>
    let w : Word := BitVec.ofNat 64 (lane v 64 l.toNat)
    match dst with
    | .x r => s.writeX i r w 3
    | .y r => some (s.land (.y (s.homeY i r) w) 3)
    | .m r => some (s.land (.m (fin16 r) w) 3)
    | .c r => some (s.land (.c (fin16 (rebase i r s.me.cb)) w) 3)

end Sys2Proof.Machine
end

