-- ==== Sys2Proof/Machine/Dispatch.lean ====
section
/-! DEFINITION. The dispatch: one arm for each row of the opcode table. -/

namespace Sys2Proof.Machine

def exec (i : Instr) (s : State) : Host.Outcome State Fault Refusal :=
  match i with
  | .nop g => Sys2Proof.Machine.execNop g s
  | .brk g n => Sys2Proof.Machine.execBrk g n s
  | .trap g n => Sys2Proof.Machine.execTrap g n s
  | .svc g n => Sys2Proof.Machine.execSvc g n s
  | .hcall g n => Sys2Proof.Machine.execHcall g n s
  | .eret g => Sys2Proof.Machine.execEret g s
  | .yield g => Sys2Proof.Machine.execYield g s
  | .susp g => Sys2Proof.Machine.execSusp g s
  | .done g => Sys2Proof.Machine.execDone g s
  | .mfs f => Sys2Proof.Machine.execMfs f s
  | .mts f => Sys2Proof.Machine.execMts f s
  | .add f => Sys2Proof.Machine.execAdd f s
  | .sub f => Sys2Proof.Machine.execSub f s
  | .and f => Sys2Proof.Machine.execAnd f s
  | .or f => Sys2Proof.Machine.execOr f s
  | .xor f => Sys2Proof.Machine.execXor f s
  | .andn f => Sys2Proof.Machine.execAndn f s
  | .orn f => Sys2Proof.Machine.execOrn f s
  | .shl f => Sys2Proof.Machine.execShl f s
  | .shr f => Sys2Proof.Machine.execShr f s
  | .sra f => Sys2Proof.Machine.execSra f s
  | .rotl f => Sys2Proof.Machine.execRotl f s
  | .min f => Sys2Proof.Machine.execMin f s
  | .max f => Sys2Proof.Machine.execMax f s
  | .minn f => Sys2Proof.Machine.execMinn f s
  | .maxn f => Sys2Proof.Machine.execMaxn f s
  | .absd f => Sys2Proof.Machine.execAbsd f s
  | .mul f => Sys2Proof.Machine.execMul f s
  | .mulh f => Sys2Proof.Machine.execMulh f s
  | .mulhn f => Sys2Proof.Machine.execMulhn f s
  | .div f => Sys2Proof.Machine.execDiv f s
  | .divn f => Sys2Proof.Machine.execDivn f s
  | .rem f => Sys2Proof.Machine.execRem f s
  | .remn f => Sys2Proof.Machine.execRemn f s
  | .clz f => Sys2Proof.Machine.execClz f s
  | .ctz f => Sys2Proof.Machine.execCtz f s
  | .popc f => Sys2Proof.Machine.execPopc f s
  | .brev f => Sys2Proof.Machine.execBrev f s
  | .bswap f => Sys2Proof.Machine.execBswap f s
  | .sextb f => Sys2Proof.Machine.execSextb f s
  | .sexth f => Sys2Proof.Machine.execSexth f s
  | .sextw f => Sys2Proof.Machine.execSextw f s
  | .zextw f => Sys2Proof.Machine.execZextw f s
  | .extr f => Sys2Proof.Machine.execExtr f s
  | .extrs f => Sys2Proof.Machine.execExtrs f s
  | .insr f => Sys2Proof.Machine.execInsr f s
  | .addi f => Sys2Proof.Machine.execAddi f s
  | .andi f => Sys2Proof.Machine.execAndi f s
  | .ori f => Sys2Proof.Machine.execOri f s
  | .xori f => Sys2Proof.Machine.execXori f s
  | .shli f => Sys2Proof.Machine.execShli f s
  | .shri f => Sys2Proof.Machine.execShri f s
  | .srai f => Sys2Proof.Machine.execSrai f s
  | .rotli f => Sys2Proof.Machine.execRotli f s
  | .movi f => Sys2Proof.Machine.execMovi f s
  | .movsh f => Sys2Proof.Machine.execMovsh f s
  | .cmp f => Sys2Proof.Machine.execCmp f s
  | .cmpi f => Sys2Proof.Machine.execCmpi f s
  | .pand f => Sys2Proof.Machine.execPand f s
  | .por f => Sys2Proof.Machine.execPor f s
  | .pxor f => Sys2Proof.Machine.execPxor f s
  | .pandn f => Sys2Proof.Machine.execPandn f s
  | .pnot f => Sys2Proof.Machine.execPnot f s
  | .pmov f => Sys2Proof.Machine.execPmov f s
  | .sel f => Sys2Proof.Machine.execSel f s
  | .br g disp => Sys2Proof.Machine.execBr g disp s
  | .call g disp => Sys2Proof.Machine.execCall g disp s
  | .jmpr f => Sys2Proof.Machine.execJmpr f s
  | .callr f => Sys2Proof.Machine.execCallr f s
  | .ret f => Sys2Proof.Machine.execRet f s
  | .loop g a disp => Sys2Proof.Machine.execLoop g a disp s
  | .xmov f => Sys2Proof.Machine.execXmov f s
  | .setib f => Sys2Proof.Machine.execSetib f s
  | .hset f => Sys2Proof.Machine.execHset f s
  | .gset f => Sys2Proof.Machine.execGset f s
  | .qwait g => Sys2Proof.Machine.execQwait g s
  | .jset f => Sys2Proof.Machine.execJset f s
  | .rflush g => Sys2Proof.Machine.execRflush g s
  | .rwait g => Sys2Proof.Machine.execRwait g s
  | .qmark f => Sys2Proof.Machine.execQmark f s
  | .qstat f => Sys2Proof.Machine.execQstat f s
  | .grpq f => Sys2Proof.Machine.execGrpq f s
  | .lstat f => Sys2Proof.Machine.execLstat f s
  | .pvpost f => Sys2Proof.Machine.execPvpost f s
  | .pvstash f => Sys2Proof.Machine.execPvstash f s
  | .pvtake f => Sys2Proof.Machine.execPvtake f s
  | .pvbub ib g d cause => Sys2Proof.Machine.execPvbub ib g d cause s
  | .pvstat ib g d => Sys2Proof.Machine.execPvstat ib g d s
  | .ld f => Sys2Proof.Machine.execLd f s
  | .st f => Sys2Proof.Machine.execSt f s
  | .ldx f => Sys2Proof.Machine.execLdx f s
  | .stx f => Sys2Proof.Machine.execStx f s
  | .yadd f => Sys2Proof.Machine.execYadd f s
  | .ysub f => Sys2Proof.Machine.execYsub f s
  | .yshl f => Sys2Proof.Machine.execYshl f s
  | .yshr f => Sys2Proof.Machine.execYshr f s
  | .yand f => Sys2Proof.Machine.execYand f s
  | .yaddi f => Sys2Proof.Machine.execYaddi f s
  | .atom f op => Sys2Proof.Machine.execAtom f op s
  | .aswp f => Sys2Proof.Machine.execAswp f s
  | .acas f => Sys2Proof.Machine.execAcas f s
  | .ald ib g d a ord dbl => Sys2Proof.Machine.execAld ib g d a ord dbl s
  | .ast ib g a b ord dbl => Sys2Proof.Machine.execAst ib g a b ord dbl s
  | .phase g scope => Sys2Proof.Machine.execPhase g scope s
  | .fence g kind => Sys2Proof.Machine.execFence g kind s
  | .pref f lvl => Sys2Proof.Machine.execPref f lvl s
  | .flsh f => Sys2Proof.Machine.execFlsh f s
  | .invl f both => Sys2Proof.Machine.execInvl f both s
  | .ymov f => Sys2Proof.Machine.execYmov f s
  | .vld f => Sys2Proof.Machine.execVld f s
  | .vst f => Sys2Proof.Machine.execVst f s
  | .vlds f b => Sys2Proof.Machine.execVlds f b s
  | .vsts f b => Sys2Proof.Machine.execVsts f b s
  | .vgath f b => Sys2Proof.Machine.execVgath f b s
  | .vscat f b => Sys2Proof.Machine.execVscat f b s
  | .mma f fmt => Sys2Proof.Machine.execMma f fmt s
  | .tzero g a => Sys2Proof.Machine.execTzero g a s
  | .tload f => Sys2Proof.Machine.execTload f s
  | .tstore f => Sys2Proof.Machine.execTstore f s
  | .ttrp f => Sys2Proof.Machine.execTtrp f s
  | .tadd f i32 => Sys2Proof.Machine.execTadd f i32 s
  | .twm g a b => Sys2Proof.Machine.execTwm g a b s
  | .twait g a b rows => Sys2Proof.Machine.execTwait g a b rows s
  | .tfence g => Sys2Proof.Machine.execTfence g s
  | .cpyMm f => Sys2Proof.Machine.execCpyMm f s
  | .cpyMr f => Sys2Proof.Machine.execCpyMr f s
  | .cpyMs f => Sys2Proof.Machine.execCpyMs f s
  | .cpySm f => Sys2Proof.Machine.execCpySm f s
  | .cpyr f op => Sys2Proof.Machine.execCpyr f op s
  | .subs f => Sys2Proof.Machine.execSubs f s
  | .subsCancel g ch => Sys2Proof.Machine.execSubsCancel g ch s
  | .drn f => Sys2Proof.Machine.execDrn f s
  | .wload f => Sys2Proof.Machine.execWload f s
  | .wloadZb32 f => Sys2Proof.Machine.execWloadZb32 f s
  | .cwait g ch => Sys2Proof.Machine.execCwait g ch s
  | .cwaitWm g a ch => Sys2Proof.Machine.execCwaitWm g a ch s
  | .cstat g a ch => Sys2Proof.Machine.execCstat g a ch s
  | .cstatWm g a ch => Sys2Proof.Machine.execCstatWm g a ch s
  | .cfixRetry g ch => Sys2Proof.Machine.execCfixRetry g ch s
  | .cfixSkip g ch => Sys2Proof.Machine.execCfixSkip g ch s
  | .cfixPatch g a ch => Sys2Proof.Machine.execCfixPatch g a ch s
  | .sld g d a off => Sys2Proof.Machine.execSld g d a off s
  | .ssetB g d v => Sys2Proof.Machine.execSsetB g d v s
  | .ssetSh g d a v => Sys2Proof.Machine.execSsetSh g d a v s
  | .smov g d a => Sys2Proof.Machine.execSmov g d a s
  | .vadd f => Sys2Proof.Machine.execVadd f s
  | .vsub f => Sys2Proof.Machine.execVsub f s
  | .vmul f => Sys2Proof.Machine.execVmul f s
  | .vfma f => Sys2Proof.Machine.execVfma f s
  | .vmin f => Sys2Proof.Machine.execVmin f s
  | .vmax f => Sys2Proof.Machine.execVmax f s
  | .vabsd f => Sys2Proof.Machine.execVabsd f s
  | .vdiv f => Sys2Proof.Machine.execVdiv f s
  | .vsqrt f => Sys2Proof.Machine.execVsqrt f s
  | .vexp2 f => Sys2Proof.Machine.execVexp2 f s
  | .vlog2 f => Sys2Proof.Machine.execVlog2 f s
  | .vneg f => Sys2Proof.Machine.execVneg f s
  | .vabs f => Sys2Proof.Machine.execVabs f s
  | .vscale f => Sys2Proof.Machine.execVscale f s
  | .vmulh f => Sys2Proof.Machine.execVmulh f s
  | .vadds f => Sys2Proof.Machine.execVadds f s
  | .vand f => Sys2Proof.Machine.execVand f s
  | .vor f => Sys2Proof.Machine.execVor f s
  | .vxor f => Sys2Proof.Machine.execVxor f s
  | .vandn f => Sys2Proof.Machine.execVandn f s
  | .vshl f => Sys2Proof.Machine.execVshl f s
  | .vshr f => Sys2Proof.Machine.execVshr f s
  | .vsra f => Sys2Proof.Machine.execVsra f s
  | .vrotl f => Sys2Proof.Machine.execVrotl f s
  | .vcmp f => Sys2Proof.Machine.execVcmp f s
  | .vperm f => Sys2Proof.Machine.execVperm f s
  | .vslide f down e => Sys2Proof.Machine.execVslide f down e s
  | .vbcast f lane => Sys2Proof.Machine.execVbcast f lane s
  | .viota ib k d t => Sys2Proof.Machine.execViota ib k d t s
  | .vcmpr f => Sys2Proof.Machine.execVcmpr f s
  | .vexpd f => Sys2Proof.Machine.execVexpd f s
  | .vzip f => Sys2Proof.Machine.execVzip f s
  | .vunzip f => Sys2Proof.Machine.execVunzip f s
  | .vclmul f => Sys2Proof.Machine.execVclmul f s
  | .vclmulh f => Sys2Proof.Machine.execVclmulh f s
  | .vpopc f => Sys2Proof.Machine.execVpopc f s
  | .vclz f => Sys2Proof.Machine.execVclz f s
  | .vctz f => Sys2Proof.Machine.execVctz f s
  | .vsel f => Sys2Proof.Machine.execVsel f s
  | .vmsb f => Sys2Proof.Machine.execVmsb f s
  | .vktov ib d a t => Sys2Proof.Machine.execVktov ib d a t s
  | .vredadd f => Sys2Proof.Machine.execVredadd f s
  | .vredmin f => Sys2Proof.Machine.execVredmin f s
  | .vredmax f => Sys2Proof.Machine.execVredmax f s
  | .vredand f => Sys2Proof.Machine.execVredand f s
  | .vredor f => Sys2Proof.Machine.execVredor f s
  | .vredxor f => Sys2Proof.Machine.execVredxor f s
  | .vsumx ib k d a => Sys2Proof.Machine.execVsumx ib k d a s
  | .vsumxc ib d a => Sys2Proof.Machine.execVsumxc ib d a s
  | .vcvt f => Sys2Proof.Machine.execVcvt f s
  | .vrand ib k d a b => Sys2Proof.Machine.execVrand ib k d a b s
  | .kand d a b t => Sys2Proof.Machine.execKand d a b t s
  | .kor d a b t => Sys2Proof.Machine.execKor d a b t s
  | .kxor d a b t => Sys2Proof.Machine.execKxor d a b t s
  | .knot d a t => Sys2Proof.Machine.execKnot d a t s
  | .kmov d a t => Sys2Proof.Machine.execKmov d a t s
  | .kpopc ib d a p t => Sys2Proof.Machine.execKpopc ib d a p t s
  | .kfirst ib d a p t => Sys2Proof.Machine.execKfirst ib d a p t s
  | .vmovi ib k d imm t => Sys2Proof.Machine.execVmovi ib k d imm t s
  | .vext ib a lane dst => Sys2Proof.Machine.execVext ib a lane dst s
  | .bnop rstart safe => Sys2Proof.Machine.execBnop rstart safe s
  | .asyncTrapEntry c => Sys2Proof.Machine.execAsyncTrapEntry c s
  | .loadReply tag r => Sys2Proof.Machine.execLoadReply tag r s
  | .storeProbeReply tag r => Sys2Proof.Machine.execStoreProbeReply tag r s
  | .atomicReply tag r => Sys2Proof.Machine.execAtomicReply tag r s
  | .interrupt => Sys2Proof.Machine.execInterrupt s
  | .issueQuotaSwitch => Sys2Proof.Machine.execIssueQuotaSwitch s
  | .evictionRequest c => Sys2Proof.Machine.execEvictionRequest c s
  | .evictionTimeout c => Sys2Proof.Machine.execEvictionTimeout c s
  | .strandStart c => Sys2Proof.Machine.execStrandStart c s
  | .resumeWrite v => Sys2Proof.Machine.execResumeWrite v s
  | .partitionWrite c second v => Sys2Proof.Machine.execPartitionWrite c second v s
  | .ringConfigWrite n v => Sys2Proof.Machine.execRingConfigWrite n v s
  | .ringSlotComplete n slot => Sys2Proof.Machine.execRingSlotComplete n slot s
  | .tileDispatch => Sys2Proof.Machine.execTileDispatch s
  | .tileRowFinal op => Sys2Proof.Machine.execTileRowFinal op s
  | .tileOpRetire op => Sys2Proof.Machine.execTileOpRetire op s
  | .copyRowComplete c ch row => Sys2Proof.Machine.execCopyRowComplete c ch row s
  | .copyFault c ch row kind addr off => Sys2Proof.Machine.execCopyFault c ch row kind addr off s
  | .subscriptionClaim c ch => Sys2Proof.Machine.execSubscriptionClaim c ch s
  | .drainSlotPop c ch => Sys2Proof.Machine.execDrainSlotPop c ch s
  | .decompressorGrant c ch => Sys2Proof.Machine.execDecompressorGrant c ch s
  | .icacheFill line => Sys2Proof.Machine.execIcacheFill line s
  | .cacheWriteback l2 asid addr => Sys2Proof.Machine.execCacheWriteback l2 asid addr s
  | .storeSector p => Sys2Proof.Machine.execStoreSector p s
  | .remoteAck die rows count serial => Sys2Proof.Machine.execRemoteAck die rows count serial s
  | .ackTimeout src => Sys2Proof.Machine.execAckTimeout src s
  | .atomicPerform p => Sys2Proof.Machine.execAtomicPerform p s
  | .remoteReadRequest p => Sys2Proof.Machine.execRemoteReadRequest p s
  | .remoteReadReply tag r => Sys2Proof.Machine.execRemoteReadReply tag r s
  | .copyRowSegment p => Sys2Proof.Machine.execCopyRowSegment p s
  | .hbmEccError pa fixed => Sys2Proof.Machine.execHbmEccError pa fixed s
  | .coreStorageError place idx fixed => Sys2Proof.Machine.execCoreStorageError place idx fixed s
  | .tlbInvalidate v => Sys2Proof.Machine.execTlbInvalidate v s
  | .tlbInvalidateDone => Sys2Proof.Machine.execTlbInvalidateDone s
  | .asidSweep v => Sys2Proof.Machine.execAsidSweep v s
  | .asidSweepDone => Sys2Proof.Machine.execAsidSweepDone s
  | .carveResize v => Sys2Proof.Machine.execCarveResize v s
  | .carveResizeDone => Sys2Proof.Machine.execCarveResizeDone s
  | .frameFree v => Sys2Proof.Machine.execFrameFree v s
  | .frameQuery v => Sys2Proof.Machine.execFrameQuery v s
  | .frameScrubDone frame => Sys2Proof.Machine.execFrameScrubDone frame s
  | .keyGenerate v => Sys2Proof.Machine.execKeyGenerate v s
  | .keyDestroy v => Sys2Proof.Machine.execKeyDestroy v s
  | .keyDestroyDone => Sys2Proof.Machine.execKeyDestroyDone s
  | .mapArm v => Sys2Proof.Machine.execMapArm v s
  | .mapWithdraw v => Sys2Proof.Machine.execMapWithdraw v s
  | .mapCommandDone => Sys2Proof.Machine.execMapCommandDone s
  | .mapRead v => Sys2Proof.Machine.execMapRead v s
  | .launchQueueConfig q v => Sys2Proof.Machine.execLaunchQueueConfig q v s
  | .queueAreaConfig v => Sys2Proof.Machine.execQueueAreaConfig v s
  | .queueRingSwap q out => Sys2Proof.Machine.execQueueRingSwap q out s
  | .launchWindowWrite vf off v => Sys2Proof.Machine.execLaunchWindowWrite vf off v s
  | .doorbell vf q v => Sys2Proof.Machine.execDoorbell vf q v s
  | .doorbellReset vf q v => Sys2Proof.Machine.execDoorbellReset vf q v s
  | .launchTake => Sys2Proof.Machine.execLaunchTake s
  | .launchStart => Sys2Proof.Machine.execLaunchStart s
  | .sublaunchCreate p => Sys2Proof.Machine.execSublaunchCreate p s
  | .sublaunchEnded id d status faults => Sys2Proof.Machine.execSublaunchEnded id d status faults s
  | .launchComplete id => Sys2Proof.Machine.execLaunchComplete id s
  | .launchRetire q => Sys2Proof.Machine.execLaunchRetire q s
  | .faultEntry e => Sys2Proof.Machine.execFaultEntry e s
  | .faultResume n => Sys2Proof.Machine.execFaultResume n s
  | .faultFail n => Sys2Proof.Machine.execFaultFail n s
  | .shootDown v => Sys2Proof.Machine.execShootDown v s
  | .shootDownRange v => Sys2Proof.Machine.execShootDownRange v s
  | .shootDownAck => Sys2Proof.Machine.execShootDownAck s
  | .functionLevelReset vf => Sys2Proof.Machine.execFunctionLevelReset vf s
  | .flrComplete vf => Sys2Proof.Machine.execFlrComplete vf s
  | .msiSignal v => Sys2Proof.Machine.execMsiSignal v s
  | .attestRequest fn v => Sys2Proof.Machine.execAttestRequest fn v s
  | .packageReset r => Sys2Proof.Machine.execPackageReset r s
  | .deviceReset => Sys2Proof.Machine.execDeviceReset s
  | .machineCheck cause unitId => Sys2Proof.Machine.execMachineCheck cause unitId s
  | .thermalThrottle lower => Sys2Proof.Machine.execThermalThrottle lower s
  | .marginRound => Sys2Proof.Machine.execMarginRound s
  | .engineMarginTest e pass => Sys2Proof.Machine.execEngineMarginTest e pass s
  | .bitmapInstall => Sys2Proof.Machine.execBitmapInstall s
  | .bankMarginTest b pass => Sys2Proof.Machine.execBankMarginTest b pass s
  | .bankDemotionApply b => Sys2Proof.Machine.execBankDemotionApply b s
  | .channelMarginTest ch pass => Sys2Proof.Machine.execChannelMarginTest ch pass s
  | .channelRetire ch => Sys2Proof.Machine.execChannelRetire ch s
  | .prismTranslate lrec code => Sys2Proof.Machine.execPrismTranslate lrec code s
  | .pavaneTableLoad v => Sys2Proof.Machine.execPavaneTableLoad v s
  | .pavaneDisable v => Sys2Proof.Machine.execPavaneDisable v s
  | .pavaneHeadEval => Sys2Proof.Machine.execPavaneHeadEval s
  | .pavaneOutput p => Sys2Proof.Machine.execPavaneOutput p s
  | .pavaneCredit up => Sys2Proof.Machine.execPavaneCredit up s
  | .portBindWrite c n v => Sys2Proof.Machine.execPortBindWrite c n v s
  | .portMessageArrive p => Sys2Proof.Machine.execPortMessageArrive p s
  | .portCredit c n words => Sys2Proof.Machine.execPortCredit c n words s
  | .groupLoad v => Sys2Proof.Machine.execGroupLoad v s
  | .darkSet => Sys2Proof.Machine.execDarkSet s
  | .darkClear => Sys2Proof.Machine.execDarkClear s
  | .jobCounterClear job => Sys2Proof.Machine.execJobCounterClear job s
  | .quietWaveStart job => Sys2Proof.Machine.execQuietWaveStart job s
  | .quietWaveVisit p => Sys2Proof.Machine.execQuietWaveVisit p s
  | .quietDeclaration p => Sys2Proof.Machine.execQuietDeclaration p s
  | .jsetArrive job bits => Sys2Proof.Machine.execJsetArrive job bits s
  | .markerArrive job link => Sys2Proof.Machine.execMarkerArrive job link s
  | .linkFlitReceive link flit => Sys2Proof.Machine.execLinkFlitReceive link flit s
  | .replayRequest link seq => Sys2Proof.Machine.execReplayRequest link seq s
  | .wavelengthDead link fibre wave => Sys2Proof.Machine.execWavelengthDead link fibre wave s
  | .linkRelock link => Sys2Proof.Machine.execLinkRelock link s
  | .relockDone link locked => Sys2Proof.Machine.execRelockDone link locked s
  | .registerWrite by_ num v => Sys2Proof.Machine.execRegisterWrite by_ num v s
  | .illegalInstruction slot sub word => Sys2Proof.Machine.execIllegalInstruction slot sub word s
  | .illegalBundle slot sub word => Sys2Proof.Machine.execIllegalBundle slot sub word s
  | .fetchBoundTrap sub word addr => Sys2Proof.Machine.execFetchBoundTrap sub word addr s
  | .noRouteReachesMember fid => Sys2Proof.Machine.execNoRouteReachesMember fid s
  | .acknowledgementRequest src => Sys2Proof.Machine.execAcknowledgementRequest src s

end Sys2Proof.Machine
end

