-- ==== Sys2Proof/Machine/Issue.lean ====
section
/-! DEFINITION. Issue: the detection order of R52, the slots of a bundle, its commit (R56, R61, R87, R90), and the contexts of
the core in their order (R133). -/

namespace Sys2Proof.Machine

/-! ### Performed words -/

/-- The guard field of an instruction word; vector words, the empty bundle and events have none (R45). -/
def guardOf (i : Instr) : BitVec 4 :=
  match i with
  | .nop g | .eret g | .yield g | .susp g | .done g | .qwait g | .rflush g | .rwait g | .tfence g => g
  | .brk g _ | .trap g _ | .svc g _ | .hcall g _ | .br g _ | .call g _ | .phase g _ | .fence g _ | .tzero g _ | .subsCancel g _
  | .cwait g _ | .cfixRetry g _ | .cfixSkip g _ => g
  | .mfs f | .mts f | .add f | .sub f | .and f | .or f | .xor f | .andn f | .orn f | .shl f | .shr f | .sra f | .rotl f | .min f
  | .max f | .minn f | .maxn f | .absd f | .mul f | .mulh f | .mulhn f | .div f | .divn f | .rem f | .remn f | .clz f | .ctz f
  | .popc f | .brev f | .bswap f | .sextb f | .sexth f | .sextw f | .zextw f | .extr f | .extrs f | .insr f | .addi f | .andi f
  | .ori f | .xori f | .shli f | .shri f | .srai f | .rotli f | .movi f | .movsh f | .cmp f | .cmpi f | .pand f | .por f | .pxor f
  | .pandn f | .pnot f | .pmov f | .sel f | .jmpr f | .callr f | .ret f | .xmov f | .setib f | .hset f | .gset f | .jset f
  | .qmark f | .qstat f | .grpq f | .lstat f | .pvpost f | .pvstash f | .pvtake f | .ld f | .st f | .ldx f | .stx f | .yadd f
  | .ysub f | .yshl f | .yshr f | .yand f | .yaddi f | .aswp f | .acas f | .flsh f | .ymov f | .vld f | .vst f | .tload f
  | .tstore f | .ttrp f | .cpyMm f | .cpyMr f | .cpyMs f | .cpySm f | .subs f | .drn f | .wload f | .wloadZb32 f => f.g
  | .loop g _ _ | .twm g _ _ | .cwaitWm g _ _ | .cstat g _ _ | .cstatWm g _ _ | .cfixPatch g _ _ | .ssetB g _ _ | .smov g _ _ => g
  | .pvbub _ g _ _ => g
  | .pvstat _ g _ => g
  | .atom f _ | .pref f _ | .invl f _ | .vlds f _ | .vsts f _ | .vgath f _ | .vscat f _ | .mma f _ | .tadd f _ | .cpyr f _ => f.g
  | .ald _ g _ _ _ _ | .ast _ g _ _ _ _ => g
  | .twait g _ _ _ | .sld g _ _ _ | .ssetSh g _ _ _ => g
  | _ => 0

/-- A control transfer (R87). -/
def isTransfer (i : Instr) : Bool := match i with | .br _ _ | .call _ _ | .jmpr _ | .callr _ | .ret _ => true | _ => false

/-- The register of the M file that an XMOV writes, and that a TWM writes. -/
def xmovM (i : Instr) : Option (BitVec 4) := match i with | .xmov f => (match f.dst with | .m d => some d | _ => none) | _ => none
def twmM (i : Instr) : Option (BitVec 4) := match i with | .twm _ d _ => some d | _ => none

/-- The words that act after their bundle has committed: their guard was read with it. -/
def lateForm (i : Instr) : Option Instr :=
  match i with
  | .phase _ sc => some (.phase 0 sc)
  | .yield _ => some (.yield 0)
  | .susp _ => some (.susp 0)
  | .done _ => some (.done 0)
  | .eret _ => some (.eret 0)
  | _ => none

/-- The state in which a word of the bundle runs. -/
def State.atWord (s : State) (p : Placed) : State := { s with issue := { s.issue with at_ := p.at_, word := BitVec.ofNat 32 p.w, slot := p.slot } }

/-- The first word, in slot order, that fails a check of one kind (R52 step 4). -/
def firstFail (chk : Instr → State → Option TrapRec) (s : State) (ps : List Placed) : Option TrapRec :=
  match ps with
  | [] => none
  | p :: r => if s.me.getP (guardOf p.i) then (chk p.i (s.atWord p)).orElse fun _ => firstFail chk s r else firstFail chk s r

/-- The software traps of R52 step 5 (R72). -/
def softCheck (i : Instr) (s : State) : Option TrapRec :=
  match i with
  | .brk _ n => some (s.softRec 6 n)
  | .trap _ n => some (s.softRec 7 n)
  | .svc _ n => some (s.softRec 8 n)
  | .hcall _ n => some (s.softRec 9 n)
  | _ => none

/-- The trap of steps 4 and 5 of R52: each kind of check over the performed words in slot order, one kind after the other. -/
def bundleTrap (s : State) (ps : List Placed) : Option TrapRec :=
  (firstFail useCheck s ps).orElse fun _ => (firstFail privCheck s ps).orElse fun _ => (firstFail featCheck s ps).orElse fun _ =>
    firstFail softCheck s ps

/-- How a trial of issue ends. -/
inductive Trial | held | out (o : Out)

/-- Perform the words of a bundle in slot order; a hold undoes all, a trap or fault ends the bundle. -/
def runWords (s : State) (ps : List Placed) : Trial :=
  match ps with
  | [] => .out (.next s)
  | p :: r =>
    match exec p.i (s.atWord p) with
    | .next t => match t.verdict with
      | .ok => runWords t r
      | .held => .held
      | .trapped => .out (.next t)
    | o => .out o

/-! ### Commit -/

/-- The results of a portable word land with it where none of them waits for another die: the next word sees them (R41). -/
def Ctx.landPortable (x : Ctx) : Ctx := if !x.nat && dueReady x.flight then x.approach else x

/-- Commit in a context (R56, R87, R90): the context cycle counts, the loops step, the pc moves. `pending` is the transfer that
was pending before the bundle. A PHASE at the END of an active loop takes effect after the loop step, so that START follows it (log 90). -/
def Ctx.commit (x : Ctx) (own : Bool) (pending : Option Xfer) (a next : Word) : Ctx :=
  let x := (x.landPortable).count own
  let fresh := if x.hm then x.hxfer else x.xfer
  let (lv, st) := loopStep x.levels a 2
  let seq := st.getD next
  let pc := match pending with
    | some t => t.target
    | none => if x.nat then seq else match fresh with | some t => t.target | none => seq
  let keep := if pending.isSome ∨ x.nat = false then none else fresh
  if x.hm then { x with pc := pc, hxfer := keep, hloops := lv }
  else { x with pc := pc, xfer := keep, loops := lv, first := false, lastPc := pcWord a x.nat }

/-- The word of the bundle that acts after the commit runs on the committed state. -/
def runLate (s : State) (ps : List Placed) : Out :=
  match ps with
  | [] => .next s
  | p :: r =>
    match lateForm p.i with
    | none => runLate s r
    | some i => match exec i (s.atWord p) with
      | .next t => if t.verdict = .ok then runLate t r else .next t
      | o => o

/-- The m register that an XMOV and a TWM among the performed words both name (R389). -/
def xmovTwm (ps : List Placed) : Option (BitVec 4) := (ps.filterMap fun p => xmovM p.i).find? fun d => ps.any fun q => twmM q.i == some d

/-- Erratum PLD-E001 on stepping A0 (R389): among the results that a bundle adds to `n` earlier ones, the XMOV's value of register `d`, the first to it
in slot order, lands last. -/
def Ctx.xmovLast (x : Ctx) (n : Nat) (d : BitVec 4) : Ctx :=
  let new := x.flight.drop n
  let toD (p : Pend) : Bool := match p.w with | .m r _ => r == fin16 d | _ => false
  match new.find? toD with
  | some p => x.setFlight (x.flight.take n ++ (new.erase p ++ [p]))
  | none => x

/-- The context cycle of the next bundle begins in the context in issue: what is due lands before the bundle reads (R56, R59); a portable word
waits for every result (R41). -/
def State.begin (s : State) : State := s.modMe fun x => if x.nat then x.approach else x.drain

/-- Issue a decoded bundle in the context in issue (R52, R61). A bundle that traps has not issued: its trap is taken in the state before its
context cycle began, whose latches keep their offsets (R59, R64). -/
def State.issueBundle (s : State) (b : Bundle) : Trial :=
  let c := s.core.cur
  let x := s.begin.me
  let performed := b.words.filter fun p => x.getP (guardOf p.i)
  let s := { s with issue := { s.issue with addr := x.pc, next := b.next, hasXfer := x.nat && performed.any (fun p => isTransfer p.i), tags := s.tags } }
  match bundleTrap s.begin b.words with
  | some t => .out (.next (s.takeTrap t))
  | none =>
    let pending := if x.hm then x.hxfer else x.xfer
    match runWords s.begin (b.words.filter fun p => (lateForm p.i).isNone) with
    | .held => .held
    | .out (.next t) =>
      if t.verdict = .trapped then .out (.next t)
      else
        let t := match (if s.pk.step = (0 : Byte) then xmovTwm performed else none) with
          | some d => t.modCtx c fun y => y.xmovLast x.flight.length d
          | none => t
        let t := t.modCtx c fun x => x.commit (c == svc) pending x.pc t.issue.next
        .out (runLate t (performed.filter fun p => (lateForm p.i).isSome))
    | .out o => .out o

/-- The issue record of a bundle or word that fails before its words are known. -/
def Issue.failed (pc next : Word) : Issue := ⟨pc, next, pc, 0, 7, false, 0⟩

/-- Try to issue in a context. -/
def State.tryIssue (s : State) (c : Fin 5) : Trial :=
  let s : State := { s with core := { s.core with cur := c }, verdict := .ok }
  let x := s.ctx c
  if x.nat then
    if !dueReady x.flight then .held
    else
      match s.nativeBundle c x.pc.toNat (x.first && !x.hm && x.pc == x.ckpt.rpc) with
      | (.error t, s) =>
        let (next, s) := s.bundleAfter c x.pc
        .out (.next (({ s with issue := Issue.failed x.pc next } : State).takeTrap t))
      | (.ok b, s) => s.issueBundle b
  else if !x.allReady then .held
  else
    match s.portableWord c x.pc.toNat with
    | (.error t, s) => .out (.next (({ s with issue := Issue.failed x.pc (x.pc + 4) } : State).takeTrap t))
    | (.ok b, s) => s.issueBundle b

/-! ### The contexts of the core -/

/-- The context has something to run: a strand, or the service context its handler or its own program (R133, R134; log 16). -/
def State.active (s : State) (c : Fin 5) : Bool := if c = svc then (s.ctx c).hm || s.core.svcRun else (s.ctx c).strand.isSome

/-- The state in which a context has gone through such of its waits as are over. -/
def State.afterWaits (s : State) (c : Fin 5) : State := if (s.ctx c).waits.isEmpty then s else s.pump c 8

/-- The waits of a context are over, though the selector has not come to it yet. -/
def State.waitsOver (s : State) (c : Fin 5) : Bool :=
  let t := s.afterWaits c
  !(s.ctx c).waits.isEmpty && t.active c && (t.ctx c).waits.isEmpty

/-- The context could issue now but for something it lacks (R57, R132). -/
def State.dataHeld (s : State) (c : Fin 5) : Bool :=
  let t := s.afterWaits c
  t.active c && !(t.ctx c).svcHeld && (t.ctx c).waits.isEmpty && (match t.tryIssue c with | .held => true | .out _ => false)

/-- What the selector sees of every context in this core cycle: its hold on data, the end of its waits (R132). -/
def State.look (s : State) : State :=
  { s with core := { s.core with ctxs := Vector.ofFn fun c => { s.ctx c with onData := s.dataHeld c, waitOver := s.waitsOver c } } }

/-- A context other than `c` is ready to issue (R33). -/
def State.othersReady (s : State) (c : Fin 5) : Bool :=
  (List.finRange 5).any fun d =>
    let x := s.ctx d
    d != c && s.active d && !x.svcHeld && (x.waits.isEmpty || x.waitOver) && !x.onData

/-- A bundle of context `c` has issued: it counts toward the quota where another context was ready (R33). -/
def State.counted (s0 s : State) (c : Fin 5) : State :=
  s.modCtx c fun x => { x with quota := x.quota + b2n (s0.othersReady c) }

/-- A context that waits for nothing issues, or takes the asynchronous trap that is next, a precise trap of its bundle before it (R64); none
where it is held. -/
def State.issueIn (s : State) (c : Fin 5) : Option Out :=
  let x := s.ctx c
  let t := s.tryIssue c
  if !x.hm && s.asyncHeld c then none
  else if !x.hm && !x.asyncs.isEmpty then
    match t with
    | .out (.next s') => if s'.verdict = .trapped ∧ ((s'.ctx c).hm ∨ (s'.ctx c).svcHeld) then some (.next s') else some (.next (s.takeAsync c))
    | _ => some (.next (s.takeAsync c))
  else match t with
    | .held => none
    | .out (.next s') => some (.next (if s'.verdict = .ok then s.counted s' c else s'))
    | .out o => some o

/-- A region-abort fault that an engine found waits for the close of a region whose stores have been published: it then falls in the region that
follows (R26; log 110). -/
def Ctx.takesBoundary (x : Ctx) : Bool :=
  match x.waits with
  | .close _ _ :: _ => !x.buf.isEmpty
  | .leave _ :: _ => false
  | _ => true

/-- Such a fault is taken (R26, R29, R230): after DONE has closed its region nothing is left to restart, and the strand faults (log 110). -/
def State.boundaryFault (s : State) (c : Fin 5) (a : AbortInfo) : State :=
  let t := s.modCtx c fun x => { x with boundary := none }
  match (s.ctx c).waits with
  | .finish :: _ => t.faultLast c 1 a.addr
  | _ => t.regionFault c a

/-- What a context does when the selector looks at it: none where it does nothing now. A context whose waits are over issues in the same core
cycle (R133). -/
def State.attend (s : State) (c : Fin 5) : Option Out :=
  let x := s.ctx c
  if !s.active c || x.svcHeld then none
  else match (if x.takesBoundary then x.boundary else none) with
  | some a => some (.next (s.boundaryFault c a))
  | none =>
    if x.waits.isEmpty then s.issueIn c
    else if !x.hm && !x.leaving && !x.asyncs.isEmpty && !s.asyncHeld c then some (.next (s.takeAsync c))
    else match s.pumpOne c with
      | none => none
      | some t => if (t.ctx c).waits.isEmpty && t.active c && (t.ctx c).boundary.isNone then some ((t.issueIn c).getD (.next t)) else some (.next t)

/-- The contexts in the cyclic order of R133, the service context after context 3; after 4096 bundles the context in issue comes last (R33).
While the service context serves an interrupt, or must end its own handler before it takes one, it alone issues (R133). -/
def State.order (s : State) : List (Fin 5) :=
  if s.core.serving || s.core.irq then [svc]
  else
    let k := if 4096 ≤ (s.ctx s.core.cur).quota then s.core.cur.val + 1 else s.core.cur.val
    (List.range 5).map fun i => ⟨(k + i) % 5, Nat.mod_lt _ (by omega)⟩

/-- A context that another follows starts a new count of bundles. -/
def State.switched (s0 s : State) (c : Fin 5) : State := if s0.core.cur = c then s else s.modCtx s0.core.cur fun x => { x with quota := 0 }

/-- The first context that does something. -/
def State.select (s : State) (l : List (Fin 5)) : Option Out :=
  match l with
  | [] => none
  | c :: r => match s.attend c with
    | some (.next t) => some (.next (s.switched ({ t with core := { t.core with cur := if t.core.cur = s.core.cur then c else t.core.cur } } : State) c))
    | some o => some o
    | none => State.select s r

/-- A core cycle of the die passes. A Lantern cycle spans 18 of them at the nominal clock, fewer at a lowered one (R306, R319). A round of
margin tests starts PERIOD × 2^24 Lantern cycles after the one before it, or once that has ended (R310). At the end of a Lantern cycle Lantern recomputes
PK_SVC and answers requests (R313, R318). The Pavane unit evaluates its head in every cycle (R325), and the
selector sees which contexts are held on data (R132). -/
def State.cycle (s : State) : State :=
  let n := s.dl.dcyc.toNat
  let k := 18 * s.pk.clock
  let beat := (n + 1) * 16 / k != n * 16 / k
  let s := { s with dl := { s.dl with dcyc := s.dl.dcyc + 1 },
                    pk := { s.pk with lcyc := if beat then s.pk.lcyc + 1 else s.pk.lcyc } }
  let round := beat && s.pk.marginEn && !s.pk.roundOn && s.pk.stage == 6 && decide (s.pk.roundAt + s.pk.period.toNat * 2 ^ 24 ≤ s.pk.lcyc.toNat)
  let s := if round then s.later .marginRound else s
  let s := if beat then s.lanternTurn.linkTurn else s
  s.headEval.look

end Sys2Proof.Machine
end

