-- ==== Sys2Proof/Machine/Events.lean ====
section
/-! DEFINITION. The events of the agenda, which run by the same meanings as their rows of the opcode table, and the order in which the units
of the die make progress (log 40). -/

namespace Sys2Proof.Machine

/-- Take an event: the meaning of its row. -/
def runEvent (e : Event) (s : State) : Out :=
  match e with
  | .asyncTrapEntry c => execAsyncTrapEntry c s
  | .loadReply tag r => execLoadReply tag r s
  | .storeProbeReply tag r => execStoreProbeReply tag r s
  | .atomicReply tag r => execAtomicReply tag r s
  | .interrupt => execInterrupt s
  | .issueQuotaSwitch => execIssueQuotaSwitch s
  | .evictionRequest c => execEvictionRequest c s
  | .evictionTimeout c => execEvictionTimeout c s
  | .strandStart c => execStrandStart c s
  | .resumeWrite v => execResumeWrite v s
  | .partitionWrite c second v => execPartitionWrite c second v s
  | .ringConfigWrite n v => execRingConfigWrite n v s
  | .ringSlotComplete n slot => execRingSlotComplete n slot s
  | .tileDispatch => execTileDispatch s
  | .tileRowFinal op => execTileRowFinal op s
  | .tileOpRetire op => execTileOpRetire op s
  | .copyRowComplete c ch row => execCopyRowComplete c ch row s
  | .copyFault c ch row kind addr off => execCopyFault c ch row kind addr off s
  | .subscriptionClaim c ch => execSubscriptionClaim c ch s
  | .drainSlotPop c ch => execDrainSlotPop c ch s
  | .decompressorGrant c ch => execDecompressorGrant c ch s
  | .icacheFill line => execIcacheFill line s
  | .cacheWriteback l2 asid addr => execCacheWriteback l2 asid addr s
  | .storeSector p => execStoreSector p s
  | .remoteAck die rows count serial => execRemoteAck die rows count serial s
  | .ackTimeout src => execAckTimeout src s
  | .atomicPerform p => execAtomicPerform p s
  | .remoteReadRequest p => execRemoteReadRequest p s
  | .remoteReadReply tag r => execRemoteReadReply tag r s
  | .copyRowSegment p => execCopyRowSegment p s
  | .hbmEccError pa fixed => execHbmEccError pa fixed s
  | .coreStorageError place idx fixed => execCoreStorageError place idx fixed s
  | .tlbInvalidate v => execTlbInvalidate v s
  | .tlbInvalidateDone => execTlbInvalidateDone s
  | .asidSweep v => execAsidSweep v s
  | .asidSweepDone => execAsidSweepDone s
  | .carveResize v => execCarveResize v s
  | .carveResizeDone => execCarveResizeDone s
  | .frameFree v => execFrameFree v s
  | .frameQuery v => execFrameQuery v s
  | .frameScrubDone frame => execFrameScrubDone frame s
  | .keyGenerate v => execKeyGenerate v s
  | .keyDestroy v => execKeyDestroy v s
  | .keyDestroyDone => execKeyDestroyDone s
  | .mapArm v => execMapArm v s
  | .mapWithdraw v => execMapWithdraw v s
  | .mapCommandDone => execMapCommandDone s
  | .mapRead v => execMapRead v s
  | .launchQueueConfig q v => execLaunchQueueConfig q v s
  | .queueAreaConfig v => execQueueAreaConfig v s
  | .queueRingSwap q out => execQueueRingSwap q out s
  | .launchWindowWrite vf off v => execLaunchWindowWrite vf off v s
  | .doorbell vf q v => execDoorbell vf q v s
  | .doorbellReset vf q v => execDoorbellReset vf q v s
  | .launchTake => execLaunchTake s
  | .launchStart => execLaunchStart s
  | .sublaunchCreate p => execSublaunchCreate p s
  | .sublaunchEnded id d status faults => execSublaunchEnded id d status faults s
  | .launchComplete id => execLaunchComplete id s
  | .launchRetire q => execLaunchRetire q s
  | .faultEntry e => execFaultEntry e s
  | .faultResume n => execFaultResume n s
  | .faultFail n => execFaultFail n s
  | .shootDown v => execShootDown v s
  | .shootDownRange v => execShootDownRange v s
  | .shootDownAck => execShootDownAck s
  | .functionLevelReset vf => execFunctionLevelReset vf s
  | .flrComplete vf => execFlrComplete vf s
  | .msiSignal v => execMsiSignal v s
  | .attestRequest fn v => execAttestRequest fn v s
  | .packageReset r => execPackageReset r s
  | .bootNext => execBootNext s
  | .elsewhere u => .next (s.stepElse u)
  | .deviceReset => execDeviceReset s
  | .machineCheck cause unitId => execMachineCheck cause unitId s
  | .thermalThrottle lower => execThermalThrottle lower s
  | .marginRound => execMarginRound s
  | .engineMarginTest e pass => execEngineMarginTest e pass s
  | .bitmapInstall => execBitmapInstall s
  | .bankMarginTest b pass => execBankMarginTest b pass s
  | .bankDemotionApply b => execBankDemotionApply b s
  | .channelMarginTest ch pass => execChannelMarginTest ch pass s
  | .channelRetire ch => execChannelRetire ch s
  | .prismTranslate lrec code => execPrismTranslate lrec code s
  | .pavaneTableLoad v => execPavaneTableLoad v s
  | .pavaneDisable v => execPavaneDisable v s
  | .pavaneHeadEval => execPavaneHeadEval s
  | .pavaneOutput p => execPavaneOutput p s
  | .pavaneCredit up => execPavaneCredit up s
  | .portBindWrite c n v => execPortBindWrite c n v s
  | .portMessageArrive p => execPortMessageArrive p s
  | .portCredit c n words => execPortCredit c n words s
  | .groupLoad v => execGroupLoad v s
  | .darkSet => execDarkSet s
  | .darkClear => execDarkClear s
  | .jobCounterClear job => execJobCounterClear job s
  | .quietWaveStart job => execQuietWaveStart job s
  | .quietWaveVisit p => execQuietWaveVisit p s
  | .quietDeclaration p => execQuietDeclaration p s
  | .jsetArrive job bits => execJsetArrive job bits s
  | .markerArrive job link => execMarkerArrive job link s
  | .linkFlitReceive link flit => execLinkFlitReceive link flit s
  | .replayRequest link seq => execReplayRequest link seq s
  | .wavelengthDead link fibre wave => execWavelengthDead link fibre wave s
  | .linkRelock link => execLinkRelock link s
  | .relockDone link locked => execRelockDone link locked s
  | .registerWrite by_ num v => execRegisterWrite by_ num v s
  | .illegalInstruction slot sub word => execIllegalInstruction slot sub word s
  | .illegalBundle slot sub word => execIllegalBundle slot sub word s
  | .fetchBoundTrap sub word addr => execFetchBoundTrap sub word addr s
  | .noRouteReachesMember fid => execNoRouteReachesMember fid s
  | .acknowledgementRequest src => execAcknowledgementRequest src s

/-- The start of a queued strand: of the records that an idle context can take, the first in the order of R34, in the lowest context that can
take it (log 40). -/
def State.startEvents (s : State) : List Event :=
  let all := (List.finRange 4).filterMap fun c => (s.nextRecord c).map fun q => (c, q)
  let best := all.foldl (fun (b : Option (Fin 4 × QRec)) e => match b with
    | none => some e
    | some b => if s.startsBefore e.2 b.2 then some e else some b) none
  (best.map fun e => Event.strandStart e.1).toList

/-- The evictions of a context that fall due (R31). -/
def State.strandEvents (s : State) (c : Fin 4) : List Event :=
  (if s.evictionDue c then [.evictionRequest c] else []) ++ (if s.evictionOver c then [.evictionTimeout c] else [])

/-- Another channel that waits for a slot of the same ring claims before this one (R143). -/
def State.outranked (s : State) (c : Fin 4) (ch : Fin 8) : Bool :=
  (s.chan c ch).wantsSlot && (match s.chanRing c (s.chan c ch) with
    | some n => (s.wanting n).head? != some (c, ch)
    | none => false)

/-- What a copy channel that is not idle does next (R170, R177, R178, R212). -/
def State.channelEvents (s : State) (c : Fin 4) (ch : Fin 8) : List Event :=
  let x := s.chan c ch
  if x.state = .idle ∨ x.state = .stopped ∨ s.outranked c ch = true then []
  else if x.op = .subs then [.subscriptionClaim c ch]
  else if x.op = .drn then [.drainSlotPop c ch]
  else if x.op.isWload then (if s.grantDue = some (c, ch) then [.decompressorGrant c ch] else [])
  else [.copyRowComplete c ch x.complete]

/-- The channels of the core. -/
def State.allChannelEvents (s : State) : List Event := (List.finRange 4).flatMap fun c => (List.finRange 8).flatMap fun ch => s.channelEvents c ch

/-- What the dispatcher and the tile operations do next (R199, R200, R223). -/
def State.tileEvents (s : State) : List Event :=
  (if s.core.ops.any TileRec.waiting then [.tileDispatch] else []) ++
    ((s.core.ops.filter s.opReady).map fun o => .tileRowFinal o.id) ++
    ((s.core.ops.filter fun o => !o.placeholder && decide (o.count ≤ o.row)).map fun o => .tileOpRetire o.id)

/-- What the sequencer does next (R289, R292, R293, R303). -/
def State.launchEvents (s : State) : List Event :=
  (if s.nextQueue.isSome then [.launchTake] else []) ++ (s.heldDue.map Event.sublaunchCreate).toList ++
    (if (s.dl.pool.any s.dl.depFailed) || s.startable.isSome then [.launchStart] else []) ++
    ((s.dl.pool.filter fun l => l.state == .running && l.open_.isEmpty).map fun l => .launchComplete l.id) ++
    (((s.dl.pool.map (·.queueNo)).eraseDups.filter fun q => (s.dl.retiring q).isSome).map fun q => .launchRetire (BitVec.ofNat 9 q)) ++
    ((s.dl.vfs.filter fun e => e.2.flr).map fun e => .flrComplete (BitVec.ofNat 6 e.1))

/-- What the memory side of the die does next (R247, R248, R251, R254, R256, R259, R261). -/
def State.memoryEvents (s : State) : List Event :=
  (if s.dm.tlbDone then [] else [.tlbInvalidateDone]) ++ (if s.dm.sweepDone then [] else [.asidSweepDone]) ++
    (if s.dm.carveBusy then [.carveResizeDone] else []) ++ (if s.dm.mapBusy then [.mapCommandDone] else []) ++
    (if s.dm.keyDone then [] else [.keyDestroyDone]) ++ (s.dm.scrub.map fun f => .frameScrubDone (BitVec.ofNat 21 f)) ++
    (((List.range 64).filter fun c => decide (s.dm.chanState c = 3) && !s.dm.maps c).map fun c => .channelRetire (BitVec.ofNat 6 c))

/-- Installations, demotions and tests that fall due (R138, R202, R310). -/
def State.marginEvents (s : State) : List Event :=
  (if s.installDue.isSome then [.bitmapInstall] else []) ++ (((List.finRange 24).filter s.demotionDue).map .bankDemotionApply) ++ s.testEvents

/-- The waves and acknowledgements that fall due (R272, R349). -/
def State.fabricEvents (s : State) : List Event :=
  (if s.isLeader then (s.listedJobs.filter s.waveDue).map .quietWaveStart else []) ++
    ((s.fi.rstreams.filter fun e => decide (e.1 < 2 ^ 20) && s.ackDue e.2).map fun e =>
      .ackTimeout ⟨BitVec.ofNat 12 (e.1 / 128), BitVec.ofNat 4 (e.1 / 8), BitVec.ofNat 3 e.1, 0, 0⟩)

/-- Every event that may fall due now. Right after reset Lantern boots the package, stage by stage (R309). -/
def State.dueEvents (s : State) : List Event :=
  if s.pk.stage = 0 then [.packageReset ⟨0, [], s.pk.firmware⟩]
  else if s.booting then (if s.bootOwes then s.testEvents else [.bootNext])
  else s.startEvents ++ (List.finRange 4).flatMap s.strandEvents ++ s.allChannelEvents ++ s.tileEvents ++ s.launchEvents ++ s.memoryEvents ++ s.marginEvents ++
    s.fabricEvents

/-- Take an event if it changes anything. -/
def State.tryEvent (s : State) (e : Event) : Option Out :=
  match runEvent e s with
  | .next t => if t = s then none else some (.next t)
  | o => some o

/-- One event that falls due: the first that changes anything, from a place in the list that moves with the die cycle (log 40). -/
def State.progress (s : State) : Option Out :=
  let l := s.dueEvents
  let k := s.dl.dcyc.toNat / 2 % (if l.length = 0 then 1 else l.length)
  (l.drop k ++ l.take k).findSome? s.tryEvent

/-! ### A step -/

/-- The first outcome of two. -/
def firstOut (a b : Option Out) (s : State) : Out := match a with | some o => o | none => match b with | some o => o | none => .next s

/-- A core cycle: in even ones a context issues, or the units make progress; in odd ones the other way about, after a packet has gone
out. Where nothing happens the cycle passes (log 40). What an event before it restored coincides with this cycle alone (R390; log 41). -/
def State.turn (s : State) : Out :=
  let t := s.cycle
  let o := if s.dl.dcyc.toNat % 2 = 0 then firstOut (t.select t.order) t.progress t
    else
      let t := t.transmit.getD t
      firstOut t.progress (t.select t.order) t
  match o with
  | .next t => .next (t.modCore fun k => { k with restored := [] })
  | o => o

/-- An event passes without effect: a package that a machine check has halted does nothing but record a second one, and ignores what the host writes, until
package reset (R314); after a failed boot the physical function has BAR0 alone, which takes a replacement image (R309). -/
def State.deaf (s : State) (e : Event) : Bool :=
  match e with
  | .packageReset _ => false
  | .machineCheck _ _ => false
  | .registerWrite .hyper _ _ => s.pk.halted.isSome
  | _ => s.pk.halted.isSome || s.pk.fail != 0

/-- The next thing the machine does: the first event of the agenda; else a pending interrupt (R133); else a core cycle. -/
def State.advance (s : State) : Out :=
  match s.agenda with
  | e :: r => if s.deaf e then .next { s with agenda := r } else runEvent e { s with agenda := r }
  | [] =>
    if s.pk.halted.isSome then .fault .halted
    else if s.core.irq && !(s.ctx svc).hm then execInterrupt s
    else s.turn

/-! ### Placing a word (log 4) -/

/-- Where a word is placed: the base of the code arena. -/
def placeAt : Nat := 0x8100000000

/-- A strand of the hypervisor's tenant. -/
def Strand.plain : Strand := ⟨0, 0, 0, 0, recordBase, 0, 0, 0, 0, 0, false, none, .kernel, recordBase⟩

/-- A context about to issue at `placeAt`. -/
def Ctx.placed (x : Ctx) (native : Bool) : Ctx :=
  { x with pc := BitVec.ofNat 64 placeAt, nat := native, hm := false, svcHeld := false, waits := [], boundary := none, asyncs := [],
           pend := [], xfer := none, quota := 0, first := false, strand := some (x.strand.getD Strand.plain) }

/-- The machine with a word, and zeros after it, in the code arena, where context 0 issues next: a strand runs after boot, in stage 6 (R309). -/
def State.placeWord (s : State) (w : Nat) : State :=
  let code : Word := if fieldOf s.dm.code 47 40 = 0 then BitVec.ofNat 64 (2 ^ 40 + 0x1000) else s.dm.code
  let s := s.modDm fun d => { d with code := code }
  let s := s.devWrite (fieldOf code 23 0 * 2 ^ 16) (wordBytes (w % 2 ^ 32) ++ List.replicate 24 0)
  let s := s.modCtx 0 fun x => x.placed (opOf (w % 2 ^ 32) == 0x3F)
  let s := s.modCtx svc fun x => { x with hm := false }
  { s with core := { s.core with cur := 0, irq := false, serving := false, arenaBase := s.core.arenaBase.set 0 (BitVec.ofNat 64 placeAt),
                                 arenaBound := s.core.arenaBound.set 0 (BitVec.ofNat 64 (placeAt + 256)),
                                 icache := eraseAt s.core.icache (placeAt / 256) }
           dl := { s.dl with dcyc := s.dl.dcyc - BitVec.ofNat 64 (s.dl.dcyc.toNat % 2) }
           pk := { s.pk with halted := none, stage := 6 }
           agenda := [] }

end Sys2Proof.Machine
end

