-- ==== Sys2Proof/Machine/Step.lean ====
section
/-! DEFINITION. The step, and the placing of a word where it is fetched next (log 4). -/

namespace Sys2Proof.Machine

/-- One step: an event of the agenda, a pending interrupt, or a core cycle (log 5). -/
def step : State → Host.Outcome State Fault Refusal := State.advance

/-- The state with a word stored where `step` fetches next: in the code arena, at the pc of context 0, which holds a strand. -/
def State.withFetchWord (s : State) (nbits w : Nat) : State := s.placeWord (w % 2 ^ nbits)

end Sys2Proof.Machine
end

