-- ==== Sys2Proof/Safety.lean ====
section
/-! DEFINITION. What counts as a safe run: the machine goes on, and its storage keeps one canonical form. -/

namespace Sys2Proof.Machine

/-- The machine answers a next state. -/
def State.Goes (s : State) : Prop := ∃ t, step s = .next t

/-- A machine check has halted the package: only a package reset at the head of the agenda runs (R314). -/
def State.Halted (s : State) : Prop := s.pk.halted.isSome = true

/-- `n` steps from a state, each of them answering a next state. -/
def State.SafeRun : Nat → State → Prop
  | 0, _ => True
  | n + 1, s => ∃ t, step s = .next t ∧ State.SafeRun n t

/-- Every store of the machine is in its canonical form: the memory of the die, the scratchpad, the weight buffer and the accumulators of the
core. -/
def State.Inv (s : State) : Prop :=
  Memory.wf s.dm.mem = true ∧ Memory.wf s.core.spad = true ∧ Memory.wf s.core.wbuf = true ∧ SMap.wf (0 : Word32) s.core.acc = true

end Sys2Proof.Machine
end

