-- ==== Sys2Proof/Certificates/Slice0/Obligations.lean ====
section
/-! DEFINITION. The statements for the provers, each about every state unless it says otherwise. `Stated` holds the words they
share; a result is written in the numbers of its rule, not by the model's own operations. -/

open Sys2Proof Sys2Proof.Machine

namespace Sys2Proof.Stated

/-! ### Shared words -/

/-- The number of a pattern read as a signed number of 64 bits. -/
def sval (w : Word) : Int := if w.toNat < 2 ^ 63 then (w.toNat : Int) else (w.toNat : Int) - 2 ^ 64
/-- The pattern of an exact number, modulo 2^64. -/
def word (i : Int) : Word := BitVec.ofInt 64 i
/-- The pattern of a natural number, modulo 2^64. -/
def nword (n : Nat) : Word := BitVec.ofNat 64 n
/-- A value of `n` bits as a signed number. -/
def snum (n v : Nat) : Int := if v < 2 ^ (n - 1) then (v : Int) else (v : Int) - 2 ^ n

/-- Everything but the results in flight, the ports, the rings and the verdict is as before: every register that has landed, every
flag, every special register, every accumulator, every store of bytes, every other context. -/
def OnlyFlight (s t : State) : Prop :=
  t = { s with core := { s.core with ctxs := t.core.ctxs, rings := t.core.rings }, verdict := t.verdict } ∧
  (∀ c, c ≠ s.core.cur → t.ctx c = s.ctx c) ∧
  t.me = { s.me with pend := t.me.pend, hpend := t.me.hpend, ports := t.me.ports }

/-- A result of the context in issue joins the results in flight: `lat` context cycles away in native code, the next one in
portable code. -/
def landed (s : State) (w : Write) (lat : Nat) : State :=
  let p : Pend := ⟨0, if s.me.nat then lat else 1, w, []⟩
  s.setCtx s.core.cur (if s.me.hm then { s.me with hpend := s.me.hpend ++ [p] } else { s.me with pend := s.me.pend ++ [p] })

/-- A word of a bundle runs after another, and none of them traps or holds. -/
def Runs : State → List Placed → State → Prop
  | s, [], t => t = s
  | s, p :: r, t => ∃ u, exec p.i (s.atWord p) = .next u ∧ u.verdict = .ok ∧ Runs u r t

/-- The number of the slot that owns a word (R35, R62). -/
def slotNum (w : Nat) : Nat := match slotOf (opOf w) with | some sl => sl.num | none => 7

/-- The machine is about to issue in the context it issued in last: no event, no interrupt taken or pending, an even die cycle, a strand that waits
for nothing, no trap pending. -/
def AboutToIssue (s : State) : Prop :=
  s.agenda = [] ∧ s.pk.halted = none ∧ s.core.irq = false ∧ s.core.serving = false ∧ s.dl.dcyc.toNat % 2 = 0 ∧ s.core.cur ≠ svc ∧ (s.ctx svc).hm = false ∧
  s.me.quota < 4096 ∧ s.me.strand.isSome = true ∧ s.me.svcHeld = false ∧ s.me.boundary = none ∧ s.me.waits = [] ∧ s.me.asyncs = []

/-- The bundle that ran from `u` to `t` in the core cycle of `s` has committed (R56, R87, R90): one context cycle passes, the loops step, the pc moves;
the bundle counts where another context was ready (R33). -/
def committed (s u t : State) : State :=
  (s.cycle.counted (t.modCtx s.core.cur fun x => x.commit false (if u.me.hm then u.me.hxfer else u.me.xfer) x.pc t.issue.next) s.core.cur).modCore
    fun k => { k with restored := [] }

end Sys2Proof.Stated

open Sys2Proof.Stated

/-! ### Encoding and decoding -/

/-- The decoder reads back every word that the encoder writes: no bit of an encoding is dropped (R43, R50). -/
def Obligations.DecodeOfEncode : Prop :=
  ∀ (i : Instr) (w : Word32), i.wellFormed = true → encode i = some w → decodeAny w.toNat = some i

/-- The worked encodings of spec/03 decode to the instructions they stand for. -/
def Obligations.WorkedEncodingsDecode : Prop :=
  decodeAny 0x10030840 = some (.mul ⟨false, 0, 3, 1, 1⟩) ∧
  decodeAny 0xC0038158 = some (.vadd ⟨false, 0, 1, 24, 2, .f32⟩) ∧
  decodeAny 0x24010FFF = some (.addi ⟨false, 0, 1, 1, 0x7FF⟩) ∧
  decodeAny 0x44044200 = some (.cmpi ⟨0, 1, .ne, 1, 0⟩) ∧
  decodeHeader 0xFE820000 = ⟨[.x, .v], true, false⟩ ∧
  decodeAny 0xFC010000 = some (.bnop false true) ∧
  decodeBytes [0x40, 0x08, 0x03, 0x10, 0x58] = some (.mul ⟨false, 0, 3, 1, 1⟩, [0x58])

/-- Every word that decodes is the encoding of what it decodes to, which is well formed: every bit that no instruction gives a meaning is zero (R44). A reserved op and a function
code past the last of XSYS, XALU, XMUL, XBIT, CMP, PLOG, JREG, FAB, PAV, YALU, MEMC, VMEM and VCMP decode to nothing, whatever the other bits (R50). -/
def Obligations.OnlyEncodingsDecode : Prop :=
  (∀ (w : Nat) (i : Instr), w < 2 ^ 32 → decodeAny w = some i → i.wellFormed = true ∧ encode i = some (BitVec.ofNat 32 w)) ∧
  (∀ w < 2 ^ 32,
     (w / 2 ^ 26 = 0x1E ∨ w / 2 ^ 26 = 0x1F ∨ w / 2 ^ 26 = 0x2B ∨ (0x3C ≤ w / 2 ^ 26 ∧ w / 2 ^ 26 ≤ 0x3E) ∨
       (w / 2 ^ 26 = 0x00 ∧ 9 ≤ w % 64) ∨ (w / 2 ^ 26 = 0x03 ∧ 16 ≤ w % 64) ∨ (w / 2 ^ 26 = 0x04 ∧ 7 ≤ w % 64) ∨
       (w / 2 ^ 26 = 0x05 ∧ 9 ≤ w % 64) ∨ (w / 2 ^ 26 = 0x10 ∧ 7 ≤ w % 64) ∨ (w / 2 ^ 26 = 0x12 ∧ 6 ≤ w % 64) ∨
       (w / 2 ^ 26 = 0x16 ∧ 3 ≤ w % 64) ∨ (w / 2 ^ 26 = 0x1C ∧ 8 ≤ w % 64) ∨ (w / 2 ^ 26 = 0x1D ∧ 5 ≤ w % 64) ∨
       (w / 2 ^ 26 = 0x24 ∧ 5 ≤ w % 64) ∨ (w / 2 ^ 26 = 0x28 ∧ 5 ≤ w % 64) ∨ (w / 2 ^ 26 = 0x2A ∧ 6 ≤ w % 8) ∨
       (w / 2 ^ 26 = 0x33 ∧ w % 8 = 7)) →
     decodeAny w = none)

/-! ### Reset and the invariant -/

/-- What the tables of R54, R55, R62, R131, R242, R306, R339 and R359 state of a device reset (the registers for which they give a value); that the links are down then is log 1, and the reset of a system register whose table gives none is not stated here. -/
def Obligations.ResetValues : Prop :=
  let s := State.reset
  (∀ c : Fin 5, (s.ctx c).xb = 0 ∧ (s.ctx c).yb = 0 ∧ (s.ctx c).vb = 0 ∧ (s.ctx c).cb = 0 ∧ (s.ctx c).fflags = 0 ∧ (s.ctx c).hm = false ∧
    (s.ctx c).strand = none ∧ (s.ctx c).view = 0) ∧
  (∀ c : Fin 5, (s.ctx c).getX 0 = 0 ∧ (s.ctx c).getY 0 = 0 ∧ (s.ctx c).getP 0 = true ∧ (s.ctx c).getK 0 = BitVec.allOnes 512) ∧
  s.core.coreErr = 0 ∧ s.core.svcEn = false ∧ (∀ n : Fin 32, (s.ring n).en = false) ∧
  s.dm.asidt = 0 ∧ s.dm.tlbDone = true ∧ s.dm.sweepDone = true ∧ s.dm.carveWays = 0 ∧ s.dm.carveBusy = false ∧ s.dm.keyDone = true ∧
  s.pk.stage = 0 ∧ s.pk.seq = 0 ∧ s.fi.dark = false ∧ s.fi.table = none ∧ s.fi.qwint = 16384 ∧
  (∀ n : Fin 16, (s.fi.links.get n).state = .down)

/-- The reset state meets the invariant that every step keeps. -/
def Obligations.ResetMeetsInvariant : Prop := State.reset.Inv

/-- Every step keeps the canonical form of the die's memory, the scratchpad and the weight buffer. -/
def Obligations.StepKeepsInvariant : Prop := ∀ s t : State, s.Inv → step s = .next t → t.Inv

/-! ### The step -/

/-- What a step does before it issues. Every row is an instruction word that has an encoding, or an event: an event at the head of the agenda runs by the meaning of its row (the agenda is the model's, log 5).
A halted package stops every step but a package reset (R314). A pending interrupt is taken before the next bundle (R133). -/
def Obligations.EventsGoFirst : Prop :=
  (∀ i : Instr, (∃ w, encode i = some w) ∨ (∃ e : Event, ∀ s, exec i s = runEvent e s)) ∧
  ((∀ (s : State) (e : Event) (r : List Event), s.agenda = e :: r →
     (s.pk.halted = none ∧ s.pk.fail = 0 ∨ (∃ b, e = .packageReset b) ∨ (∃ cause u, e = .machineCheck cause u) ∨
       (∃ n v, e = .registerWrite .hyper n v ∧ s.pk.halted = none)) → step s = runEvent e { s with agenda := r }) ∧
   (∀ c s, runEvent (.asyncTrapEntry c) s = exec (.asyncTrapEntry c) s) ∧
   (∀ tag r s, runEvent (.loadReply tag r) s = exec (.loadReply tag r) s) ∧
   (∀ tag r s, runEvent (.storeProbeReply tag r) s = exec (.storeProbeReply tag r) s) ∧
   (∀ tag r s, runEvent (.atomicReply tag r) s = exec (.atomicReply tag r) s) ∧
   (∀ s, runEvent (.interrupt) s = exec (.interrupt) s) ∧
   (∀ s, runEvent (.issueQuotaSwitch) s = exec (.issueQuotaSwitch) s) ∧
   (∀ c s, runEvent (.evictionRequest c) s = exec (.evictionRequest c) s) ∧
   (∀ c s, runEvent (.evictionTimeout c) s = exec (.evictionTimeout c) s) ∧
   (∀ c s, runEvent (.strandStart c) s = exec (.strandStart c) s) ∧
   (∀ v s, runEvent (.resumeWrite v) s = exec (.resumeWrite v) s) ∧
   (∀ c second v s, runEvent (.partitionWrite c second v) s = exec (.partitionWrite c second v) s) ∧
   (∀ n v s, runEvent (.ringConfigWrite n v) s = exec (.ringConfigWrite n v) s) ∧
   (∀ n slot s, runEvent (.ringSlotComplete n slot) s = exec (.ringSlotComplete n slot) s) ∧
   (∀ s, runEvent (.tileDispatch) s = exec (.tileDispatch) s) ∧
   (∀ op s, runEvent (.tileRowFinal op) s = exec (.tileRowFinal op) s) ∧
   (∀ op s, runEvent (.tileOpRetire op) s = exec (.tileOpRetire op) s) ∧
   (∀ c ch row s, runEvent (.copyRowComplete c ch row) s = exec (.copyRowComplete c ch row) s) ∧
   (∀ c ch row kind addr off s, runEvent (.copyFault c ch row kind addr off) s = exec (.copyFault c ch row kind addr off) s) ∧
   (∀ c ch s, runEvent (.subscriptionClaim c ch) s = exec (.subscriptionClaim c ch) s) ∧
   (∀ c ch s, runEvent (.drainSlotPop c ch) s = exec (.drainSlotPop c ch) s) ∧
   (∀ c ch s, runEvent (.decompressorGrant c ch) s = exec (.decompressorGrant c ch) s) ∧
   (∀ line s, runEvent (.icacheFill line) s = exec (.icacheFill line) s) ∧
   (∀ l2 asid addr s, runEvent (.cacheWriteback l2 asid addr) s = exec (.cacheWriteback l2 asid addr) s) ∧
   (∀ p s, runEvent (.storeSector p) s = exec (.storeSector p) s) ∧
   (∀ die rows count serial s, runEvent (.remoteAck die rows count serial) s = exec (.remoteAck die rows count serial) s) ∧
   (∀ src s, runEvent (.ackTimeout src) s = exec (.ackTimeout src) s) ∧
   (∀ p s, runEvent (.atomicPerform p) s = exec (.atomicPerform p) s) ∧
   (∀ p s, runEvent (.remoteReadRequest p) s = exec (.remoteReadRequest p) s) ∧
   (∀ tag r s, runEvent (.remoteReadReply tag r) s = exec (.remoteReadReply tag r) s) ∧
   (∀ p s, runEvent (.copyRowSegment p) s = exec (.copyRowSegment p) s) ∧
   (∀ pa fixed s, runEvent (.hbmEccError pa fixed) s = exec (.hbmEccError pa fixed) s) ∧
   (∀ place idx fixed s, runEvent (.coreStorageError place idx fixed) s = exec (.coreStorageError place idx fixed) s) ∧
   (∀ v s, runEvent (.tlbInvalidate v) s = exec (.tlbInvalidate v) s) ∧
   (∀ s, runEvent (.tlbInvalidateDone) s = exec (.tlbInvalidateDone) s) ∧
   (∀ v s, runEvent (.asidSweep v) s = exec (.asidSweep v) s) ∧
   (∀ s, runEvent (.asidSweepDone) s = exec (.asidSweepDone) s) ∧
   (∀ v s, runEvent (.carveResize v) s = exec (.carveResize v) s) ∧
   (∀ s, runEvent (.carveResizeDone) s = exec (.carveResizeDone) s) ∧
   (∀ v s, runEvent (.frameFree v) s = exec (.frameFree v) s) ∧
   (∀ v s, runEvent (.frameQuery v) s = exec (.frameQuery v) s) ∧
   (∀ frame s, runEvent (.frameScrubDone frame) s = exec (.frameScrubDone frame) s) ∧
   (∀ v s, runEvent (.keyGenerate v) s = exec (.keyGenerate v) s) ∧
   (∀ v s, runEvent (.keyDestroy v) s = exec (.keyDestroy v) s) ∧
   (∀ s, runEvent (.keyDestroyDone) s = exec (.keyDestroyDone) s) ∧
   (∀ v s, runEvent (.mapArm v) s = exec (.mapArm v) s) ∧
   (∀ v s, runEvent (.mapWithdraw v) s = exec (.mapWithdraw v) s) ∧
   (∀ s, runEvent (.mapCommandDone) s = exec (.mapCommandDone) s) ∧
   (∀ v s, runEvent (.mapRead v) s = exec (.mapRead v) s) ∧
   (∀ q v s, runEvent (.launchQueueConfig q v) s = exec (.launchQueueConfig q v) s) ∧
   (∀ v s, runEvent (.queueAreaConfig v) s = exec (.queueAreaConfig v) s) ∧
   (∀ q out s, runEvent (.queueRingSwap q out) s = exec (.queueRingSwap q out) s) ∧
   (∀ vf off v s, runEvent (.launchWindowWrite vf off v) s = exec (.launchWindowWrite vf off v) s) ∧
   (∀ vf q v s, runEvent (.doorbell vf q v) s = exec (.doorbell vf q v) s) ∧
   (∀ vf q v s, runEvent (.doorbellReset vf q v) s = exec (.doorbellReset vf q v) s) ∧
   (∀ s, runEvent (.launchTake) s = exec (.launchTake) s) ∧
   (∀ s, runEvent (.launchStart) s = exec (.launchStart) s) ∧
   (∀ p s, runEvent (.sublaunchCreate p) s = exec (.sublaunchCreate p) s) ∧
   (∀ id d status faults s, runEvent (.sublaunchEnded id d status faults) s = exec (.sublaunchEnded id d status faults) s) ∧
   (∀ id s, runEvent (.launchComplete id) s = exec (.launchComplete id) s) ∧
   (∀ q s, runEvent (.launchRetire q) s = exec (.launchRetire q) s) ∧
   (∀ e s, runEvent (.faultEntry e) s = exec (.faultEntry e) s) ∧
   (∀ n s, runEvent (.faultResume n) s = exec (.faultResume n) s) ∧
   (∀ n s, runEvent (.faultFail n) s = exec (.faultFail n) s) ∧
   (∀ v s, runEvent (.shootDown v) s = exec (.shootDown v) s) ∧
   (∀ v s, runEvent (.shootDownRange v) s = exec (.shootDownRange v) s) ∧
   (∀ s, runEvent (.shootDownAck) s = exec (.shootDownAck) s) ∧
   (∀ vf s, runEvent (.functionLevelReset vf) s = exec (.functionLevelReset vf) s) ∧
   (∀ vf s, runEvent (.flrComplete vf) s = exec (.flrComplete vf) s) ∧
   (∀ v s, runEvent (.msiSignal v) s = exec (.msiSignal v) s) ∧
   (∀ fn v s, runEvent (.attestRequest fn v) s = exec (.attestRequest fn v) s) ∧
   (∀ r s, runEvent (.packageReset r) s = exec (.packageReset r) s) ∧
   (∀ s, runEvent (.deviceReset) s = exec (.deviceReset) s) ∧
   (∀ cause unitId s, runEvent (.machineCheck cause unitId) s = exec (.machineCheck cause unitId) s) ∧
   (∀ lower s, runEvent (.thermalThrottle lower) s = exec (.thermalThrottle lower) s) ∧
   (∀ s, runEvent (.marginRound) s = exec (.marginRound) s) ∧
   (∀ e pass s, runEvent (.engineMarginTest e pass) s = exec (.engineMarginTest e pass) s) ∧
   (∀ s, runEvent .bitmapInstall s = exec .bitmapInstall s) ∧
   (∀ b pass s, runEvent (.bankMarginTest b pass) s = exec (.bankMarginTest b pass) s) ∧
   (∀ b s, runEvent (.bankDemotionApply b) s = exec (.bankDemotionApply b) s) ∧
   (∀ ch pass s, runEvent (.channelMarginTest ch pass) s = exec (.channelMarginTest ch pass) s) ∧
   (∀ ch s, runEvent (.channelRetire ch) s = exec (.channelRetire ch) s) ∧
   (∀ lrec code s, runEvent (.prismTranslate lrec code) s = exec (.prismTranslate lrec code) s) ∧
   (∀ v s, runEvent (.pavaneTableLoad v) s = exec (.pavaneTableLoad v) s) ∧
   (∀ v s, runEvent (.pavaneDisable v) s = exec (.pavaneDisable v) s) ∧
   (∀ s, runEvent (.pavaneHeadEval) s = exec (.pavaneHeadEval) s) ∧
   (∀ p s, runEvent (.pavaneOutput p) s = exec (.pavaneOutput p) s) ∧
   (∀ up s, runEvent (.pavaneCredit up) s = exec (.pavaneCredit up) s) ∧
   (∀ c n v s, runEvent (.portBindWrite c n v) s = exec (.portBindWrite c n v) s) ∧
   (∀ p s, runEvent (.portMessageArrive p) s = exec (.portMessageArrive p) s) ∧
   (∀ c n words s, runEvent (.portCredit c n words) s = exec (.portCredit c n words) s) ∧
   (∀ v s, runEvent (.groupLoad v) s = exec (.groupLoad v) s) ∧
   (∀ s, runEvent (.darkSet) s = exec (.darkSet) s) ∧
   (∀ s, runEvent (.darkClear) s = exec (.darkClear) s) ∧
   (∀ job s, runEvent (.jobCounterClear job) s = exec (.jobCounterClear job) s) ∧
   (∀ job s, runEvent (.quietWaveStart job) s = exec (.quietWaveStart job) s) ∧
   (∀ p s, runEvent (.quietWaveVisit p) s = exec (.quietWaveVisit p) s) ∧
   (∀ p s, runEvent (.quietDeclaration p) s = exec (.quietDeclaration p) s) ∧
   (∀ job bits s, runEvent (.jsetArrive job bits) s = exec (.jsetArrive job bits) s) ∧
   (∀ job link s, runEvent (.markerArrive job link) s = exec (.markerArrive job link) s) ∧
   (∀ link flit s, runEvent (.linkFlitReceive link flit) s = exec (.linkFlitReceive link flit) s) ∧
   (∀ link seq s, runEvent (.replayRequest link seq) s = exec (.replayRequest link seq) s) ∧
   (∀ link fibre wave s, runEvent (.wavelengthDead link fibre wave) s = exec (.wavelengthDead link fibre wave) s) ∧
   (∀ link s, runEvent (.linkRelock link) s = exec (.linkRelock link) s) ∧
   (∀ link locked s, runEvent (.relockDone link locked) s = exec (.relockDone link locked) s) ∧
   (∀ by_ num v s, runEvent (.registerWrite by_ num v) s = exec (.registerWrite by_ num v) s) ∧
   (∀ slot sub word s, runEvent (.illegalInstruction slot sub word) s = exec (.illegalInstruction slot sub word) s) ∧
   (∀ slot sub word s, runEvent (.illegalBundle slot sub word) s = exec (.illegalBundle slot sub word) s) ∧
   (∀ sub word addr s, runEvent (.fetchBoundTrap sub word addr) s = exec (.fetchBoundTrap sub word addr) s) ∧
   (∀ fid s, runEvent (.noRouteReachesMember fid) s = exec (.noRouteReachesMember fid) s) ∧
   (∀ src s, runEvent (.acknowledgementRequest src) s = exec (.acknowledgementRequest src) s)) ∧
  ((∀ (s : State) (n : Byte), s.pk.halted = some n → s.agenda = [] → step s = .fault .halted) ∧
   (∀ (s : State) (e : Event) (r : List Event), s.agenda = e :: r → (∀ b, e ≠ .packageReset b) → (∀ cause u, e ≠ .machineCheck cause u) →
     s.pk.halted ≠ none ∨ (s.pk.fail ≠ 0 ∧ ∀ n v, e ≠ .registerWrite .hyper n v) → step s = .next { s with agenda := r })) ∧
  (∀ s : State, s.agenda = [] → s.pk.halted = none → s.core.irq = true → (s.ctx svc).hm = false →
     step s = exec .interrupt s)

/-- A step runs the word at the pc. In portable code: when the word fetched there decodes to an instruction that passes its checks and does
not act after its commit, the step is `exec` of it at that state, in a new core cycle with every earlier result landed, and then the commit: one context
cycle passes, the loops step, the pc moves. -/
def Obligations.StepRunsPortableWord : Prop :=
  ∀ (s u t : State) (i : Instr) (w : Nat),
    AboutToIssue s → s.me.nat = false → s.me.allReady = true →
    (let s1 : State := { s.cycle with verdict := .ok }
     s1.fetchable s.core.cur s.me.pc.toNat = true ∧ s1.fetch s.me.pc.toNat = (w, u)) →
    decode w = .ok i → lateForm i = none →
    (let u1 : State := ({ u with issue := ⟨s.me.pc, BitVec.ofNat 64 (s.me.pc.toNat + 4), BitVec.ofNat 64 s.me.pc.toNat, BitVec.ofNat 32 w,
       slotNum w, false, u.tags⟩ } : State).modMe Ctx.drain
     (u1.me.getP (guardOf i) = false ∨ (slotCheck i u1 = none ∧ softCheck i u1 = none)) ∧ exec i u1 = .next t) →
    t.verdict = .ok →
    step s = .next (committed s u t)

/-- A step runs the bundle at the pc. In native code: when the words there make a bundle, every performed word of it passes its checks and none of them acts
after the commit, the words run in slot order at that state, with the results that are due landed, and then the bundle commits. (On stepping A0 the order of
results has an erratum, R389.) -/
def Obligations.StepRunsNativeBundle : Prop :=
  ∀ (s u t : State) (b : Bundle),
    AboutToIssue s → s.me.nat = true → dueReady s.me.flight = true → s.pk.step ≠ 0 →
    ({ s.cycle with verdict := .ok } : State).nativeBundle s.core.cur s.me.pc.toNat (s.me.first && !s.me.hm && s.me.pc == s.me.ckpt.rpc) = (.ok b, u) →
    (∀ p ∈ b.words, lateForm p.i = none) →
    (let x := u.me.approach
     let u1 : State := ({ u with issue := ⟨s.me.pc, b.next, u.issue.at_, u.issue.word, u.issue.slot,
       b.words.any fun p => x.getP (guardOf p.i) && isTransfer p.i, u.tags⟩ } : State).modMe Ctx.approach
     (∀ p ∈ b.words, u1.me.getP (guardOf p.i) = true → slotCheck p.i (u1.atWord p) = none ∧ softCheck p.i (u1.atWord p) = none) ∧
       Runs u1 b.words t) →
    t.verdict = .ok →
    step s = .next (committed s u t)


/-! ### Guards, operands, landing -/

namespace Sys2Proof.Stated

/-- The number of the register that a field names in a file of `size` registers (R46). -/
def index (size : Nat) (i : Bool) (raw base : Nat) : Nat := if i then (raw + base) % size else raw
/-- Where register `n` of the X or Y file stands: in handler mode 26 to 31 stand in the handler bank (R65). -/
def homeOf (hm : Bool) (n : Nat) : Fin 38 := Fin.ofNat 38 (if hm = true ∧ 26 ≤ n then n + 6 else n)
def homeX (s : State) (i : Bool) (raw : BitVec 5) : Fin 38 := homeOf s.me.hm (index 32 i raw.toNat s.me.xb.toNat)
def homeY (s : State) (i : Bool) (raw : BitVec 5) : Fin 38 := homeOf s.me.hm (index 32 i raw.toNat s.me.yb.toNat)
/-- The value of a Y operand: y0 reads zero. -/
def valY (s : State) (i : Bool) (raw : BitVec 5) : Word :=
  if index 32 i raw.toNat s.me.yb.toNat = 0 then 0 else s.me.y.get (homeY s i raw)
/-- The value of a predicate: p0 reads true. -/
def valP (s : State) (r : BitVec 4) : Bool := if r.toNat = 0 then true else s.me.p.get ⟨r.toNat, r.isLt⟩
/-- The X field names the port q(raw − 16): a plain field in user mode whose port is bound (R46, R47, R65). -/
def NamesPort (s : State) (i : Bool) (raw : BitVec 5) (n : Fin 16) : Prop :=
  i = false ∧ s.me.hm = false ∧ raw.toNat = n.val + 16 ∧ (s.me.ports.get n).bound = true

end Sys2Proof.Stated

/-- When the guard is false, the instruction is not performed: an instruction word then changes nothing, whatever it is (R45). -/
def Obligations.FalseGuardChangesNothing : Prop :=
  ∀ (i : Instr) (s : State), valP s (guardOf i) = false → exec i s = .next s

/-- A result that lands changes its own register and nothing else; a write to x0, y0, k0 or p0 is discarded (R54), flags are ORed in (R55), a base
takes its low bits (R92), a field write leaves the other fields of its register. -/
def Obligations.LandingChangesOnlyItsRegister : Prop :=
  ∀ c : Ctx,
    (∀ r v, applyWrite (.x r v) c = if r.val = 0 then c else { c with x := c.x.set r.val v r.isLt }) ∧
    (∀ r v, applyWrite (.y r v) c = if r.val = 0 then c else { c with y := c.y.set r.val v r.isLt }) ∧
    (∀ r v, applyWrite (.p r v) c = if r.val = 0 then c else { c with p := c.p.set r.val v r.isLt }) ∧
    (∀ r v, applyWrite (.k r v) c = if r.val = 0 then c else { c with k := c.k.set r.val v r.isLt }) ∧
    (∀ r v, applyWrite (.m r v) c = { c with m := c.m.set r.val v r.isLt }) ∧
    (∀ r v, applyWrite (.c r v) c = { c with c := c.c.set r.val v r.isLt }) ∧
    (∀ r v, applyWrite (.e r v) c = { c with e := c.e.set r.val v r.isLt }) ∧
    (∀ v : BitVec 5, ∃ f, applyWrite (.flags v) c = { c with fflags := f } ∧ ∀ i : Nat, i < 5 → f.getLsbD i = (c.fflags.getLsbD i || v.getLsbD i)) ∧
    (∀ (r : Fin 32) (en val : Vec), ∃ v, applyWrite (.v r en val) c = { c with v := c.v.set r.val v r.isLt } ∧
      ∀ i : Nat, i < 2048 → v.getLsbD i = if en.getLsbD i then val.getLsbD i else (c.v.get r).getLsbD i) ∧
    (∀ v : Word, ∃ b, applyWrite (.base .xb v) c = { c with xb := b } ∧ b.toNat = v.toNat % 32) ∧
    (∀ v : Word, ∃ b, applyWrite (.base .yb v) c = { c with yb := b } ∧ b.toNat = v.toNat % 32) ∧
    (∀ v : Word, ∃ b, applyWrite (.base .vb v) c = { c with vb := b } ∧ b.toNat = v.toNat % 32) ∧
    (∀ v : Word, ∃ b, applyWrite (.base .cb v) c = { c with cb := b } ∧ b.toNat = v.toNat % 16) ∧
    (∀ (r : Fin 4) f v, ∃ h, applyWrite (.shape r f v) c = { c with shadow := c.shadow.set r.val h r.isLt } ∧
      h.get (ShapeField.idx f) = v ∧ ∀ j, j ≠ ShapeField.idx f → h.get j = (c.shadow.get r).get j) ∧
    (∀ (r : Fin 8) f v, ∃ h, applyWrite (.pattern r f v) c = { c with g := c.g.set r.val h r.isLt } ∧
      h.get (PatField.idx f) = v ∧ ∀ j, j ≠ PatField.idx f → h.get j = (c.g.get r).get j)

/-- Exact latency (R56): a native result of latency L is read as old by the bundles at t + 1 up to t + L − 1 and as new by the bundle at t + L; the cycle count rises by one each. Of two results that land in one context cycle
the later one wins (R60): of two writes of one X register due together, the one issued later stands; flag sets landing together are ORed, and into the result of an MTS to FFLAGS of that cycle. -/
def Obligations.ResultsLandInTime : Prop :=
  (∀ (c : Ctx) (r : Fin 38) (v : Word) (lat n : Nat),
     c.hm = false → c.pend = [⟨0, lat, .x r v, []⟩] → r.val ≠ 0 → 0 < lat →
     let bundle := fun x : Ctx => (x.approach).count false
     (n < lat → (bundle^[n] c).x = c.x ∧ (bundle^[n] c).ccyc = c.ccyc + BitVec.ofNat 64 n) ∧
     (bundle^[lat - 1] c).approach.x = c.x.set r.val v r.isLt ∧ (bundle^[lat - 1] c).approach.pend = []) ∧
  (∀ (c : Ctx) (id1 id2 : Nat),
     (∀ (r : Fin 38) (v w : Word), r.val ≠ 0 → landNow [⟨id1, 0, .x r v, []⟩, ⟨id2, 0, .x r w, []⟩] c = { c with x := c.x.set r.val w r.isLt }) ∧
     (∀ f g : BitVec 5, landNow [⟨id1, 0, .flags f, []⟩, ⟨id2, 0, .fflags g, []⟩] c = { c with fflags := g ||| f } ∧
       landNow [⟨id1, 0, .flags f, []⟩, ⟨id2, 0, .flags g, []⟩] c = { c with fflags := c.fflags ||| f ||| g }))

/-! ### Integer instructions -/

namespace Sys2Proof.Stated

/-- A word of two X sources and one X destination completes with this result at this latency, for every operand form. -/
def XxxCompletes (mk : Reg3 → Instr) (op : Word → Word → Word) (lat : Nat) : Prop :=
  ∀ (f : Reg3) (s s1 s2 t : State) (a b : Word), valP s f.g = true →
    s.readX f.i f.a = some (a, s1) → s1.readX f.i f.b = some (b, s2) → s2.writeX f.i f.d (op a b) lat = some t → exec (mk f) s = .next t

/-- A word of one X source and one X destination, whose fields the record gives. -/
def XxCompletes {α : Type} (mk : α → Instr) (g : α → BitVec 4) (i : α → Bool) (d a : α → BitVec 5) (op : α → Word → Word) (lat : Nat) : Prop :=
  ∀ (f : α) (s s1 t : State) (v : Word), valP s (g f) = true →
    s.readX (i f) (a f) = some (v, s1) → s1.writeX (i f) (d f) (op f v) lat = some t → exec (mk f) s = .next t

def BitCompletes (mk : Reg2 → Instr) (op : Nat → Word) : Prop := XxCompletes mk (·.g) (·.i) (·.d) (·.a) (fun _ v => op v.toNat) 1
def ImmCompletes (mk : RegImm → Instr) (op : Nat → Int → Word) : Prop :=
  XxCompletes mk (·.g) (·.i) (·.d) (·.a) (fun f v => op v.toNat (snum 11 f.imm.toNat)) 1
def ShiCompletes (mk : ShiftImm → Instr) (op : Nat → Nat → Word) : Prop :=
  XxCompletes mk (·.g) (·.i) (·.d) (·.a) (fun f v => op v.toNat f.amt.toNat) 1

/-- Rotate left by fewer than 64 places. -/
def rotl (a sh : Nat) : Word := nword (a * 2 ^ sh + a / 2 ^ (64 - sh))

/-- A sum over the numbers below `n`. -/
def sumTo (n : Nat) (f : Nat → Nat) : Nat := ((List.range n).map f).sum

/-- A word of two Y sources and one Y destination. -/
def YyyCompletes (mk : Reg3 → Instr) (op : Nat → Nat → Word) : Prop :=
  ∀ (f : Reg3) (s : State), valP s f.g = true →
    exec (mk f) s = .next (landed s (.y (homeY s f.i f.d) (op (valY s f.i f.a).toNat (valY s f.i f.b).toNat)) 1)

end Sys2Proof.Stated

/-- XALU (R78): the sixteen results, latency 1; shift amounts use the six low bits of B. XMUL (R79): products at latency 3, quotients and remainders at latency 18; a quotient truncates toward zero; a divisor of zero gives
all ones, and the dividend as the remainder. Codes past the last decode to nothing. -/
def Obligations.IntegerResults : Prop :=
  (XxxCompletes .add (fun a b => nword (a.toNat + b.toNat)) 1 ∧
   XxxCompletes .sub (fun a b => word ((a.toNat : Int) - b.toNat)) 1 ∧
   XxxCompletes .and (fun a b => nword (a.toNat &&& b.toNat)) 1 ∧
   XxxCompletes .or (fun a b => nword (a.toNat ||| b.toNat)) 1 ∧
   XxxCompletes .xor (fun a b => nword (a.toNat ^^^ b.toNat)) 1 ∧
   XxxCompletes .andn (fun a b => nword (a.toNat &&& (2 ^ 64 - 1 - b.toNat))) 1 ∧
   XxxCompletes .orn (fun a b => nword (a.toNat ||| (2 ^ 64 - 1 - b.toNat))) 1 ∧
   XxxCompletes .shl (fun a b => nword (a.toNat * 2 ^ (b.toNat % 64))) 1 ∧
   XxxCompletes .shr (fun a b => nword (a.toNat / 2 ^ (b.toNat % 64))) 1 ∧
   XxxCompletes .sra (fun a b => word (sval a / 2 ^ (b.toNat % 64))) 1 ∧
   XxxCompletes .rotl (fun a b => rotl a.toNat (b.toNat % 64)) 1 ∧
   XxxCompletes .min (fun a b => word (min (sval a) (sval b))) 1 ∧
   XxxCompletes .max (fun a b => word (max (sval a) (sval b))) 1 ∧
   XxxCompletes .minn (fun a b => nword (min a.toNat b.toNat)) 1 ∧
   XxxCompletes .maxn (fun a b => nword (max a.toNat b.toNat)) 1 ∧
   XxxCompletes .absd (fun a b => nword (sval a - sval b).natAbs) 1) ∧
  (XxxCompletes .mul (fun a b => nword (a.toNat * b.toNat)) 3 ∧
   XxxCompletes .mulh (fun a b => word (sval a * sval b / 2 ^ 64)) 3 ∧
   XxxCompletes .mulhn (fun a b => nword (a.toNat * b.toNat / 2 ^ 64)) 3 ∧
   XxxCompletes .div (fun a b => if b.toNat = 0 then nword (2 ^ 64 - 1) else word ((sval a).tdiv (sval b))) 18 ∧
   XxxCompletes .divn (fun a b => if b.toNat = 0 then nword (2 ^ 64 - 1) else nword (a.toNat / b.toNat)) 18 ∧
   XxxCompletes .rem (fun a b => if b.toNat = 0 then a else word (sval a - sval b * (sval a).tdiv (sval b))) 18 ∧
   XxxCompletes .remn (fun a b => if b.toNat = 0 then a else word ((a.toNat : Int) - b.toNat * (a.toNat / b.toNat : Nat))) 18 ∧
   (∀ w < 2 ^ 32, (w / 2 ^ 26 = 0x03 ∧ 16 ≤ w % 64) ∨ (w / 2 ^ 26 = 0x04 ∧ 7 ≤ w % 64) → decodeAny w = none))

/-- XBIT (R80); EXTR, EXTRS and INSR for every field that R43 admits (R81); immediates and constants (R82, R83): all at latency 1; what those rules call
illegal decodes to nothing. -/
def Obligations.BitAndImmediateResults : Prop :=
  (BitCompletes .clz (fun a => nword ((List.range 64).findIdx fun i => a.testBit (63 - i))) ∧
   BitCompletes .ctz (fun a => nword ((List.range 64).findIdx fun i => a.testBit i)) ∧
   BitCompletes .popc (fun a => nword ((List.range 64).countP fun i => a.testBit i)) ∧
   BitCompletes .brev (fun a => nword (sumTo 64 fun i => if a.testBit (63 - i) then 2 ^ i else 0)) ∧
   BitCompletes .bswap (fun a => nword (sumTo 8 fun j => a / 256 ^ (7 - j) % 256 * 256 ^ j)) ∧
   BitCompletes .sextb (fun a => word (snum 8 (a % 2 ^ 8))) ∧
   BitCompletes .sexth (fun a => word (snum 16 (a % 2 ^ 16))) ∧
   BitCompletes .sextw (fun a => word (snum 32 (a % 2 ^ 32))) ∧
   BitCompletes .zextw (fun a => nword (a % 2 ^ 32))) ∧
  ((∀ (f : FieldOp) (s s1 t : State) (v : Word), valP s f.g = true → f.pos.toNat + f.len.toNat + 1 ≤ 64 → s.readX f.i f.a = some (v, s1) →
     (s1.writeX f.i f.d (nword (v.toNat / 2 ^ f.pos.toNat % 2 ^ (f.len.toNat + 1))) 1 = some t → exec (.extr f) s = .next t) ∧
     (s1.writeX f.i f.d (word (snum (f.len.toNat + 1) (v.toNat / 2 ^ f.pos.toNat % 2 ^ (f.len.toNat + 1)))) 1 = some t → exec (.extrs f) s = .next t)) ∧
   (∀ (f : FieldOp) (s s1 s2 t : State) (v d : Word), valP s f.g = true → f.pos.toNat + f.len.toNat + 1 ≤ 64 →
     s.readX f.i f.a = some (v, s1) → s1.readX f.i f.d = some (d, s2) →
     (let w := f.len.toNat + 1
      let r := d.toNat / 2 ^ (f.pos.toNat + w) * 2 ^ (f.pos.toNat + w) + v.toNat % 2 ^ w * 2 ^ f.pos.toNat + d.toNat % 2 ^ f.pos.toNat
      s2.writeX f.i f.d (nword r) 1 = some t) →
     exec (.insr f) s = .next t)) ∧
  (ImmCompletes .addi (fun a i => word (a + i)) ∧
   ImmCompletes .andi (fun a i => nword (a &&& (word i).toNat)) ∧
   ImmCompletes .ori (fun a i => nword (a ||| (word i).toNat)) ∧
   ImmCompletes .xori (fun a i => nword (a ^^^ (word i).toNat)) ∧
   ShiCompletes .shli (fun a n => nword (a * 2 ^ n)) ∧
   ShiCompletes .shri (fun a n => nword (a / 2 ^ n)) ∧
   ShiCompletes .srai (fun a n => word (sval (nword a) / 2 ^ n)) ∧
   ShiCompletes .rotli (fun a n => rotl a n) ∧
   (∀ (f : Const16) (s t : State), valP s f.g = true → s.writeX f.i f.d (word (snum 16 f.imm.toNat)) 1 = some t → exec (.movi f) s = .next t) ∧
   (∀ (f : Const16) (s s1 t : State) (d : Word), valP s f.g = true → s.readX f.i f.d = some (d, s1) →
     s1.writeX f.i f.d (nword (d.toNat * 2 ^ 16 % 2 ^ 64 + f.imm.toNat)) 1 = some t → exec (.movsh f) s = .next t) ∧
   (∀ w < 2 ^ 32, (w / 2 ^ 26 = 0x05 ∧ (w / 2 ^ 6 % 32 ≠ 0 ∨ 9 ≤ w % 64)) ∨
       (0x06 ≤ w / 2 ^ 26 ∧ w / 2 ^ 26 ≤ 0x08 ∧ 64 < w / 2 ^ 5 % 64 + w % 32 + 1) ∨ (w / 2 ^ 26 = 0x0D ∧ w / 2 ^ 6 % 8 ≠ 0) → decodeAny w = none) ∧
   decodeAny 0x34011005 = some (.shli ⟨false, 0, 1, 2, 5⟩) ∧ decodeAny 0x1807310B = some (.extr ⟨false, 0, 7, 6, 8, 11⟩) ∧
   decodeAny 0x3801000A = some (.movi ⟨false, 0, 1, 10⟩))

namespace Sys2Proof.Stated

/-- The truth of a condition (R84). -/
def condTrue (c : Cond) (a b : Word) : Bool :=
  match c with
  | .eq => decide (a.toNat = b.toNat)
  | .ne => decide (a.toNat ≠ b.toNat)
  | .lt => decide (sval a < sval b)
  | .ge => decide (sval a ≥ sval b)
  | .ltn => decide (a.toNat < b.toNat)
  | .gen => decide (a.toNat ≥ b.toNat)
  | .le => decide (sval a ≤ sval b)

end Sys2Proof.Stated

/-- CMP, CMPI, PLOG and SEL (R84, R85, R86), latency 1: the predicates they write, and that SEL reads both sources. -/
def Obligations.PredicateResults : Prop :=
  (∀ (f : CmpReg) (s s1 s2 : State) (a b : Word), valP s f.g = true → s.readX f.i f.a = some (a, s1) → s1.readX f.i f.b = some (b, s2) →
    exec (.cmp f) s = .next (landed s2 (.p ⟨f.d.toNat, f.d.isLt⟩ (condTrue f.cc a b)) 1)) ∧
  (∀ (f : CmpImm) (s s1 : State) (a : Word), valP s f.g = true → s.readX false f.a = some (a, s1) →
    exec (.cmpi f) s = .next (landed s1 (.p ⟨f.d.toNat, f.d.isLt⟩ (condTrue f.cc a (word (snum 9 f.imm.toNat)))) 1)) ∧
  (∀ (f : Pred3) (s : State), valP s f.g = true →
    let put := fun v => Host.Outcome.next (landed s (.p ⟨f.d.toNat, f.d.isLt⟩ v) 1)
    exec (.pand f) s = put (valP s f.a && valP s f.b) ∧ exec (.por f) s = put (valP s f.a || valP s f.b) ∧
    exec (.pxor f) s = put (valP s f.a ^^ valP s f.b) ∧ exec (.pandn f) s = put (valP s f.a && !valP s f.b)) ∧
  (∀ (f : Pred2) (s : State), valP s f.g = true →
    exec (.pnot f) s = .next (landed s (.p ⟨f.d.toNat, f.d.isLt⟩ (!valP s f.a)) 1) ∧
    exec (.pmov f) s = .next (landed s (.p ⟨f.d.toNat, f.d.isLt⟩ (valP s f.a)) 1)) ∧
  (∀ (f : SelOp) (s s1 s2 t : State) (a b : Word), valP s f.g = true → s.readX f.i f.a = some (a, s1) → s1.readX f.i f.b = some (b, s2) →
    s2.writeX f.i f.d (if valP s f.p then a else b) 1 = some t → exec (.sel f) s = .next t) ∧
  (∀ w < 2 ^ 32, (w / 2 ^ 26 = 0x10 ∧ (7 ≤ w % 64 ∨ 16 ≤ w / 2 ^ 16 % 32)) ∨ (w / 2 ^ 26 = 0x11 ∧ 7 ≤ w / 2 ^ 14 % 16) ∨
      (w / 2 ^ 26 = 0x12 ∧ (6 ≤ w % 64 ∨ w / 2 ^ 25 % 2 = 1 ∨ 16 ≤ w / 2 ^ 16 % 32 ∨ 16 ≤ w / 2 ^ 11 % 32 ∨ 16 ≤ w / 2 ^ 6 % 32 ∨ (4 ≤ w % 64 ∧ w / 2 ^ 6 % 32 ≠ 0))) ∨
      (w / 2 ^ 26 = 0x13 ∧ w / 2 ^ 4 % 4 ≠ 0) → decodeAny w = none) ∧
  (∀ (x : Ctx) (v : Bool), applyWrite (.p 0 v) x = x)

namespace Sys2Proof.Stated

/-- Where a copy of `v` out of a scalar file lands: the bits of a vector register that change, or another register (R91, R101). -/
def copyWrite (s : State) (i : Bool) (v : Word) : MovDst → Write
  | .file r => .y (homeY s i r) v
  | .m r => .m ⟨r.toNat, r.isLt⟩ v
  | .c r => .c (Fin.ofNat 16 (index 16 i r.toNat s.me.cb.toNat)) v
  | .vb r => .v (Fin.ofNat 32 (index 32 i r.toNat s.me.vb.toNat)) (BitVec.ofNat 2048 (2 ^ 2048 - 1)) (BitVec.ofNat 2048 (sumTo 32 fun j => v.toNat * 2 ^ (64 * j)))
  | .vl r l => .v (Fin.ofNat 32 (index 32 i r.toNat s.me.vb.toNat)) (BitVec.ofNat 2048 ((2 ^ 64 - 1) * 2 ^ (64 * l.toNat)))
      (BitVec.ofNat 2048 (v.toNat * 2 ^ (64 * l.toNat)))

end Sys2Proof.Stated

/-- XMOV and YMOV (R91, R101): the value lands in another file at latency 2; an X destination of YMOV is written as every X field is. SETIB, HSET and GSET (R92, R93): a base modulo the size of its file at latency 3; a field of the shadow shape
register or of a copy pattern, the low 32 bits of x[a], at latency 1. YALU and YADDI (R100): the results land in y[d] at latency 1. -/
def Obligations.MoveAndAddressResults : Prop :=
  ((∀ (f : MovOp) (s s1 : State) (v : Word), valP s f.g = true → s.readX f.i f.a = some (v, s1) →
     exec (.xmov f) s = .next (landed s1 (copyWrite s f.i v f.dst) 2)) ∧
   (∀ (f : MovOp) (s t : State) (d : BitVec 5), valP s f.g = true → f.dst = .file d → s.writeX f.i d (valY s f.i f.a) 2 = some t →
     exec (.ymov f) s = .next t) ∧
   (∀ (f : MovOp) (s : State), valP s f.g = true → (∀ d, f.dst ≠ .file d) →
     exec (.ymov f) s = .next (landed s (copyWrite s f.i (valY s f.i f.a) f.dst) 2))) ∧
  ((∀ (f : SetBase) (s s1 : State) (v : Word), valP s f.g = true → s.readX f.i f.a = some (v, s1) →
     exec (.setib f) s = .next (landed s1 (.base f.base (word (v.toNat + snum 11 f.imm.toNat))) 3)) ∧
   (∀ (f : ShapeSet) (s s1 : State) (v : Word), valP s f.g = true → s.readX f.i f.a = some (v, s1) →
     exec (.hset f) s = .next (landed s1 (.shape ⟨f.d.toNat, f.d.isLt⟩ f.field (BitVec.ofNat 32 (v.toNat % 2 ^ 32))) 1)) ∧
   (∀ (f : PatSet) (s s1 : State) (v : Word), valP s f.g = true → s.readX f.i f.a = some (v, s1) →
     exec (.gset f) s = .next (landed s1 (.pattern ⟨f.d.toNat, f.d.isLt⟩ f.field (BitVec.ofNat 32 (v.toNat % 2 ^ 32))) 1))) ∧
  (YyyCompletes .yadd (fun a b => nword (a + b)) ∧
   YyyCompletes .ysub (fun a b => word ((a : Int) - b)) ∧
   YyyCompletes .yshl (fun a b => nword (a * 2 ^ (b % 64))) ∧
   YyyCompletes .yshr (fun a b => nword (a / 2 ^ (b % 64))) ∧
   YyyCompletes .yand (fun a b => nword (a &&& b)) ∧
   (∀ (f : RegImm) (s : State), valP s f.g = true →
     exec (.yaddi f) s = .next (landed s (.y (homeY s f.i f.d) (word ((valY s f.i f.a).toNat + snum 11 f.imm.toNat))) 1)) ∧
   (∀ w < 2 ^ 32, w / 2 ^ 26 = 0x24 ∧ 5 ≤ w % 64 → decodeAny w = none))

/-! ### Frames -/

namespace Sys2Proof.Stated

/-- The words whose only effect is a result in flight or a port word: constants, arithmetic, compares, predicates, copies, fields and
system-register reads of the X slot, arithmetic and copies of the Y slot, bytes, shapes and copies of the S slot. -/
def resultOnly : Instr → Bool
  | .mfs _ | .add _ | .sub _ | .and _ | .or _ | .xor _ | .andn _ | .orn _ | .shl _ | .shr _ | .sra _ | .rotl _ | .min _ | .max _ | .minn _ | .maxn _
  | .absd _ | .mul _ | .mulh _ | .mulhn _ | .div _ | .divn _ | .rem _ | .remn _ | .clz _ | .ctz _ | .popc _ | .brev _ | .bswap _ | .sextb _
  | .sexth _ | .sextw _ | .zextw _ | .extr _ | .extrs _ | .insr _ | .addi _ | .andi _ | .ori _ | .xori _ | .shli _ | .shri _ | .srai _ | .rotli _
  | .movi _ | .movsh _ | .cmp _ | .cmpi _ | .pand _ | .por _ | .pxor _ | .pandn _ | .pnot _ | .pmov _ | .sel _ | .xmov _ | .setib _ | .hset _
  | .gset _ | .yadd _ | .ysub _ | .yshl _ | .yshr _ | .yand _ | .yaddi _ | .ymov _ | .ssetB _ _ _ | .ssetSh _ _ _ _ | .smov _ _ _
  | .nop _ | .bnop _ _ => true
  | _ => false

/-- The words of the V slot that only produce results. -/
def vectorOnly : Instr → Bool
  | .vadd _ | .vsub _ | .vmul _ | .vfma _ | .vmin _ | .vmax _ | .vabsd _ | .vdiv _ | .vsqrt _ | .vexp2 _ | .vlog2 _ | .vneg _ | .vabs _ | .vscale _
  | .vmulh _ | .vadds _ | .vand _ | .vor _ | .vxor _ | .vandn _ | .vshl _ | .vshr _ | .vsra _ | .vrotl _ | .vcmp _ | .vperm _ | .vslide _ _ _
  | .vbcast _ _ | .viota _ _ _ _ | .vcmpr _ | .vexpd _ | .vzip _ | .vunzip _ | .vclmul _ | .vclmulh _ | .vpopc _ | .vclz _ | .vctz _ | .vsel _
  | .vmsb _ | .vktov _ _ _ _ | .vredadd _ | .vredmin _ | .vredmax _ | .vredand _ | .vredor _ | .vredxor _ | .vsumx _ _ _ _ | .vsumxc _ _ _
  | .vcvt _ | .vrand _ _ _ _ _ | .kand _ _ _ _ | .kor _ _ _ _ | .kxor _ _ _ _ | .knot _ _ _ | .kmov _ _ _ | .kpopc _ _ _ _ _
  | .kfirst _ _ _ _ _ | .vmovi _ _ _ _ _ | .vext _ _ _ _ => true
  | _ => false

/-- The context with a control transfer in its latch, at a target in bytes whose low two bits are ignored. -/
def latched (s : State) (target : Word) (ret : Bool) : State :=
  let t : Xfer := ⟨nword (target.toNat / 4 * 4), ret⟩
  s.setCtx s.core.cur (if s.me.hm then { s.me with hxfer := some t } else { s.me with xfer := some t })

/-- No transfer is pending in the context in issue. -/
def NoTransfer (s : State) : Prop := (if s.me.hm then s.me.hxfer else s.me.xfer) = none

/-- The address in the layout of TRAP_PC (R62): bits [39:2], and the code mode in bit 0. -/
def trapWordOf (pc : Word) (nat : Bool) : Word := nword (pc.toNat / 4 % 2 ^ 38 * 4 + (if nat then 1 else 0))

/-- TRAP_CAUSE of a precise trap (R62). -/
def causeOf (cause sub slot : Nat) (sealed : Bool) : Word :=
  nword (sub % 2 ^ 16 * 2 ^ 16 + (if sealed then 2 ^ 12 else 0) + slot % 8 * 2 ^ 8 + cause % 256)

/-- The context after it has recorded a precise trap (R62, R64). -/
def recorded (s : State) (cause sub slot : Nat) : Ctx :=
  { s.me with
    trapCause := causeOf cause sub slot s.me.sealed
    trapWord := nword s.issue.word.toNat
    trapAddr := 0
    trapOpd := Vector.replicate 8 0
    trapPc := trapWordOf s.issue.addr s.me.nat
    trapNpc := trapWordOf (match s.me.xfer with | some t => t.target | none => s.issue.next) s.me.nat
    entryPc := trapWordOf s.issue.addr s.me.nat
    xferAt := s.me.xfer.isSome }

/-- The state after a precise trap that the context handler takes: the record, then TRAP_VEC in handler mode with a handler cycle count of 0 and
empty loop levels of its own; nothing else changes (R61, R64, R65, R89). -/
def trapped (s : State) (cause sub slot : Nat) : State :=
  let v := s.me.trapVec.toNat
  ({ s with verdict := .trapped } : State).setCtx s.core.cur
    { recorded s cause sub slot with
      hm := true, pc := nword (v / 4 % 2 ^ 38 * 4), nat := v.testBit 0, hcyc := 0, hpend := [], hxfer := none, waits := [], aside := s.me.waits,
      hloops := Vector.replicate 2 LoopLevel.idle }

/-- The state after a precise trap for the hypervisor: the record, the context held, an interrupt for the service context (R67; the interrupt is
the model's, log 7). -/
def heldForService (s : State) (cause sub slot : Nat) : State :=
  let t := ({ s with verdict := .trapped } : State).setCtx s.core.cur { recorded s cause sub slot with svcHeld := true }
  { t with core := { t.core with irq := true } }

/-- The op field of the word in issue. -/
def opNow (s : State) : Nat := s.issue.word.toNat / 2 ^ 26

end Sys2Proof.Stated

/-- The frame of the words that only produce results: every landed register, flag and special register, every byte of every memory, every
other context and every unit is as before; results join those in flight behind the earlier ones, and port queues may move. The same holds of the V slot where no
stream stands in its fields (a bound z register pops a slot of its ring, R143, R152); of SLD, but for the scale error that it may record (R190); and of MTS, but for
the write of a register that stands outside the context, which the model runs as the next event (log 5). -/
def Obligations.ResultWordsChangeNothingElse : Prop :=
  let Kept := fun s t : State => OnlyFlight s t ∧ t.core.rings = s.core.rings ∧ s.me.pend <+: t.me.pend ∧ s.me.hpend <+: t.me.hpend
  (∀ (i : Instr) (s t : State), resultOnly i = true → slotCheck i s = none → exec i s = .next t → Kept s t) ∧
  (∀ (i : Instr) (s t : State), vectorOnly i = true → slotCheck i s = none → (∀ b r, s.streamField b r = none) → exec i s = .next t → Kept s t) ∧
  (∀ (g : BitVec 4) (d a : BitVec 5) (off : BitVec 10) (s t : State), slotCheck (.sld g d a off) s = none → exec (.sld g d a off) s = .next t →
    ∃ l : List Async, l.length ≤ 1 ∧ Kept (s.setCtx s.core.cur { s.me with asyncs := s.me.asyncs ++ l }) t) ∧
  (∀ (f : SysWrite) (s t : State), slotCheck (.mts f) s = none → exec (.mts f) s = .next t →
    ∃ l : List Event, l.length ≤ 1 ∧ Kept { s with agenda := l ++ s.agenda } t)

/-- X fields (R46, R47, R54, R57, R65). Reading: a plain or rebased register, with zero for x0 and the handler bank in handler mode; or a bound port, which gives up the next arrived word, and holds the reader while there is
none. Writing: the result of a register joins the results in flight; a bound port takes the word at issue unless it holds 64 words already, and then the writer holds. A two-source word of the X slot that reads an empty
port holds its bundle, with no effect. -/
def Obligations.XFieldReadsAndWrites : Prop :=
  (∀ (s : State) (i : Bool) (raw : BitVec 5),
     ((∀ n, ¬ NamesPort s i raw n) →
       s.readX i raw = some (if index 32 i raw.toNat s.me.xb.toNat = 0 then 0 else s.me.x.get (homeX s i raw), s)) ∧
     (∀ n, NamesPort s i raw n →
       s.readX i raw = (s.me.ports.get n).peek.map fun w =>
         (w, s.setCtx s.core.cur { s.me with ports := s.me.ports.set n.val { s.me.ports.get n with read := (s.me.ports.get n).read + 1 } n.isLt }))) ∧
  (∀ (s : State) (i : Bool) (raw : BitVec 5) (v : Word) (lat : Nat),
     ((∀ n, ¬ NamesPort s i raw n) → s.writeX i raw v lat = some (landed s (.x (homeX s i raw) v) lat)) ∧
     (∀ n, NamesPort s i raw n →
       s.writeX i raw v lat = if (s.me.ports.get n).buffered < 64 then
         some (s.setCtx s.core.cur { s.me with ports := s.me.ports.set n.val { s.me.ports.get n with pushed := (s.me.ports.get n).pushed ++ [v] } n.isLt })
       else none)) ∧
  (∀ (f : Reg3) (s : State), valP s f.g = true → s.readX f.i f.a = none →
     ∀ mk ∈ ([.add, .sub, .and, .or, .xor, .andn, .orn, .shl, .shr, .sra, .rotl, .min, .max, .minn, .maxn, .absd, .mul, .mulh, .mulhn, .div, .divn,
         .rem, .remn] : List (Reg3 → Instr)),
       exec (mk f) s = .next { s with verdict := .held })

/-! ### Traps -/

/-- The use and privilege checks (R51, R65, R66, R77, R88, R90): a performed word in a forbidden state takes the illegal-instruction trap or the
privilege trap in the slot of the word, with SUB its op field, or the register number for MFS and MTS. -/
def Obligations.ForbiddenUsesTrap : Prop :=
  ∀ s : State, s.core.cur ≠ svc →
    (s.me.hm = false →
      (∀ g, valP s g = true → exec (.eret g) s = .next (trapped s 4 (opNow s) s.issue.slot)) ∧
      (∀ f : SysRead, valP s f.g = true → (0x018 ≤ f.n.toNat ∧ f.n.toNat ≤ 0x029 ∧ f.n.toNat ≠ 0x01E ∧ f.n.toNat ≠ 0x01F) →
        exec (.mfs f) s = .next (trapped s 4 f.n.toNat s.issue.slot)) ∧
      (∀ f : SysWrite, valP s f.g = true → (0x018 ≤ f.n.toNat ∧ f.n.toNat ≤ 0x029 ∧ f.n.toNat ≠ 0x01E ∧ f.n.toNat ≠ 0x01F) →
        exec (.mts f) s = .next (trapped s 4 f.n.toNat s.issue.slot)) ∧
      (∀ g ch a, valP s g = true → exec (.cfixRetry g ch) s = .next (trapped s 4 (opNow s) s.issue.slot) ∧
        exec (.cfixSkip g ch) s = .next (trapped s 4 (opNow s) s.issue.slot) ∧ exec (.cfixPatch g a ch) s = .next (trapped s 4 (opNow s) s.issue.slot)) ∧
      (s.me.xfer.isSome = true →
        (∀ g d, valP s g = true → exec (.br g d) s = .next (trapped s 1 (opNow s) s.issue.slot) ∧ exec (.call g d) s = .next (trapped s 1 (opNow s) s.issue.slot)) ∧
        (∀ f : Reg1, valP s f.g = true → exec (.jmpr f) s = .next (trapped s 1 (opNow s) s.issue.slot) ∧ exec (.ret f) s = .next (trapped s 1 (opNow s) s.issue.slot)) ∧
        (∀ f : Reg2, valP s f.g = true → exec (.callr f) s = .next (trapped s 1 (opNow s) s.issue.slot)) ∧
        (∀ g sc, valP s g = true → exec (.phase g sc) s = .next (trapped s 1 0x28 s.issue.slot))) ∧
      (∀ g a d v, valP s g = true → (∀ n, ¬ NamesPort s false a n) → (s.me.loops.get 0).act = true → (s.me.loops.get 1).act = true →
        s.me.getX a = v → v ≠ 0 → exec (.loop g a d) s = .next (trapped s 1 0x17 s.issue.slot)))

/-- ERET (R66): with no handler result in flight and no wait of its bundle, issue returns to TRAP_PC in user mode; the pending transfer is kept only if TRAP_PC is
the address recorded at entry and a transfer was pending then. With a result that lacks its bytes, or a wait, the handler holds first. -/
def Obligations.EretReturns : Prop :=
  ∀ (g : BitVec 4) (s : State), valP s g = true → s.core.cur ≠ svc → s.me.hm = true →
    (s.me.mirrorAct = false → s.me.hpend = [] → s.me.waits = [] →
      exec (.eret g) s = .next (s.setCtx s.core.cur { s.me with
        hm := false, svcHeld := false, pc := nword (s.me.trapPc.toNat / 4 % 2 ^ 38 * 4), nat := s.me.trapPc.toNat.testBit 0,
        xfer := if s.me.trapPc = s.me.entryPc ∧ s.me.xferAt = true then s.me.xfer else none,
        hxfer := none, hpend := [], waits := s.me.aside, aside := [], hloops := Vector.replicate 2 LoopLevel.idle })) ∧
    ((s.me.waits ≠ [] ∨ ∃ p ∈ s.me.hpend, p.need ≠ []) →
      exec (.eret g) s = .next (s.setCtx s.core.cur { s.me with waits := s.me.waits ++ [.eret] }))

/-! ### Transfers and loops -/

/-- BR, JMPR, RET, CALL and CALLR with no transfer pending (R87): the target stands in the latch; a call also puts the link, the address at which execution resumes after it, in x31 or x[d] at latency 1: in portable code the
word after it, in native code the address after the delay bundle. -/
def Obligations.TransfersLatchTarget : Prop :=
  ((∀ (g : BitVec 4) (disp : BitVec 22) (s : State), valP s g = true → NoTransfer s →
     let target := word (s.issue.at_.toNat + 4 * snum 22 disp.toNat)
     exec (.br g disp) s = .next (latched s target false) ∧
     (s.me.nat = false →
       exec (.call g disp) s = .next (latched (landed s (.x (homeOf s.me.hm 31) (nword (s.issue.at_.toNat + 4))) 1) target false)) ∧
     (∀ link s1, s.me.nat = true → s.linkValue = (link, s1) →
       exec (.call g disp) s = .next (latched (landed s1 (.x (homeOf s1.me.hm 31) link) 1) target false))) ∧
   (∀ (f : Reg1) (s s1 : State) (v : Word), valP s f.g = true → NoTransfer s → s.readX f.i f.a = some (v, s1) →
     exec (.jmpr f) s = .next (latched s1 v false) ∧ exec (.ret f) s = .next (latched s1 v true)) ∧
   (∀ (f : Reg2) (s s1 s2 t : State) (v link : Word), valP s f.g = true → NoTransfer s → s.readX f.i f.a = some (v, s1) →
     s1.linkValue = (link, s2) → s2.writeX f.i f.d link 1 = some t → exec (.callr f) s = .next (latched t v false))) ∧
  (∀ (s s1 : State) (b : Bundle), s.me.nat = true → (∀ k : Fin 2, (s.me.levels.get k).act = false) →
     s.nativeBundle s.core.cur s.issue.next.toNat false = (.ok b, s1) → s.linkValue = (b.next, s1))

/-- LOOP (R90): the count is the unsigned minimum of x[a] and 2^32 − 1, read at issue; with 0 the word after END follows; otherwise the lowest free level runs from the next bundle or word to END. Where the next bundle issues
(R87, R90): after the delay bundle of a pending transfer, its target; in portable code at once, the target of a performed transfer; at the END of the innermost active level with rounds left, its START, with REM one lower;
otherwise the next bundle or word. -/
def Obligations.LoopsAndCommit : Prop :=
  (∀ (g : BitVec 4) (a : BitVec 5) (disp : BitVec 17) (s s1 : State) (v : Word), valP s g = true → s.readX false a = some (v, s1) →
     let fin := nword (s.issue.at_.toNat + 4 * disp.toNat)
     (v = 0 → s.me.nat = false → exec (.loop g a disp) s = .next { s1 with issue := { s1.issue with next := nword (fin.toNat + 4) } }) ∧
     (v ≠ 0 → s.me.hm = false → ∀ k : Fin 2, (s.me.loops.get k).act = false → (k = 0 ∨ (s.me.loops.get 0).act = true) →
       exec (.loop g a disp) s = .next (s1.setCtx s1.core.cur { s1.me with
         loops := s1.me.loops.set k.val ⟨true, s.issue.next, fin, min v.toNat (2 ^ 32 - 1)⟩ k.isLt }))) ∧
  (∀ (x : Ctx) (own : Bool) (pending : Option Xfer) (a next : Word), x.hm = false → x.pend = [] →
     (∀ t, pending = some t → (x.commit own pending a next).pc = t.target ∧ (x.commit own pending a next).xfer = none) ∧
     (pending = none → x.nat = false → ∀ t, x.xfer = some t → (x.commit own pending a next).pc = t.target ∧ (x.commit own pending a next).xfer = none) ∧
     (pending = none → (∀ k : Fin 2, (x.loops.get k).act = false) → (x.nat = true ∨ x.xfer = none) →
       (x.commit own pending a next).pc = next ∧ (x.commit own pending a next).xfer = x.xfer) ∧
     (∀ k : Fin 2, pending = none → x.xfer = none → (x.loops.get k).act = true → (∀ j : Fin 2, k < j → (x.loops.get j).act = false) →
       (x.loops.get k).fin = a → 1 < (x.loops.get k).rem →
       (x.commit own pending a next).pc = (x.loops.get k).start ∧
       (x.commit own pending a next).loops = x.loops.set k.val { x.loops.get k with rem := (x.loops.get k).rem - 1 } k.isLt) ∧
     (pending = none → x.xfer = none → (x.loops.get 0).act = true → (x.loops.get 1).act = false → (x.loops.get 0).fin = a → (x.loops.get 0).rem ≤ 1 →
       (x.commit own pending a next).pc = next ∧ ((x.commit own pending a next).loops.get 0).act = false) ∧
     (x.commit own pending a next).ccyc = x.ccyc + 1)

/-! ### System registers, regions, the end of a strand -/

/-- NOP and an empty bundle change nothing (R37, R71). MFS lands the register's value in x[d] at latency 2 where no check fails (R77); an MTS to FFLAGS, and in handler mode to TRAP_CAUSE or TRAP_PC, lands one context cycle
later; the write of a register outside the context runs as the next event of the agenda (the model's, log 5); a read-only register ignores the write. What MFS reads of a strand context (R56, R62, R76): the cycle count, the flags, the trap
registers, the mode word. -/
def Obligations.SystemRegisters : Prop :=
  ((∀ g s, exec (.nop g) s = .next s) ∧
   (∀ r f s, exec (.bnop r f) s = .next s) ∧
   (∀ (f : SysRead) (s t : State), valP s f.g = true → slotCheck (.mfs f) s = none → s.writeX f.i f.d (s.sysReg s.core.cur f.n.toNat) 2 = some t →
     exec (.mfs f) s = .next t) ∧
   (∀ (f : SysWrite) (s s1 : State) (v : Word), valP s f.g = true → slotCheck (.mts f) s = none → s.readX f.i f.a = some (v, s1) →
     (f.n.toNat = 0x010 → exec (.mts f) s = .next (landed s1 (.fflags (BitVec.ofNat 5 (v.toNat % 32))) 1)) ∧
     (s1.core.cur ≠ svc → f.n.toNat = 0x018 → exec (.mts f) s = .next (landed s1 (.trapCause v) 1)) ∧
     (s1.core.cur ≠ svc → f.n.toNat = 0x019 → exec (.mts f) s = .next (landed s1 (.trapPc v) 1)) ∧
     (f.n.toNat = 0x011 ∨ (0x012 ≤ f.n.toNat ∧ f.n.toNat ≤ 0x016) → exec (.mts f) s = .next s1) ∧
     (∀ k : Fin 32, f.n.toNat = 0x180 + k.val → exec (.mts f) s = .next { s1 with agenda := .ringConfigWrite k v :: s1.agenda }) ∧
     (f.n.toNat = 0x104 → exec (.mts f) s = .next { s1 with agenda := .registerWrite .service 0x104 v :: s1.agenda }) ∧
     (f.n.toNat = 0x029 → exec (.mts f) s = .next { s1 with agenda := .resumeWrite v :: s1.agenda }))) ∧
  (∀ (s : State) (c : Fin 5), c ≠ svc →
     s.sysReg c 0x010 = nword (s.ctx c).fflags.toNat ∧ s.sysReg c 0x011 = (s.ctx c).ccyc ∧ s.sysReg c 0x018 = (s.ctx c).trapCause ∧
     s.sysReg c 0x019 = (s.ctx c).trapPc ∧ s.sysReg c 0x01A = (s.ctx c).trapNpc ∧ s.sysReg c 0x01B = (s.ctx c).trapWord ∧
     s.sysReg c 0x01C = (s.ctx c).trapAddr ∧ s.sysReg c 0x01D = (s.ctx c).trapVec ∧
     (∀ k : Fin 8, s.sysReg c (0x020 + k.val) = (s.ctx c).trapOpd.get k) ∧
     s.sysReg c 0x028 = nword ((if (s.ctx c).xferAt then 4 else 0) + (if (s.ctx c).nat then 2 else 0) + (if (s.ctx c).hm then 1 else 0)))

/-- The end of a close (R22, R23, R27, R89, R106): the next region is unsealed, its checkpoint holds the address and code mode where it begins and the values of x1
to x5 that its first bundle or word reads (in native code a result due then is among them; a portable word waits for every result, R41), both loop levels are empty; after PHASE it begins at the pc; after YIELD at KERNEL with the next ITER while that lies below TRIP, at ITER 0 after the prologue, and
else at EPILOGUE with ITER unchanged. -/
def Obligations.RegionBeginsWithCheckpoint : Prop :=
  (∀ (s : State) (c : Fin 5) (pc : Word) (nat : Bool),
    let x := (s.newRegion c pc nat).ctx c
    x.pc = pc ∧ x.nat = nat ∧ x.sealed = false ∧ x.first = true ∧ x.ckpt.rpc = pc ∧ x.ckpt.rnat = nat ∧
    (let last := fun (l : List Pend) (k : Fin 5) =>
      ((l.filterMap fun p => match p.w with | .x r v => if r.val = k.val + 1 then some v else none | _ => none).getLast?).getD ((s.ctx c).x.get ⟨k.val + 1, by omega⟩)
     (nat = true → ∀ k, x.ckpt.live.get k = last ((s.ctx c).pend.filter fun p => p.off = 1 ∧ p.need = []) k) ∧
     (nat = false → (s.ctx c).hm = false → ∀ k, x.ckpt.live.get k = last ((List.range 18).flatMap fun o => (s.ctx c).pend.filter fun p => p.off - 1 = o) k)) ∧
    (∀ k : Fin 2, x.loops.get k = LoopLevel.idle)) ∧
  (∀ (s : State) (t : Strand),
    let kernel := (s.devWord (t.lrec + 8)).toNat
    let epilogue := (s.devWord (t.lrec + 16)).toNat
    let trip := (s.devWord (t.lrec + 24)).toNat % 2 ^ 32
    let next := if t.stage = .prologue then 0 else t.iter.toNat + 1
    (t.stage ≠ .epilogue → next < trip →
      s.yieldTo t = ({ t with iter := BitVec.ofNat 32 next, stage := .kernel }, nword (kernel / 4 % 2 ^ 38 * 4), kernel.testBit 63)) ∧
    (t.stage = .epilogue ∨ trip ≤ next → s.yieldTo t = ({ t with stage := .epilogue }, nword (epilogue / 4 % 2 ^ 38 * 4), epilogue.testBit 63)))

/-- YIELD, SUSP, DONE and PHASE in user mode begin the close of the region at their scope (R28, R73, R106), and go on with it as far as it need not wait; SUSP resumes after itself. A close waits while the context has requests
under way or a TSTORE of its strand has not entered the phase buffer (R231), and then nothing changes. What it publishes (R95, R268): the phase buffer is empty after it; at core scope the bytes of a sector of a cached page stand dirty in L1, at die scope and wider those of a sector
homed on this die stand at their home. A close that waits for nothing more goes on to its end. -/
def Obligations.CloseBeginsAndWaits : Prop :=
  (∀ (g : BitVec 4) (s : State), valP s g = true → s.me.hm = false →
     let close := fun (x : Ctx) (sc : Scope) (a : After) => (s.setCtx s.core.cur { x with waits := x.waits ++ [.close sc a] }).pump s.core.cur 4
     exec (.yield g) s = .next (close s.me .core .yield) ∧
     exec (.susp g) s = .next (close { s.me with pc := s.issue.next } .core .susp) ∧
     exec (.done g) s = .next (close s.me .die .done) ∧
     (∀ sc, slotCheck (.phase g sc) s = none → exec (.phase g sc) s = .next (close s.me sc .phase))) ∧
  (∀ (s : State) (c : Fin 5) (sc : Scope) (a : After) (r : List Wait), (s.ctx c).waits = .close sc a :: r →
     ((s.ctx c).reqs ≠ [] ∨ ∃ o ∈ s.core.ops, o.ctx.val = c.val ∧ o.kind = .store) → s.pumpOne c = none) ∧
  ((∀ (s : State) (c : Fin 5) (sc : Scope), ((s.publish c sc).ctx c).buf = []) ∧
   (∀ (s : State) (c : Fin 5) (sec : Nat) (e : BufSector), (s.ctx c).buf = [(sec, e)] → rising s.core.l1 = true → e.mask ≠ 0 →
     let s0 := s.setCtx c { s.ctx c with buf := [] }
     (s0.cacheable (s.who c) sec e).1 = true →
       let k := ckey (s.who c).asid sec
       let old := s.l1At k
       let new := (s.publish c .core).l1At k
       new.dirty = old.dirty ||| e.mask ∧ new.valid = old.valid ||| e.mask ∧
         ∀ i : Nat, i < 256 → new.data.getLsbD i = if e.mask.getLsbD (i / 8) = true then e.data.getLsbD i else old.data.getLsbD i) ∧
   (∀ (s u : State) (c : Fin 5) (sc : Scope) (sec pa b : Nat) (p : Word) (e : BufSector), sc = .die ∨ sc = .package ∨ sc = .fabric →
     (s.ctx c).buf = [(sec, e)] → (∀ x ∈ s.core.l1, x.2.by_.getLsbD c.val = false ∨ x.2.dirty = 0) → s.dieOf (s.who c).job (sec / 2 ^ 47) = .own →
     let s0 := (s.setCtx c { s.ctx c with buf := [] }).supersede (ckey (s.who c).asid sec) e.mask
     s0.access (s.who c) (sec % 2 ^ 47 * 32) .store (if e.mask.toNat < 256 ∨ e.mask.toNat % 256 = 0 then 8 else 1) = (.ok (pa, p), u) →
     inMmio pa = false → u.dm.backing (pa / 32 * 32) = some b → Memory.wf u.dm.mem = true →
       ∀ i : Nat, i < 32 → e.mask.getLsbD i = true → Memory.get (s.publish c sc).dm.mem (b / 32 * 32 + i) = BitVec.ofNat 8 (e.data.toNat / 256 ^ i)) ∧
   (∀ (s : State) (c : Fin 5) (sc : Scope) (a : After) (r : List Wait), (s.ctx c).waits = .close sc a :: r → (s.ctx c).reqs = [] →
     (∀ o ∈ s.core.ops, o.ctx.val ≠ c.val) →
     let t := s.publish c sc
     (t.ctx c).lost = none → t.acksOwed c sc = false → t.closeWaitsTile c = false → t.takeWaits c = false → t.takeOutranked c = false →
       s.pumpOne c = some ((t.setCtx c { t.ctx c with waits := (t.ctx c).waits.drop 1 }).finishClose c sc a)))

/-- BRK, TRAP and SVC are taken by the context handler (R64, R72): SUB is the code, SLOT 0, TRAP_WORD the word; HCALL holds the context for the service context (R67), whose interrupt is log 50. A precise trap in handler mode is not taken: it ends the
strand with a strand fault of SUB 7 that names both causes (R65; what its record takes is log 91). A strand fault ends the strand (R29): its buffered stores are discarded, its results in flight are gone, its handler has ended, and the context holds no strand
once what the strand has sent is acknowledged (R15; until then it stays, which is log 106): at once where nothing is owed. -/
def Obligations.TrapsEnterHandler : Prop :=
  (∀ (g : BitVec 4) (n : BitVec 15) (s : State), valP s g = true → s.core.cur ≠ svc → s.me.hm = false →
     exec (.brk g n) s = .next (trapped s 6 n.toNat 0) ∧
     exec (.trap g n) s = .next (trapped s 7 n.toNat 0) ∧
     exec (.svc g n) s = .next (trapped s 8 n.toNat 0) ∧
     exec (.hcall g n) s = .next (heldForService s 9 n.toNat 0)) ∧
  (∀ (g : BitVec 4) (n : BitVec 15) (s : State), valP s g = true → s.core.cur ≠ svc → s.me.hm = true → s.me.strand.isSome = true →
     exec (.svc g n) s = .next (({ s with verdict := .trapped } : State).strandFault s.core.cur 7 s.me.trapCause (causeOf 8 n.toNat 0 s.me.sealed) s.me.trapPc) ∧
     (∀ t, exec (.svc g n) s = .next t → t.me.hm = false ∧ ((∀ e ∈ s.me.streams, e.2 = 0) → t.me.strand = none))) ∧
  (∀ (s : State) (c : Fin 5) (sub : Nat) (addr detail pc : Word), c ≠ svc → (s.ctx c).strand.isSome = true →
     let x := (s.strandFault c sub addr detail pc).ctx c
     x.buf = [] ∧ x.pend = [] ∧ x.hpend = [] ∧ x.xfer = none ∧ x.hm = false ∧ x.sealed = false ∧
       ((∀ e ∈ (s.ctx c).streams, e.2 = 0) → x.strand = none ∧ x.waits = []) ∧
       ((∃ e ∈ (s.ctx c).streams, e.2 ≠ 0) → x.strand = (s.ctx c).strand ∧ x.waits = [.leave .over]))

/-! ### Memory -/

namespace Sys2Proof.Stated

/-- The byte at address `a` in a phase buffer, none where no store has put one there (R96). -/
def bufByte (b : SMap BufSector) (a : Nat) : Option Byte :=
  match lookup b (a / 32) with
  | some e => if e.mask.getLsbD (a % 32) then some (BitVec.ofNat 8 (e.data.toNat / 256 ^ (a % 32))) else none
  | none => none

/-- The address lies among the `n` bytes from `ea`, modulo 2^64. -/
def inSpan (ea n a : Nat) : Prop := (a + 2 ^ 64 - ea % 2 ^ 64) % 2 ^ 64 < n

/-- The addresses of the scalar accesses (R98, R99), modulo 2^64. -/
def addrImm (s : State) (i : Bool) (a : BitVec 5) (imm : BitVec 8) (sz : BitVec 2) : Nat :=
  (word ((valY s i a).toNat + snum 8 imm.toNat * 2 ^ sz.toNat)).toNat
def addrIdx (s : State) (i : Bool) (a b : BitVec 5) (sc : BitVec 2) : Nat := ((valY s i a).toNat + (valY s i b).toNat * 2 ^ sc.toNat) % 2 ^ 64

/-- The addresses of the 32-bit elements of a vector access (R110): the base and the stride or index with bits [1:0] cleared. -/
def elemContig (s : State) (i : Bool) (a : BitVec 5) (k : Nat) : Nat := ((valY s i a).toNat / 4 * 4 + 4 * k) % 2 ^ 64
def elemStride (s : State) (i : Bool) (a b : BitVec 5) (k : Nat) : Nat := ((valY s i a).toNat / 4 * 4 + k * ((valY s i b).toNat / 4 * 4)) % 2 ^ 64
def vecHome (s : State) (i : Bool) (raw : BitVec 5) : Fin 32 := Fin.ofNat 32 (index 32 i raw.toNat s.me.vb.toNat)
def elemGather (s : State) (i : Bool) (a b : BitVec 5) (k : Nat) : Nat :=
  (word ((valY s i a).toNat / 4 * 4 + (word (snum 32 ((s.me.v.get (vecHome s i b)).toNat / 2 ^ (32 * k) % 2 ^ 32))).toNat / 4 * 4)).toNat

/-- The value of a mask register: k0 reads all ones. -/
def valK (s : State) (k : BitVec 3) : Mask := if k.toNat = 0 then BitVec.allOnes 512 else s.me.k.get ⟨k.toNat, k.isLt⟩

/-- The bits of the enabled 32-bit elements. -/
def elemBits (m : Mask) : Vec := BitVec.ofNat 2048 (sumTo 64 fun j => if m.getLsbD j then (2 ^ 32 - 1) * 2 ^ (32 * j) else 0)

/-- What a store may change: the phase buffer, the requests and the waits of its context, the packets to other dies, and what a translation
fills in. Every register, every byte of the die's memory and of the core's, every cache, every other context is as before. -/
def OnlyBuffer (s t : State) : Prop :=
  t.me = { s.me with buf := t.me.buf, reqs := t.me.reqs, waits := t.me.waits } ∧ (∀ c, c ≠ s.core.cur → t.ctx c = s.ctx c) ∧
  t.dm.mem = s.dm.mem ∧ t.core = { s.core with ctxs := t.core.ctxs } ∧ t.cl = s.cl ∧ t.dl = s.dl ∧ t.pk = s.pk ∧ t.verdict = s.verdict

/-- The new value of an atomic on `n` bytes (R102), none where nothing is written. -/
def atomValue (op : AtomOp) (n old w : Nat) : Nat :=
  match op with
  | .add => (old + w) % 2 ^ (8 * n)
  | .min => if snum (8 * n) w < snum (8 * n) old then w else old
  | .max => if snum (8 * n) w > snum (8 * n) old then w else old
  | .minn => min old w
  | .maxn => max old w
  | .and => old &&& w
  | .or => old ||| w
  | .xor => old ^^^ w

/-- The atomic releases, or acquires (R104). -/
def releases (ord : AOrd) : Prop := ord = .rel ∨ ord = .acqrel
def acquires (ord : AOrd) : Prop := ord = .acq ∨ ord = .acqrel

/-- An atomic is aligned, stands outside the frame of a Mirror service, and meets no fault (R97, R105, R206). -/
def AtomAdmitted (s : State) (ea w e : Word) (f : BitVec 6) (axch : Bool) : Prop :=
  let n := if axch then (if f.toNat.testBit 2 then 8 else 4) else (if f.toNat.testBit 3 then 8 else 4)
  ea.toNat % n = 0 ∧ ((s.mirrorFrame s.core.cur).isSome = false ∨ ea.toNat / 2 ^ 52 ≠ 0xFFF) ∧ s.atomicBad s.core.cur ea w e f axch = none

/-- Every engine operation of a context, and of its strand in whatever context it was forked, has reached its completion object (R28, R108). -/
def EnginesDone (s : State) (c : Fin 5) : Prop :=
  (∀ o ∈ s.core.ops, o.ctx.val ≠ c.val) ∧ (∀ k : Fin 8, ((s.ctx c).chans.get k).state = .idle) ∧
  ∀ u, (s.ctx c).strand = some u → (∀ o ∈ s.core.ops, o.who.record ≠ u.recAddr) ∧
    ∀ (d : Fin 4) (k : Fin 8), (s.chan d k).state = .idle ∨ (s.chan d k).who.record ≠ u.recAddr

/-- The key of the sector of an atomic in the caches. -/
def atomKey (s : State) (ea : Word) : Nat := ckey (s.who s.core.cur).asid (ea.toNat / 32)

/-- An atomic at a home on this die runs at issue: a release has sent the buffered stores to their homes and is owed no acknowledgement, the copies of its sector in the
caches have gone home (R103, R104), and then `State.homeAtomic` runs it with the given f field. -/
def RunsHere (s : State) (ea w e : Word) (f : BitVec 6) (axch : Bool) (ord : AOrd) (old : Nat) (s1 : State) : Prop :=
  AtomAdmitted s ea w e f axch ∧ s.dieOf (s.who s.core.cur).job (ea.toNat / 2 ^ 52) = .own ∧
  ∃ u : State, (releases ord → s.me.reqs = [] ∧ u = ({ s with tags := s.tags + 1 } : State).release s.core.cur ∧ ∀ x ∈ u.me.streams, x.2 = 0) ∧
    (¬ releases ord → u = { s with tags := s.tags + 1 }) ∧ (u.flushSector u.core.cur (atomKey s ea)).1 = false ∧
    ((u.flushSector u.core.cur (atomKey s ea)).2).homeAtomic (s.who s.core.cur) (ea.toNat % 2 ^ 52) axch f w e = (.ok old, s1)

/-- How such an atomic completes: its region is sealed, its old value is on its way to the register at latency 6, the die's memory is what the home made of it; after a release the phase buffer is
empty, an acquire refreshes the context's view. -/
def AtomCompletes (i : Instr) (s : State) (ord : AOrd) (d : Option (Fin 38)) (n old : Nat) (s1 : State) : Prop :=
  ∃ t, exec i s = .next t ∧ t.me.sealed = true ∧ t.dm = s1.dm ∧ (releases ord → t.me.buf = []) ∧
    (acquires ord → t.cl.refcnt = s1.cl.refcnt + 1 ∧ t.me.view = t.cl.refcnt) ∧ (¬ acquires ord → t.cl = s1.cl) ∧
    (∀ r, d = some r → ∃ p ∈ (if s.me.hm then t.me.hpend else t.me.pend), p.w = .yload r (BitVec.ofNat 2048 old) n false ∧ p.need = [] ∧
      p.off = if s.me.nat then 6 else 1)

/-- An atomic whose home stands on another die, and whose sector no cache here holds dirty: it is counted and sent, the region is sealed, and the context waits for its reply (R103, R104, R346). -/
def AtomGoes (i : Instr) (s : State) (ea w e : Word) (f : BitVec 6) (axch : Bool) (ord : AOrd) : Prop :=
  ∀ fid die, let x := s.who s.core.cur
    AtomAdmitted s ea w e f axch → s.dieOf x.job (ea.toNat / 2 ^ 52) = .other fid die → (s.l1At (atomKey s ea)).dirty = 0 → (s.l2At (atomKey s ea)).dirty = 0 → ¬ releases ord →
    ∃ t, exec i s = .next t ∧ t.me.sealed = true ∧ t.dm = s.dm ∧ (t.fi.job x.job).i = (s.fi.job x.job).i + 1 ∧
      (∃ m, t.fi.outbox = s.fi.outbox ++ [⟨fid, die, false, .atomic m⟩] ∧ m.job = x.job ∧ m.asid = x.asid ∧ m.vf = x.vf ∧ m.off = ea.toNat % 2 ^ 52 ∧ m.f = f ∧ m.axch = axch ∧
        m.w = w ∧ m.e = e ∧ m.tag = s.tags) ∧
      t.me.waits = s.me.waits ++ [if ord = .acq then .acquire s.tags else .request s.tags] ∧ ∃ r ∈ t.me.reqs, r.tag = s.tags ∧ r.addr = ea

/-- An atomic that must wait first: a release whose stores, or a dirty sector whose write-back to another die, have still to be acknowledged (R103, R104): nothing is performed yet, the buffer is empty after a release, the
sector is clean, and the context waits. -/
def AtomWaits (i : Instr) (s : State) (ea w e : Word) (f : BitVec 6) (axch : Bool) (ord : AOrd) : Prop :=
  let x := s.who s.core.cur
  let k := atomKey s ea
  let Held := fun (t : State) => t.me.sealed = s.me.sealed ∧ ∃ d tag, t.me.waits = s.me.waits ++ [.atomic d ea w e f axch ord tag .acks]
  AtomAdmitted s ea w e f axch →
    (releases ord → s.me.reqs = [] → s.dieOf x.job (ea.toNat / 2 ^ 52) = .own →
      (∃ y ∈ (({ s with tags := s.tags + 1 } : State).release s.core.cur).me.streams, y.2 ≠ 0) → ∃ t, exec i s = .next t ∧ t.me.buf = [] ∧ Held t) ∧
    (∀ fid die, ¬ releases ord → s.dieOf x.job (ea.toNat / 2 ^ 52) = .other fid die → (∀ y ∈ s.me.streams, y.2 = 0) → (s.l1At k).dirty = 0 → (s.l2At k).dirty ≠ 0 → rising s.core.l1 = true → rising s.cl.l2 = true →
      (s.l2At k).job = x.job → ∃ t, exec i s = .next t ∧ Held t ∧ (t.l2At k).dirty = 0 ∧
        ∃ m, t.fi.outbox = s.fi.outbox ++ [⟨fid, die, false, .store m⟩] ∧ m.mask = (s.l2At k).dirty ∧ m.data = (s.l2At k).data ∧ m.remote = false)

end Sys2Proof.Stated

/-- LD and LDX (R98, R99): 2^sz bytes at y[a] + sext(imm) × 2^sz, or at y[a] + y[b] × 2^sc, modulo 2^64, zero- or sign-extended into y[d] at latency 6, for every form, once the bytes are read; the reading changes no register. A
load that reads bytes a running copy of its own strand has still to write holds (R183). A load returns the strand's own buffered bytes before any copy elsewhere (R95). -/
def Obligations.LoadsReadBuffer : Prop :=
  ((∀ (f : LoadOp) (s s1 : State) (raw : Nat), valP s f.g = true →
     let ea := addrImm s f.i f.a f.imm f.sz
     (s.loadWaits ea (2 ^ f.sz.toNat) = true → exec (.ld f) s = .next { s with verdict := .held }) ∧
     (s.loadWaits ea (2 ^ f.sz.toNat) = false → s.readSpan s.core.cur (2 ^ f.sz.toNat) (pieces 3 ea (2 ^ f.sz.toNat) 0) = (.data raw [], s1) →
       exec (.ld f) s = .next (landed s1 (.yload (homeY s f.i f.d) (BitVec.ofNat 2048 raw) (2 ^ f.sz.toNat) f.sx) 6))) ∧
   (∀ (f : LoadX) (s s1 : State) (raw : Nat), valP s f.g = true →
     let ea := addrIdx s f.i f.a f.b f.sc
     (s.loadWaits ea (2 ^ f.sz.toNat) = true → exec (.ldx f) s = .next { s with verdict := .held }) ∧
     (s.loadWaits ea (2 ^ f.sz.toNat) = false → s.readSpan s.core.cur (2 ^ f.sz.toNat) (pieces 3 ea (2 ^ f.sz.toNat) 0) = (.data raw [], s1) →
       exec (.ldx f) s = .next (landed s1 (.yload (homeY s f.i f.d) (BitVec.ofNat 2048 raw) (2 ^ f.sz.toNat) f.sx) 6))) ∧
   (∀ (raw : Vec) (n : Fin 4), let m := 8 * 2 ^ n.val
     extend raw (2 ^ n.val) false = nword (raw.toNat % 2 ^ m) ∧ extend raw (2 ^ n.val) true = word (snum m (raw.toNat % 2 ^ m)))) ∧
  (∀ (s : State) (c : Fin 5) (sec n : Nat) (mask : BitVec 32) (e : BufSector),
     s.mirrorFrame c = none → (s.dieOf (s.who c).job (sec / 2 ^ 47) = .own ∨ ∃ fid die, s.dieOf (s.who c).job (sec / 2 ^ 47) = .other fid die) →
       lookup (s.ctx c).buf sec = some e → mask &&& ~~~e.mask = 0 → s.readSec c sec mask n = (.data e.data 0 0 0, s))

/-- ST and STX (R96, R98, R99): when the store's probes pass, the low 2^sz bytes of y[d] stand in the phase buffer at the address, every other byte of the buffer is as
before, and nothing else has changed: no byte of memory, no register. -/
def Obligations.StoreEntersPhaseBuffer : Prop :=
  let Done := fun (s : State) (i : Instr) (ea n : Nat) (v : Word) =>
    (s.storeSpan s.core.cur n (v.toNat % 2 ^ (8 * n)) (pieces 3 ea n 0)).1 = .ok →
      ∃ t, exec i s = .next t ∧ OnlyBuffer s t ∧
        ∀ a < 2 ^ 64, (inSpan ea n a → bufByte t.me.buf a = some (BitVec.ofNat 8 (v.toNat / 256 ^ ((a + 2 ^ 64 - ea) % 2 ^ 64)))) ∧
          (¬ inSpan ea n a → bufByte t.me.buf a = bufByte s.me.buf a)
  (∀ (f : StoreOp) (s : State), valP s f.g = true → s.mirrorFrame s.core.cur = none →
    Done s (.st f) (addrImm s f.i f.a f.imm f.sz) (2 ^ f.sz.toNat) (valY s f.i f.d)) ∧
  (∀ (f : StoreX) (s : State), valP s f.g = true → s.mirrorFrame s.core.cur = none →
    Done s (.stx f) (addrIdx s f.i f.a f.b f.sc) (2 ^ f.sz.toNat) (valY s f.i f.d))

/-- A sector written at its home (R1, R96) changes the bytes that its mask selects, and no other byte of the die's memory. A store of the device itself (R260) changes its bytes, as far as storage reaches (R241, R251), and no byte of
another sector; the other bytes of a sector written in part stand as before where it was last written under the same key and mapping (R250, R254). -/
def Obligations.MemoryWriteFrame : Prop :=
  (∀ (d : DieMem) (key sec : Nat) (mask : BitVec 32) (v : Sector) (a : Nat), Memory.wf d.mem = true →
     Memory.get (d.writeSector key sec mask v).mem a =
       if a / 32 = sec ∧ mask.getLsbD (a % 32) = true then BitVec.ofNat 8 (v.toNat / 256 ^ (a % 32)) else Memory.get d.mem a) ∧
  (∀ (s : State) (at_ : Nat) (bs : List Byte) (a : Nat), Memory.wf s.dm.mem = true →
     let n := min bs.length (s.dm.room at_)
     ((at_ ≤ a ∧ a < at_ + n) → Memory.get (s.devWrite at_ bs).dm.mem a = bs.getD (a - at_) 0) ∧
     (¬ (at_ ≤ a ∧ a < at_ + n) → s.dm.plain (s.dm.keyTag 0) (a / 32) = true ∨ a / 32 < at_ / 32 ∨ (at_ + n - 1) / 32 < a / 32 →
       Memory.get (s.devWrite at_ bs).dm.mem a = Memory.get s.dm.mem a) ∧
     Memory.wf (s.devWrite at_ bs).dm.mem = true)

/-- ATOM, ASWP, ACAS, ALD and AST with plain order at a home on this die (R102, R105): y[d] takes the old value at latency 6, and the region is sealed; what each writes at its home; a misaligned one is a strand fault of SUB 4
whose ADDR is its address, and nothing of it is performed; the strand ends at once where it has nothing unacknowledged. -/
def Obligations.Atomics : Prop :=
  (let All := fun (i : Instr) (s : State) (ord : AOrd) (d : Option (Fin 38)) (n : Nat) (ea w e : Word) (f : BitVec 6) (axch : Bool) =>
     (∀ s1 old, RunsHere s ea w e f axch ord old s1 → AtomCompletes i s ord d n old s1) ∧ AtomGoes i s ea w e f axch ord ∧ AtomWaits i s ea w e f axch ord
   let code := fun (ord : AOrd) => match ord with | .plain => 0 | .acq => 1 | .rel => 2 | .acqrel => 3
   let axf := fun (ord : AOrd) (dbl : Bool) (op : Nat) => BitVec.ofNat 6 (code ord * 8 + (if dbl then 4 else 0) + op)
   (∀ (f : AtomArgs) (s : State), valP s f.g = true → let n := if f.dbl then 8 else 4
     let d := some (homeY s f.i f.d)
     (∀ op, All (.atom f op) s f.ord d n (valY s f.i f.a) (valY s f.i f.b) 0 (BitVec.ofNat 6 (code f.ord * 16 + (if f.dbl then 8 else 0) + AtomOp.code op)) false) ∧
     All (.aswp f) s f.ord d n (valY s f.i f.a) (valY s f.i f.b) 0 (axf f.ord f.dbl 0) true ∧
     All (.acas f) s f.ord d n (valY s f.i f.a) (valY s f.i f.b) (valY s f.i f.d) (axf f.ord f.dbl 1) true) ∧
   (∀ (i : Bool) (g : BitVec 4) (d a b : BitVec 5) (ord : AOrd) (dbl : Bool) (s : State), valP s g = true → let n := if dbl then 8 else 4
     All (.ald i g d a ord dbl) s ord (some (homeY s i d)) n (valY s i a) 0 0 (axf ord dbl 2) true ∧
     All (.ast i g a b ord dbl) s ord none n (valY s i a) (valY s i b) 0 (axf ord dbl 3) true)) ∧
  (∀ (dbl : Bool) (old w e : Nat), let n := if dbl then 8 else 4
     old < 2 ^ (8 * n) → w < 2 ^ (8 * n) → e < 2 ^ (8 * n) →
     (∀ op : AtomOp, atomicNew false (BitVec.ofNat 6 ((if dbl then 8 else 0) + AtomOp.code op)) n old w e = some (atomValue op n old w)) ∧
     atomicNew true (BitVec.ofNat 6 (if dbl then 4 else 0)) n old w e = some w ∧
     atomicNew true (BitVec.ofNat 6 ((if dbl then 4 else 0) + 1)) n old w e = (if old = e then some w else none) ∧
     atomicNew true (BitVec.ofNat 6 ((if dbl then 4 else 0) + 2)) n old w e = none ∧
     atomicNew true (BitVec.ofNat 6 ((if dbl then 4 else 0) + 3)) n old w e = some w) ∧
  (∀ (f : AtomArgs) (op : AtomOp) (s : State), valP s f.g = true → s.core.cur ≠ svc → s.me.strand.isSome = true → (valY s f.i f.a).toNat % (if f.dbl then 8 else 4) ≠ 0 →
     ∃ t, exec (.atom f op) s = .next t ∧ t.verdict = .trapped ∧ ((∀ e ∈ s.me.streams, e.2 = 0) → t.me.strand = none) ∧
       t = { s.faultHere s.core.cur 4 (valY s f.i f.a) with verdict := .trapped })

/-- FENCE makes the context wait (R108), and the wait of each kind ends exactly when its condition holds: ENG when no tile operation of the strand is left and every channel is idle, PORT when no message waits to be sent (log 103), ALL
when both hold and no acknowledgement is owed. PREF, FLSH and INVL act on the eight sectors of the line of y[a] (R109) in the order of their addresses: PREF fills L1 and L2, or L2, or does nothing where the storage named is
not told apart from the home; FLSH writes the dirty ones back and waits for the acknowledgements owed, if any, unless the home of one has departed, which is a strand fault (R396); INVL drops the clean ones and changes no dirty one. -/
def Obligations.FencesAndHints : Prop :=
  ((∀ (g : BitVec 4) (s : State), valP s g = true →
     (∀ k, k ≠ .all → exec (.fence g k) s = .next (s.setCtx s.core.cur { s.me with waits := s.me.waits ++ [.fence k] })) ∧
     exec (.fence g .all) s = .next (let t := s.askAcks s.core.cur; t.setCtx s.core.cur { t.ctx s.core.cur with waits := (t.ctx s.core.cur).waits ++ [.fence .all] })) ∧
   (∀ (s : State) (c : Fin 5) (r : List Wait),
     let eng := EnginesDone s c
     let port := ∀ k : Fin 16, ((s.ctx c).ports.get k).unsent = []
     let acks := ∀ e ∈ (s.ctx c).streams, e.2 = 0
     ((s.ctx c).waits = .fence .eng :: r → ((s.pumpOne c).isSome = true ↔ eng)) ∧
     ((s.ctx c).waits = .fence .port :: r → ((s.pumpOne c).isSome = true ↔ port)) ∧
     ((s.ctx c).waits = .fence .all :: r → ((s.pumpOne c).isSome = true ↔ eng ∧ port ∧ acks)))) ∧
  (∀ (f : Reg1) (s : State), valP s f.g = true →
     let line := (List.range 8).map fun j => (valY s f.i f.a).toNat / 256 * 8 + j
     exec (.pref f .l1) s = .next (line.foldl (fun s n => s.prefetch s.core.cur n true) s) ∧
     exec (.pref f .l2) s = .next (line.foldl (fun s n => s.prefetch s.core.cur n false) s) ∧
     exec (.pref f .ms) s = .next s ∧
     (let (gone, t) := s.flushDirty s.core.cur line
      (gone = none → (∀ e ∈ t.me.streams, e.2 = 0) → exec (.flsh f) s = .next t) ∧
      (gone = none → (∃ e ∈ t.me.streams, e.2 ≠ 0) → ∃ u, exec (.flsh f) s = .next u ∧ u.me.waits = t.me.waits ++ [.acks false]) ∧
      (∀ sec, gone = some sec → exec (.flsh f) s = .next { t.faultHere t.core.cur 2 (nword (sec * 32)) with verdict := .trapped })) ∧
     (∀ both, ∃ t, exec (.invl f both) s = .next t ∧ t.dm = s.dm ∧ (∀ c, t.ctx c = s.ctx c) ∧ t.core.spad = s.core.spad ∧
       (∀ k, ((s.l1At k).dirty ≠ 0 → t.l1At k = s.l1At k) ∧ ((s.l2At k).dirty ≠ 0 → t.l2At k = s.l2At k))))

namespace Sys2Proof.Stated

/-- The register files, the flags and the results in flight of a context stand as before. -/
def SameRegs (a b : Ctx) : Prop :=
  a.x = b.x ∧ a.y = b.y ∧ a.v = b.v ∧ a.k = b.k ∧ a.m = b.m ∧ a.c = b.c ∧ a.e = b.e ∧ a.p = b.p ∧ a.h = b.h ∧ a.g = b.g ∧ a.fflags = b.fflags ∧ a.pend = b.pend ∧
  a.buf = b.buf ∧ a.pc = b.pc

/-- The keys of the eight sectors of the line of an address, for the strand in issue. -/
def lineKey (s : State) (a : Word) (j : Nat) : Nat := ckey (s.who s.core.cur).asid (a.toNat / 256 * 8 + j)

end Sys2Proof.Stated

/-- FENCE, PREF, FLSH and INVL complete (R108, R109). A FENCE whose condition stands already (for PORT as log 103 reads it) is over at once: it answers a next state in which the context's one wait ends. PREF always goes on,
and drops a line that no die here homes; FLSH goes on where nothing has to be acknowledged: with every sector clean it changes nothing, a dirty sector of this die is clean afterwards; INVL always
goes on: clean sectors are gone, dirty ones stay. No register changes. -/
def Obligations.FencesAndCacheHintsComplete : Prop :=
  (∀ (g : BitVec 4) (k : FenceKind) (s : State), valP s g = true → s.me.waits = [] →
    (k = .eng ∨ k = .all → EnginesDone s s.core.cur) →
    (k = .port ∨ k = .all → ∀ n : Fin 16, (s.me.ports.get n).unsent = []) → (k = .all → ∀ e ∈ s.me.streams, e.2 = 0) →
    ∃ t u, exec (.fence g k) s = .next t ∧ t.pumpOne s.core.cur = some u ∧ t.verdict = s.verdict ∧ u.verdict = s.verdict ∧ u.me.waits = [] ∧
      SameRegs t.me s.me ∧ SameRegs u.me s.me ∧ t.dm = s.dm ∧ u.dm = s.dm) ∧
  (∀ (f : Reg1) (lvl : CacheLvl) (s : State), valP s f.g = true → s.core.cur ≠ svc → ∃ t, exec (.pref f lvl) s = .next t ∧ t.verdict = s.verdict ∧ t.me = s.me ∧
    (lvl = .ms ∨ s.dieOf (s.who s.core.cur).job ((valY s f.i f.a).toNat / 2 ^ 52) ≠ .own → t = s)) ∧
  (∀ (f : Reg1) (s : State), valP s f.g = true → (∀ e ∈ s.me.streams, e.2 = 0) → let key := lineKey s (valY s f.i f.a)
    ((∀ j, j < 8 → (s.l1At (key j)).dirty = 0 ∧ (s.l2At (key j)).dirty = 0) → exec (.flsh f) s = .next s) ∧
    (∀ i job, i < 8 → (∀ j, j < 8 → j ≠ i → (s.l1At (key j)).dirty = 0 ∧ (s.l2At (key j)).dirty = 0) → rising s.core.l1 = true → rising s.cl.l2 = true →
      ((s.l1At (key i)).dirty = 0 ∧ (s.l2At (key i)).dirty ≠ 0 ∧ job = (s.l2At (key i)).job ∨ (s.l1At (key i)).dirty ≠ 0 ∧ s.cl.l2 = [] ∧ job = (s.l1At (key i)).job) →
      s.dieOf job ((valY s f.i f.a).toNat / 2 ^ 52) = .own → ∃ t, exec (.flsh f) s = .next t ∧ t.verdict = s.verdict ∧ t.me = { s.me with reqs := t.me.reqs } ∧ t.me.reqs.map (·.tag) = s.me.reqs.map (·.tag) ∧
        ∀ j, j < 8 → (t.l1At (key j)).dirty = 0 ∧ (t.l2At (key j)).dirty = 0)) ∧
  (∀ (f : Reg1) (both : Bool) (s : State), valP s f.g = true → rising s.core.l1 = true → rising s.cl.l2 = true → ∃ t, exec (.invl f both) s = .next t ∧
    t.verdict = s.verdict ∧ t.me = s.me ∧ t.dm = s.dm ∧ ∀ j, j < 8 → let k := lineKey s (valY s f.i f.a) j
      (t.l1At k).valid = (if (s.l1At k).dirty = 0 then 0 else (s.l1At k).valid) ∧ (t.l1At k).dirty = (s.l1At k).dirty ∧ (t.l2At k).dirty = (s.l2At k).dirty ∧
      (t.l2At k).valid = if both = true ∧ (s.l2At k).dirty = 0 ∧ (s.l2At k).out = 0 then 0 else (s.l2At k).valid)

/-- VLD, VLDS and VGATH (R110): the enabled 32-bit elements land in v[d] at latency 8, VGATH at 12; a disabled element keeps its bits. VST, VSTS and VSCAT: the enabled elements of v[d] enter
the phase buffer, and nothing but it changes. -/
def Obligations.VectorMemoryResults : Prop :=
  ∀ (f : VMemOp) (b : BitVec 5) (s : State), valP s f.g = true →
    let m := valK s f.k
    let els := fun (addr : Nat → Nat) => ((List.range 64).filter fun j => m.getLsbD j).map fun j => (⟨addr j / 32, addr j % 32, 4, 4 * j⟩ : Piece)
    let Loads := fun (i : Instr) (addr : Nat → Nat) (lat : Nat) => ∀ (raw : Nat) (s1 : State),
      ((els addr).any fun p => s.loadWaits (p.sec * 32 + p.at_) 4) = false → s.readSpan s.core.cur 4 (els addr) = (.data raw [], s1) →
      exec i s = .next (landed s1 (.v (vecHome s f.i f.d) (elemBits m) (BitVec.ofNat 2048 raw)) lat)
    let Stores := fun (i : Instr) (addr : Nat → Nat) => ∀ s1 : State, s.mirrorFrame s.core.cur = none →
      s.storeSpan s.core.cur 4 (s.me.v.get (vecHome s f.i f.d)).toNat (els addr) = (.ok, s1) → exec i s = .next s1 ∧ OnlyBuffer s s1
    Loads (.vld f) (elemContig s f.i f.a) 8 ∧ Loads (.vlds f b) (elemStride s f.i f.a b) 8 ∧ Loads (.vgath f b) (elemGather s f.i f.a b) 12 ∧
    Stores (.vst f) (elemContig s f.i f.a) ∧ Stores (.vsts f b) (elemStride s f.i f.a b) ∧ Stores (.vscat f b) (elemGather s f.i f.a b)


/-! ### Tile, copy and scale instructions -/

namespace Sys2Proof.Stated

/-- The context in issue after the swap bit of a tile instruction has exchanged the two copies of its shape register (R93). -/
def swapped (s : State) (f : TileOp) : State :=
  if f.s then
    let k : Fin 4 := ⟨f.h.toNat, f.h.isLt⟩
    s.setCtx s.core.cur { s.me with h := s.me.h.set k.val (s.me.shadow.get k) k.isLt, shadow := s.me.shadow.set k.val (s.me.h.get k) k.isLt }
  else s

/-- A tile instruction of the kind `k` forks its operation: what its record says, its slots popped, its region marked, its tiles entered; the frame. -/
def TileForks (i : Instr) (k : TileKind) (f : TileOp) (s : State) : Prop :=
  ∀ (c : Fin 4) (p : TilePlan) (sa sb : Option (Nat × Nat)) (s2 s3 : State), s.core.cur = strandCtx c →
    let u := swapped s f
    let ma := u.me.m.get ⟨f.a.toNat, f.a.isLt⟩
    let mb := u.me.m.get ⟨f.b.toNat, f.b.isLt⟩
    let h := u.me.h.get ⟨f.h.toNat, f.h.isLt⟩
    u.tilePlan c k ma mb h = .ok p →
    (∀ fm, k = .mma fm → u.misses (u.who s.core.cur).vf (fmtClass fm) = false) →
    (∀ t, t = p.dst ∨ p.src = some t → (u.tileWm s.core.cur t).infl < 15) →
    (k = .zero ∨ u.dispatchRoom = true) → s.loadsOwed = false →
    ({ u with tags := u.tags + 1 } : State).popPlace p.a = some (sa, s2) → s2.popPlace p.b = some (sb, s3) → p.dst < 48 →
    ∃ (t : State) (o : TileRec), exec i s = .next t ∧ t.core.ops = s.core.ops ++ [o] ∧
      o.id = s.tags ∧ o.ctx = c ∧ o.kind = k ∧ o.ma = ma ∧ o.mb = mb ∧ o.shape = h ∧ o.scales = s.me.e ∧ o.dst = p.dst ∧ o.src = p.src ∧
      o.count = p.count ∧ o.row = 0 ∧ o.aSlot = sa ∧ o.bSlot = sb ∧ o.region = true ∧ o.engine = none ∧ o.placeholder = false ∧ o.who = s.who s.core.cur ∧
      (let w := s.tileWm s.core.cur p.dst
       let v := t.tileWm s.core.cur p.dst
       v.infl = w.infl + 1 ∧ v.lastm = p.count ∧ v.wm = 0) ∧
      t.core.rings = s3.core.rings ∧ t.core.acc = s.core.acc ∧ t.dm = s.dm ∧ t.core.spad = s.core.spad ∧ t.core.wbuf = s.core.wbuf ∧
      t.me.x = s.me.x ∧ t.me.y = s.me.y ∧ t.me.v = s.me.v ∧ t.me.m = s.me.m ∧ t.me.e = s.me.e ∧ t.me.sealed = s.me.sealed

/-- The channel of a copy fork. -/
def chanOf (ch : BitVec 3) : Fin 8 := ⟨ch.toNat, ch.isLt⟩

/-- The channel that a copy instruction forks: the operands are those at issue, the pattern, the identity and the Mirror frame are captured, no row is complete. -/
def forked (s : State) (_ : Fin 4) (op : ChanOp) (f : CopyOp) : Chan :=
  let pat := s.me.g.get ⟨f.pat.toNat, f.pat.isLt⟩
  let cb := s.me.c.get ⟨f.b.toNat, f.b.isLt⟩
  { Chan.reset with
    state := if op = .subs then .standing else .running, op := op, word := s.issue.word, ca := s.me.c.get ⟨f.a.toNat, f.a.isLt⟩, cb := cb, patNo := f.pat,
    pat := pat, rows := (pat.get 1).toNat * (pat.get 2).toNat, region := true, wm := if op = .mr ∨ op = .subs then 0 else cb,
    who := s.who s.core.cur, frame := s.mirrorFrame s.core.cur }

/-- A copy instruction holds while its channel is not idle (R173), and while a load of an earlier bundle is still to be performed (R270). -/
def CopyHolds (i : Instr) (f : CopyOp) (s : State) : Prop :=
  (s.me.chans.get (chanOf f.ch)).state ≠ .idle ∨ s.loadsOwed = true → exec i s = .next { s with verdict := .held }

/-- What a fork leaves as it was, beside its channel and the seal. -/
def ForkFrame (f : CopyOp) (s t : State) : Prop :=
  (∀ k, k ≠ chanOf f.ch → t.me.chans.get k = s.me.chans.get k) ∧ t.me.x = s.me.x ∧ t.me.y = s.me.y ∧ t.me.c = s.me.c ∧ t.me.g = s.me.g ∧
  t.dm.mem = s.dm.mem ∧ t.core.spad = s.core.spad ∧ t.core.wbuf = s.core.wbuf

/-- A copy instruction forks its operation on its channel once the check of the fork passes; it seals the region or does not (R25), which it never does for the Mirror frame (R206); no register, no byte of any
store changes. -/
def CopyForks (i : Instr) (op : ChanOp) (f : CopyOp) (s : State) (seals : Bool) : Prop :=
  ∀ c : Fin 4, s.core.cur = strandCtx c → CopyHolds i f s ∧
    ((s.me.chans.get (chanOf f.ch)).state = .idle → s.loadsOwed = false →
      let x := forked s c op f
      s.forkCheck c x = none →
      ∃ t, exec i s = .next t ∧ t.me.chans.get (chanOf f.ch) = x ∧ t.me.sealed = (s.me.sealed || x.forkSeals seals) ∧ ForkFrame f s t ∧ t.core.rings = s.core.rings)

/-- SUBS stands on its channel once the check of the fork passes (R177): the controller of the stack that homes src(0, 0) carries it where an entry of its 64 is free (R308); a source of no die, of a departed one or of another
package is a copy fault of kind 2, 9 or 8, and so is a controller whose entries are all held (8). -/
def SubsStands (f : CopyOp) (s : State) : Prop :=
  ∀ c : Fin 4, s.core.cur = strandCtx c → CopyHolds (.subs f) f s ∧
    ((s.me.chans.get (chanOf f.ch)).state = .idle → s.loadsOwed = false →
      let x := forked s c .subs f
      let die := s.dieOf x.who.job (x.src 0 / 2 ^ 52)
      let Ends := fun (y : Chan) => ∃ t, exec (.subs f) s = .next t ∧ t.me.chans.get (chanOf f.ch) = y ∧ t.me.sealed = (s.me.sealed || x.forkSeals true) ∧ ForkFrame f s t
      let Faults := fun (kind bad : Nat) => Ends { x with state := .stopped, fault := kind, row := 0, off := 0, bad := bad, faultAddr := nword (x.src 0), srcSide := true }
      s.forkCheck c x = none → frameSpan x.frame (x.src 0) x.esize = none →
      (die = .bad → Faults 2 (1 * 256 + 4)) ∧ (∀ fid d, die = .gone fid d → Faults 9 0) ∧ (∀ fid d, die = .other fid d → fid ≠ s.fi.fid → Faults 8 0) ∧
      (∀ pa p u, die = .own →
        (let m := if x.forkSeals true then s.seal s.core.cur else s
         (m.setChan c (chanOf f.ch) x).access x.who (x.src 0 % 2 ^ 52) .engRead x.esize) = (.ok (pa, p), u) →
        let k := s.core.die.toNat * 2 + u.dm.stackOf pa
        let n := u.entriesOf k true + getAt 0 u.pk.entryElse (entryNo k true)
        (n < 64 → Ends { x with installed := true, ctrl := some k }) ∧ (64 ≤ n → Faults 8 0)))

end Sys2Proof.Stated

/-- MMA, TZERO, TLOAD, TSTORE, TTRP and TADD fork their operation (R198, R216, R222): when the checks of the descriptors and the shape pass, no class is missed, no tile has fifteen operations in flight, the dispatcher
has room and the operand slots are there; INFL of the destination rises, LASTM is the row count, WM is 0 (R144). -/
def Obligations.TileInstructionsFork : Prop :=
  ∀ (f : TileOp) (s : State), valP s f.g = true →
    (∀ fmt, TileForks (.mma f fmt) (.mma fmt) f s) ∧ TileForks (.tload f) .load f s ∧ TileForks (.tstore f) .store f s ∧
    TileForks (.ttrp f) .transpose f s ∧ TileForks (.tadd f false) .addF32 f s ∧ TileForks (.tadd f true) .addI32 f s ∧
    (f.b = 0 → f.h = 0 → f.s = false → TileForks (.tzero f.g f.a) .zero f s)

/-- What the checks of TLOAD and TSTORE ask (R216 to R219): a pinned strand, a tile of the partition and reserved bits of the descriptor zero, M and N from 1 to 64; an address and a pitch that are multiples of 4, and a pitch of at
least 4 × N; otherwise the error is SUB 6 for an operand, which goes first (log 63), and SUB 5 for a shape. A tile instruction whose check fails records the tile operation error, cause 12 with its SUB (R218, R224), as an asynchronous trap, and forks nothing. -/
def Obligations.TileChecksAndErrors : Prop :=
  (∀ (s : State) (c : Fin 4) (ma mb : Word) (h : Rec8) (k : TileKind), k = .load ∨ k = .store →
     let pinned := ((s.ctx (strandCtx c)).strand.any fun t => t.pinned) = true
     let m := (h.get 0).toNat
     let n := (h.get 1).toNat
     let pitch := (h.get 3).toNat
     let shape := 1 ≤ m ∧ m ≤ 64 ∧ 1 ≤ n ∧ n ≤ 64 ∧ 4 * n ≤ pitch ∧ pitch % 4 = 0
     (¬ pinned → s.tilePlan c k ma mb h = .error 6) ∧
     (s.tileOf c ma = none → s.tilePlan c k ma mb h = .error 6) ∧
     (∀ t, pinned → s.tileOf c ma = some t → mb.toNat % 4 ≠ 0 → s.tilePlan c k ma mb h = .error 6) ∧
     (∀ t, pinned → s.tileOf c ma = some t → mb.toNat % 4 = 0 → ¬ shape → s.tilePlan c k ma mb h = .error 5) ∧
     (∀ t, pinned → s.tileOf c ma = some t → mb.toNat % 4 = 0 → shape → s.tilePlan c k ma mb h = .ok ⟨t, none, none, none, m⟩) ∧
     (ma.toNat / 2 ^ 14 ≠ 0 ∨ ma.toNat / 2 ^ 5 % 8 ≠ 0 → s.tileOf c ma = none)) ∧
  (∀ (f : TileOp) (s : State) (c : Fin 4) (sub : Nat), valP s f.g = true → s.core.cur = strandCtx c → f.s = false →
     s.tilePlan c .load (s.me.m.get ⟨f.a.toNat, f.a.isLt⟩) (s.me.m.get ⟨f.b.toNat, f.b.isLt⟩) (s.me.h.get ⟨f.h.toNat, f.h.isLt⟩) = .error sub →
     ∃ t a, exec (.tload f) s = .next t ∧ t = s.setCtx s.core.cur { s.me with asyncs := s.me.asyncs ++ [a] } ∧
       a.trap.cause = 12 ∧ a.trap.sub = sub ∧ a.trap.slot = 3 ∧ a.trap.word = nword s.issue.word.toNat)

/-- TWM lands ACC_WM of a tile of the partition in m[d] at latency 2; TWAIT and TFENCE hold the context for the tile, for its first rows, at most 64, or for every tile operation (R233); a tile operation's wait ends exactly when INFL is 0. -/
def Obligations.TileProbesAndWaits : Prop :=
  (∀ (g a b : BitVec 4) (s : State) (c : Fin 4) (t : Nat), valP s g = true → s.core.cur = strandCtx c → (s.me.strand.any fun t => t.pinned) = true →
    (s.tileOf c (s.me.m.get ⟨b.toNat, b.isLt⟩) = some t →
      exec (.twm g a b) s = .next (landed s (.m ⟨a.toNat, a.isLt⟩
        (let w := s.tileWm s.core.cur t
         nword (w.cover % 128 * 2 ^ 24 + w.lastm % 128 * 2 ^ 16 + w.infl % 16 * 2 ^ 8 + w.wm % 128))) 2)) ∧
    (s.tileOf c (s.me.m.get ⟨a.toNat, a.isLt⟩) = some t →
      exec (.twait g a b false) s = .next (s.setCtx s.core.cur { s.me with waits := s.me.waits ++ [.tile t none] }) ∧
      exec (.twait g a b true) s =
        .next (s.setCtx s.core.cur { s.me with waits := s.me.waits ++ [.tile t (some (min ((s.me.m.get ⟨b.toNat, b.isLt⟩).toNat % 128) 64))] })) ∧
    exec (.tfence g) s = .next (s.setCtx s.core.cur { s.me with waits := s.me.waits ++ [.allTiles] })) ∧
  (∀ (s : State) (c : Fin 5) (t : Nat) (r : List Wait), (s.ctx c).waits = .tile t none :: r →
    ((s.pumpOne c).isSome = true ↔ (s.tileWm c t).infl = 0)) ∧
  (∀ (s : State) (c : Fin 5) (r : List Wait), (s.ctx c).waits = .allTiles :: r →
    ((s.pumpOne c).isSome = true ↔ ∀ o ∈ s.core.ops, o.ctx.val ≠ c.val))

/-- CPY.MM, CPY.MR, CPY.MS, CPY.SM, CPYR, SUBS, WLOAD and WLOAD.ZB32 fork on an idle channel and hold while it is not idle or a load of the context is still owed by another die (which loads is log 94; the subscriptions counted are this core's, log 84; R169, R173, R174, R175, R177, R179, R180, R270); CPY.MM, CPY.SM, CPYR and SUBS seal the region (R25). DRN (R178)
holds while its channel is not idle or its ring has no filled slot; then it seals the region and forks with the head slot held. SUBS.CANCEL (R177) seals, and ends a standing channel at once when each step it has claimed is done. -/
def Obligations.CopyInstructions : Prop :=
  (∀ (f : CopyOp) (s : State), valP s f.g = true →
     CopyForks (.cpyMm f) .mm f s true ∧ CopyForks (.cpyMr f) .mr f s false ∧ CopyForks (.cpyMs f) .ms f s false ∧ CopyForks (.cpySm f) .sm f s true ∧
     (∀ op, CopyForks (.cpyr f op) (.red op) f s true) ∧ (slotCheck (.subs f) s = none → SubsStands f s) ∧
     CopyForks (.wload f) .wload f s false ∧ CopyForks (.wloadZb32 f) .zb32 f s false) ∧
  ((∀ (f : CopyOp) (s : State) (c : Fin 4) (n : Fin 32), valP s f.g = true → s.core.cur = strandCtx c →
     CopyHolds (.drn f) f s ∧
     ((s.me.chans.get (chanOf f.ch)).state = .idle → s.loadsOwed = false →
       let x := forked s c .drn f
       s.forkCheck c x = none → s.chanRing c x = some n →
       ((s.ring n).popDrain = none → exec (.drn f) s = .next { s with verdict := .held }) ∧
       (∀ slot q, (s.ring n).popDrain = some (slot, q) → ∃ t, exec (.drn f) s = .next t ∧ t.me.sealed = (s.me.sealed || x.forkSeals true) ∧ t.ring n = q ∧
         t.me.chans.get (chanOf f.ch) = { x with held := [(0, slot)] } ∧ ForkFrame f s t))) ∧
   (∀ (g : BitVec 4) (ch : BitVec 3) (s : State) (c : Fin 4), valP s g = true → slotCheck (.subsCancel g ch) s = none → s.core.cur = strandCtx c →
     ∃ t, exec (.subsCancel g ch) s = .next t ∧ t.me.sealed = true ∧
       t.me.chans.get (chanOf ch) = (let x := s.me.chans.get (chanOf ch)
         if x.state = .standing then
           (if x.held.any fun e => !x.stepDone e.1 then { x with state := .cancelling, cancel := true } else { x with state := .idle, ctrl := none, asked := [], buf := [], patch := none, parked := false })
         else x)))

/-- CWAIT and CWAIT.WM hold the context until the channel is idle, or WM has reached c[a] (R181), and that wait ends exactly then. CSTAT and CSTAT.WM land the status word or WM in c[a] at latency 2 (R182). CFIX in handler mode (R185,
R187): on a channel that has not stopped it does nothing. RETRY of a fault of kind 5, 8 or 9 lets the channel go on, a cancelled subscription as a cancelled one; PATCH of an uncorrectable source (5), or of a faulting source row, gives the row the address in c[a] and lets it
go on; SKIP of a fault of kind 1, 7 or 8 ends the operation. -/
def Obligations.ChannelWaitsAndFixes : Prop :=
  ((∀ (g a : BitVec 4) (ch : BitVec 3) (s : State), valP s g = true →
     let x := s.me.chans.get (chanOf ch)
     exec (.cwait g ch) s = .next (s.setCtx s.core.cur { s.me with waits := s.me.waits ++ [.channel (chanOf ch) none] }) ∧
     exec (.cwaitWm g a ch) s =
       .next (s.setCtx s.core.cur { s.me with waits := s.me.waits ++ [.channel (chanOf ch) (some (s.me.c.get ⟨a.toNat, a.isLt⟩))] }) ∧
     let rows := if x.op = .mr ∨ x.op = .subs then
         (let n1 := (x.pat.get 1).toNat
          x.complete / n1 * n1 + (x.done.filter fun r => x.stepDone (r / n1)).length)
       else x.complete + x.done.length
     exec (.cstat g a ch) s = .next (landed s (.c ⟨a.toNat, a.isLt⟩ (nword (min (2 ^ 32 - 1) rows * 2 ^ 32 + x.word.toNat / 16 % 16 * 2 ^ 24 +
       x.word.toNat % 16 * 2 ^ 20 + x.fault * 2 ^ 8 + match x.state with | .idle => 0 | .running => 1 | .stopped => 2 | .standing => 3 | .cancelling => 4))) 2) ∧
     exec (.cstatWm g a ch) s = .next (landed s (.c ⟨a.toNat, a.isLt⟩ x.wm) 2)) ∧
   (∀ (s : State) (c : Fin 5) (ch : Fin 8) (b : Option Word) (r : List Wait), (s.ctx c).waits = .channel ch b :: r →
     ((s.pumpOne c).isSome = true ↔
       ((s.ctx c).chans.get ch).state = .idle ∨ ∃ v, b = some v ∧ v.toNat ≤ ((s.ctx c).chans.get ch).wm.toNat))) ∧
  (∀ (g a : BitVec 4) (ch : BitVec 3) (s : State) (c : Fin 4), valP s g = true → s.me.hm = true → s.core.cur = strandCtx c →
     let x := s.me.chans.get (chanOf ch)
     let go := { x with state := if x.op = .subs then (if x.cancel then .cancelling else .standing) else .running, out := 0,
                        next := if x.op = .zb32 then x.rowAt else x.next }
     let put := fun (y : Chan) => s.setCtx s.core.cur { s.me with chans := s.me.chans.set ch.toNat y ch.isLt }
     (x.state ≠ .stopped → exec (.cfixRetry g ch) s = .next s ∧ exec (.cfixSkip g ch) s = .next s ∧ exec (.cfixPatch g a ch) s = .next s) ∧
     (x.state = .stopped → x.fault = 5 ∨ x.fault = 8 ∨ x.fault = 9 → exec (.cfixRetry g ch) s = .next (put go)) ∧
     (x.state = .stopped → x.fault = 5 ∨ (x.srcSide = true ∧ (x.fault = 2 ∨ x.fault = 3 ∨ x.fault = 4 ∨ x.fault = 6)) →
       exec (.cfixPatch g a ch) s = .next (put { go with patch := some (s.me.c.get ⟨a.toNat, a.isLt⟩) })) ∧
     (x.state = .stopped → x.fault = 1 ∨ x.fault = 7 ∨ x.fault = 8 →
       ∃ t, exec (.cfixSkip g ch) s = .next t ∧ (t.me.chans.get (chanOf ch)).state = .idle ∧ t.dm = s.dm ∧ t.core.spad = s.core.spad))

/-- The S slot (R190): SLD lands eight scale bytes of the scratchpad window at latency 5, eight NaN scales where they lie outside it; SSET.B, SSET.SH and SMOV land at latency 1. -/
def Obligations.ScaleResults : Prop :=
  ∀ (g : BitVec 4) (d a : BitVec 5) (v : Byte) (off : BitVec 10) (s : State), valP s g = true →
    let ea := s.me.e.get ⟨a.toNat, a.isLt⟩
    let de : Fin 32 := ⟨d.toNat, d.isLt⟩
    exec (.ssetB g d v) s = .next (landed s (.e de (nword (sumTo 8 fun j => v.toNat * 256 ^ j))) 1) ∧
    exec (.ssetSh g d a v) s = .next (landed s (.e de (nword (ea.toNat * 256 + v.toNat))) 1) ∧
    exec (.smov g d a) s = .next (landed s (.e de ea) 1) ∧
    (let o := ea.toNat / 8 % 2 ^ 18 * 8 + 8 * off.toNat
     (∀ p, s.window s.core.cur o 8 = some p → s.core.spadLost p 8 = false →
       exec (.sld g d a off) s = .next (landed s (.e de (nword (sumTo 8 fun j => (Memory.get s.core.spad (p + j)).toNat * 256 ^ j))) 5)) ∧
     (s.window s.core.cur o 8 = none → ∃ u, exec (.sld g d a off) s = .next (landed u (.e de (nword (2 ^ 64 - 1))) 5) ∧ u.dm = s.dm ∧ u.core.spad = s.core.spad))

/-! ### Fabric and Pavane instructions -/

/-- The words of FAB (R359): QSTAT, GRPQ and LSTAT land their item in x[d] at latency 2 (COUNT as the length of the table is log 57, fields that ignore higher bits log 58); RFLUSH asks for acknowledgements and RWAIT also holds, exactly until no stream of the context has an unacknowledged sector; QWAIT holds for a quiet
declaration; QMARK and JSET seal, and JSET at the leader ORs its bits into JFLAGS of the job. -/
def Obligations.FabricWords : Prop :=
  ((∀ (f : Reg2) (s s1 t : State) (v : Word), valP s f.g = true → s.readX f.i f.a = some (v, s1) →
     (slotCheck (.qstat f) s = none → s1.writeX f.i f.d (s1.qstatItem (s1.who s1.core.cur).job (v.toNat % 8)) 2 = some t → exec (.qstat f) s = .next t) ∧
     (slotCheck (.grpq f) s = none → s1.writeX f.i f.d
       (let tab := s1.fi.table.getD []
        if v.toNat / 2 ^ 63 = 1 then nword (s1.fi.seq.toNat * 2 ^ 32 + s1.fi.idx.toNat * 2 ^ 16 + tab.length % 2 ^ 10)
        else nword ((tab[v.toNat % 2 ^ 10]?).getD 0).toNat) 2 = some t → exec (.grpq f) s = .next t) ∧
     (slotCheck (.lstat f) s = none → s1.writeX f.i f.d
       ((s1.fi.links.get ⟨v.toNat % 16, by omega⟩).item (s1.who s1.core.cur).job (v.toNat / 16 % 4)) 2 = some t → exec (.lstat f) s = .next t)) ∧
   (∀ (g : BitVec 4) (s : State), valP s g = true →
     (slotCheck (.rflush g) s = none → exec (.rflush g) s = .next (s.askAcks s.core.cur)) ∧
     (slotCheck (.rwait g) s = none → ∃ t, exec (.rwait g) s = .next t ∧ t.me.waits = s.me.waits ++ [.acks true]) ∧
     (slotCheck (.qwait g) s = none → ∃ n, exec (.qwait g) s = .next (s.setCtx s.core.cur { s.me with waits := s.me.waits ++ [.quiet n] }))) ∧
   (∀ (f : Reg1) (s s1 : State) (v : Word), valP s f.g = true → s.readX f.i f.a = some (v, s1) →
     (slotCheck (.jset f) s = none → s1.fi.inGroup s1.fi.leader = true → s1.isLeader = true →
       ∃ t, exec (.jset f) s = .next t ∧ t.me.sealed = true ∧
         (t.fi.job (s1.who s1.core.cur).job).jflags = (s1.fi.job (s1.who s1.core.cur).job).jflags ||| v) ∧
     (slotCheck (.qmark f) s = none → ∃ t, exec (.qmark f) s = .next t ∧ t.me.sealed = true ∧ t.dm = s.dm))) ∧
  (∀ (s : State) (c : Fin 5) (b : Bool) (r : List Wait), (s.ctx c).waits = .acks b :: r → ((s.pumpOne c).isSome = true ↔ ∀ e ∈ (s.ctx c).streams, e.2 = 0))

/-- The words of PAV (R328): PVPOST, PVSTASH and PVTAKE whose checks pass record their request for the close of the region and do nothing else; a failed check is a strand fault; PVBUB and PVSTAT land their register in x[d] at latency 2. -/
def Obligations.PavaneWordResults : Prop :=
  (∀ (f : Reg1) (s s1 : State) (v : Word), valP s f.g = true → s.readX f.i f.a = some (v, s1) →
    (slotCheck (.pvpost f) s = none → s1.postCheck s1.core.cur v = none →
      exec (.pvpost f) s = .next (s1.setCtx s1.core.cur { s1.me with pav := { s1.me.pav with post := some v } })) ∧
    (∀ sub, slotCheck (.pvpost f) s = none → s1.postCheck s1.core.cur v = some sub → exec (.pvpost f) s = .next (s1.faultStop sub v)) ∧
    (slotCheck (.pvstash f) s = none → s1.stashCheck s1.core.cur v = none →
      exec (.pvstash f) s = .next (s1.setCtx s1.core.cur { s1.me with pav := { s1.me.pav with stash := some v } })) ∧
    (slotCheck (.pvtake f) s = none → s1.takeCheck s1.core.cur v = none →
      exec (.pvtake f) s = .next (s1.setCtx s1.core.cur { s1.me with pav := { s1.me.pav with take := some v } }))) ∧
  (∀ (i : Bool) (g : BitVec 4) (d : BitVec 5) (s t : State), valP s g = true →
    (∀ cause, slotCheck (.pvbub i g d cause) s = none →
      s.writeX i d (s.pk.pv.bub.get (match cause with | .input => 0 | .dest => 1 | .stash => 2)) 2 = some t → exec (.pvbub i g d cause) s = .next t) ∧
    (slotCheck (.pvstat i g d) s = none → s.writeX i d s.pk.pv.stat 2 = some t → exec (.pvstat i g d) s = .next t))


/-! ### Vector instructions -/

namespace Sys2Proof.Stated

/-- The width of a lane in bits and the number of lanes (R48). -/
def wid : LaneType → Nat
  | .b8 | .i8 | .n8 | .e4m3 | .e5m2 | .e8m0 => 8
  | .i16 | .n16 | .f16 | .bf16 => 16
  | .i32 | .n32 | .f32 => 32
  | .i64 | .n64 => 64
  | .e2m1 => 4
def lanesOf (t : LaneType) : Nat := 2048 / wid t
/-- Lane `j` of `w` bits, and the lane of a type as a number: signed for i8 to i64. -/
def el (w : Nat) (v : Vec) (j : Nat) : Nat := v.toNat / 2 ^ (w * j) % 2 ^ w
def ival (t : LaneType) (v : Nat) : Int := if t ∈ ([.i8, .i16, .i32, .i64] : List LaneType) then snum (wid t) v else v
/-- The pattern of a number in the lane of a type. -/
def ipat (t : LaneType) (i : Int) : Nat := (i % 2 ^ wid t).toNat
def intTypes : List LaneType := [.i8, .n8, .i16, .n16, .i32, .n32, .i64, .n64]
def fltTypes : List LaneType := [.f16, .bf16, .f32]
def fmtOf : LaneType → FloatFmt
  | .f16 => fp16 | .bf16 => bf16 | .e4m3 => e4m3 | .e5m2 => e5m2 | .e2m1 => e2m1
  | _ => fp32
def noFlags : FFlags := ⟨false, false, false, false, false⟩
/-- A lane operation of the integer types by its number, of the floating-point types by the arithmetic of their format. -/
def byKind (t : LaneType) (int : Int) (flt : FloatFmt → Nat × FFlags) : Nat × FFlags :=
  if t ∈ fltTypes then flt (fmtOf t) else (ipat t int, noFlags)

/-- The bits of the lanes that a mask enables. -/
def laneSel (t : LaneType) (m : Mask) : Vec :=
  BitVec.ofNat 2048 (sumTo (lanesOf t) fun j => if m.getLsbD j then (2 ^ wid t - 1) * 2 ^ (wid t * j) else 0)

/-- A vector result in flight: the register, the lanes it writes, their values, the flags it raises (none: no flag result), the latency. -/
def VLands (s t : State) (r : Fin 32) (ty : LaneType) (sel en : Mask) (lat : Nat) (res : Nat → Nat × FFlags) : Prop :=
  ∃ (val : Vec) (fl : BitVec 5),
    (∀ j < lanesOf ty, sel.getLsbD j = true → el (wid ty) val j = (res j).1 % 2 ^ wid ty) ∧
    (fl.getLsbD 4 = decide (∃ j < lanesOf ty, en.getLsbD j = true ∧ (res j).2.nv = true)) ∧
    (fl.getLsbD 3 = decide (∃ j < lanesOf ty, en.getLsbD j = true ∧ (res j).2.dz = true)) ∧
    (fl.getLsbD 2 = decide (∃ j < lanesOf ty, en.getLsbD j = true ∧ (res j).2.of = true)) ∧
    (fl.getLsbD 1 = decide (∃ j < lanesOf ty, en.getLsbD j = true ∧ (res j).2.uf = true)) ∧
    (fl.getLsbD 0 = decide (∃ j < lanesOf ty, en.getLsbD j = true ∧ (res j).2.nx = true)) ∧
    t = (let u := landed s (.v r (laneSel ty sel) val) lat
         if fl = 0 then u else landed u (.flags fl) lat)

/-- Every lane. -/
def allOn : Mask := BitVec.allOnes 512

/-- A word of two vector sources under a write mask: the enabled lanes of v[d] take the lane results, the others keep their bits; the flags of the
enabled lanes land with them (R152, R155). -/
def LaneWise3 (mk : Vec3 → Instr) (types : List LaneType) (lat : Nat) (op : LaneType → Nat → Nat → Nat → Nat × FFlags) : Prop :=
  ∀ (f : Vec3) (s s1 s2 : State) (a b : Vec), f.t ∈ types → s.readV f.i f.a = some (.val a, s1) → s1.readV f.i f.b = some (.val b, s2) →
    let d := s.me.v.get (vecHome s f.i f.d)
    let w := wid f.t
    ∃ t, exec (mk f) s = .next t ∧ VLands s2 t (vecHome s f.i f.d) f.t (valK s f.k) (valK s f.k) lat fun j => op f.t (el w a j) (el w b j) (el w d j)
def LaneWise2 (mk : Vec2 → Instr) (types : List LaneType) (lat : Nat) (op : LaneType → Nat → Nat × FFlags) : Prop :=
  ∀ (f : Vec2) (s s1 : State) (a : Vec), f.t ∈ types → s.readV f.i f.a = some (.val a, s1) →
    ∃ t, exec (mk f) s = .next t ∧ VLands s1 t (vecHome s f.i f.d) f.t (valK s f.k) (valK s f.k) lat fun j => op f.t (el (wid f.t) a j)

def allTypes : List LaneType := [.b8, .i8, .n8, .i16, .n16, .i32, .n32, .i64, .n64, .f16, .bf16, .f32, .e4m3, .e5m2, .e2m1, .e8m0]
def signedTypes : List LaneType := [.i8, .i16, .i32, .i64]
/-- The least and greatest number of an integer type. -/
def tmin (t : LaneType) : Int := if t ∈ signedTypes then -2 ^ (wid t - 1) else 0
def tmax (t : LaneType) : Int := if t ∈ signedTypes then 2 ^ (wid t - 1) - 1 else 2 ^ wid t - 1
def bitsOnly (v : Nat) : Nat × FFlags := (v, noFlags)

/-- The carry-less product of 64-bit numbers, bit by bit (R160). -/
def clBit (a b m : Nat) : Bool := ((List.range (m + 1)).countP fun j => a.testBit j && b.testBit (m - j)) % 2 == 1
def clBits (a b lo : Nat) : Nat := sumTo 64 fun i => if clBit (a % 2 ^ 64) (b % 2 ^ 64) (lo + i) then 2 ^ i else 0

end Sys2Proof.Stated

/-- VAR1 and VAR2 (R152, R155, R156): the results of the integer types in numbers; those of f16, bf16 and f32 by the arithmetic of the format, whose rounding
`RoundingIsNearestEven` states. -/
def Obligations.VectorArithmeticResults : Prop :=
  let num := intTypes ++ fltTypes
  LaneWise3 .vadd num 3 (fun t a b _ => byKind t (ival t a + ival t b) fun f => fAdd f a b) ∧
  LaneWise3 .vsub num 3 (fun t a b _ => byKind t (ival t a - ival t b) fun f => fSub f a b) ∧
  LaneWise3 .vmul num 4 (fun t a b _ => byKind t (ival t a * ival t b) fun f => fMul f a b) ∧
  LaneWise3 .vfma num 4 (fun t a b d => byKind t (ival t a * ival t b + ival t d) fun f => fFma f a b d) ∧
  LaneWise3 .vmin num 3 (fun t a b _ => byKind t (min (ival t a) (ival t b)) fun f => fPick f false a b) ∧
  LaneWise3 .vmax num 3 (fun t a b _ => byKind t (max (ival t a) (ival t b)) fun f => fPick f true a b) ∧
  LaneWise3 .vabsd num 3 (fun t a b _ => byKind t |ival t a - ival t b| fun f => fAbsd f a b) ∧
  LaneWise3 .vdiv fltTypes 14 (fun t a b _ => fDiv (fmtOf t) a b) ∧
  LaneWise2 .vsqrt fltTypes 16 (fun t a => fSqrt (fmtOf t) a) ∧
  LaneWise2 .vexp2 fltTypes 10 (fun t a => fExp2 (fmtOf t) a) ∧
  LaneWise2 .vlog2 fltTypes 10 (fun t a => fLog2 (fmtOf t) a) ∧
  LaneWise2 .vneg (signedTypes ++ fltTypes) 1 (fun t a => byKind t (-ival t a) fun f => bitsOnly (fNeg f a)) ∧
  LaneWise2 .vabs (signedTypes ++ fltTypes) 1 (fun t a => byKind t |ival t a| fun f => bitsOnly (fAbs f a)) ∧
  LaneWise3 .vscale fltTypes 3 (fun t a b _ => fScale (fmtOf t) a (snum (wid t) b)) ∧
  LaneWise3 .vmulh intTypes 4 (fun t a b _ => bitsOnly (ipat t (ival t a * ival t b / 2 ^ wid t))) ∧
  LaneWise3 .vadds intTypes 3 (fun t a b _ => bitsOnly (ipat t (max (tmin t) (min (ival t a + ival t b) (tmax t)))))

/-- VLOG and the lane-wise words of VBIT (R157, R160): the results and latencies; shift amounts are taken modulo the width. -/
def Obligations.VectorBitResults : Prop :=
  LaneWise3 .vand allTypes 1 (fun _ a b _ => bitsOnly (a &&& b)) ∧
  LaneWise3 .vor allTypes 1 (fun _ a b _ => bitsOnly (a ||| b)) ∧
  LaneWise3 .vxor allTypes 1 (fun _ a b _ => bitsOnly (a ^^^ b)) ∧
  LaneWise3 .vandn allTypes 1 (fun t a b _ => bitsOnly (a &&& (2 ^ wid t - 1 - b))) ∧
  LaneWise3 .vshl allTypes 2 (fun t a b _ => bitsOnly (a * 2 ^ (b % wid t))) ∧
  LaneWise3 .vshr allTypes 2 (fun t a b _ => bitsOnly (a / 2 ^ (b % wid t))) ∧
  LaneWise3 .vsra allTypes 2 (fun t a b _ => bitsOnly (ipat t (snum (wid t) a / 2 ^ (b % wid t)))) ∧
  LaneWise3 .vrotl allTypes 2 (fun t a b _ => bitsOnly (a * 2 ^ (b % wid t) % 2 ^ wid t + a / 2 ^ (wid t - b % wid t))) ∧
  LaneWise3 .vclmul [.i64, .n64] 3 (fun _ a b _ => bitsOnly (clBits a b 0)) ∧
  LaneWise3 .vclmulh [.i64, .n64] 3 (fun _ a b _ => bitsOnly (clBits a b 64)) ∧
  LaneWise2 .vpopc allTypes 2 (fun t a => bitsOnly ((List.range (wid t)).countP fun i => a.testBit i)) ∧
  LaneWise2 .vclz allTypes 2 (fun t a => bitsOnly ((List.range (wid t)).findIdx fun i => a.testBit (wid t - 1 - i))) ∧
  LaneWise2 .vctz allTypes 2 (fun t a => bitsOnly ((List.range (wid t)).findIdx fun i => a.testBit i))

namespace Sys2Proof.Stated

/-- A word of one or two vector sources whose result has the given lanes; `whole`: every lane is written, whatever the mask (the S forms). -/
def Lanes1 (i : Instr) (s : State) (fi : Bool) (a d : BitVec 5) (t : LaneType) (sel : Mask) (lat : Nat) (res : Vec → Nat → Nat) : Prop :=
  ∀ (s1 : State) (v : Vec), s.readV fi a = some (.val v, s1) →
    ∃ u, exec i s = .next u ∧ VLands s1 u (vecHome s fi d) t sel sel lat fun j => bitsOnly (res v j)
def Lanes2 (i : Instr) (s : State) (fi : Bool) (a b d : BitVec 5) (t : LaneType) (sel : Mask) (lat : Nat) (res : Vec → Vec → Nat → Nat) : Prop :=
  ∀ (s1 s2 : State) (v w : Vec), s.readV fi a = some (.val v, s1) → s1.readV fi b = some (.val w, s2) →
    ∃ u, exec i s = .next u ∧ VLands s2 u (vecHome s fi d) t sel sel lat fun j => bitsOnly (res v w j)

/-- The numbers of the lanes that a mask enables, rising. -/
def enabled (m : Mask) (n : Nat) : List Nat := (List.range n).filter fun j => m.getLsbD j

end Sys2Proof.Stated

/-- VPRM, and VSEL, VMSB, VKTOV, VMOVI and VRAND (R159, R160, R164, R166): the lanes of the result, written under the mask, or all of them where k selects sources. -/
def Obligations.VectorPermuteResults : Prop :=
  (∀ (f : Vec3) (s : State), let w := wid f.t
    let n := lanesOf f.t
    Lanes2 (.vperm f) s f.i f.a f.b f.d f.t (valK s f.k) 3 (fun a b j => el w a (el w b j % n)) ∧
    Lanes2 (.vzip f) s f.i f.a f.b f.d f.t (valK s f.k) 3 (fun a b j => if j % 2 = 0 then el w a (j / 2) else el w b (j / 2)) ∧
    Lanes2 (.vsel f) s f.i f.a f.b f.d f.t allOn 2 (fun a b j => if (valK s f.k).getLsbD j then el w a j else el w b j)) ∧
  (∀ (f : Vec2) (s : State), let w := wid f.t
    let n := lanesOf f.t
    let m := valK s f.k
    (∀ e : BitVec 4, Lanes1 (.vslide f false e) s f.i f.a f.d f.t m 3 (fun a j => if 2 ^ e.toNat ≤ j then el w a (j - 2 ^ e.toNat) else 0)) ∧
    (∀ e : BitVec 4, Lanes1 (.vslide f true e) s f.i f.a f.d f.t m 3 (fun a j => if j + 2 ^ e.toNat < n then el w a (j + 2 ^ e.toNat) else 0)) ∧
    (∀ l : BitVec 5, Lanes1 (.vbcast f l) s f.i f.a f.d f.t m 3 (fun a _ => el w a l.toNat)) ∧
    Lanes1 (.vunzip f) s f.i f.a f.d f.t m 3 (fun a j => if j < n / 2 then el w a (2 * j) else el w a (2 * (j - n / 2) + 1)) ∧
    Lanes1 (.vcmpr f) s f.i f.a f.d f.t allOn 3 (fun a j => if h : j < (enabled m n).length then el w a ((enabled m n)[j]) else 0) ∧
    Lanes1 (.vexpd f) s f.i f.a f.d f.t allOn 3 (fun a j => if m.getLsbD j then el w a (enabled m j).length else 0) ∧
    Lanes1 (.vmsb f) s f.i f.a f.d f.t allOn 2 (fun a j =>
      (sumTo n fun q => if m.getLsbD q ∧ el w a q / 2 ^ (w - 1) = 1 then 2 ^ q else 0) / 2 ^ (w * j))) ∧
  (∀ (i : Bool) (k : BitVec 3) (d : BitVec 5) (t : LaneType) (s : State),
    (∃ u, exec (.viota i k d t) s = .next u ∧ VLands s u (vecHome s i d) t (valK s k) (valK s k) 3 fun j => bitsOnly j) ∧
    (∃ u, exec (.vktov i d k t) s = .next u ∧ VLands s u (vecHome s i d) t allOn allOn 2 fun j => bitsOnly (if (valK s k).getLsbD j then 2 ^ wid t - 1 else 0)) ∧
    (∀ imm, ∃ u, exec (.vmovi i k d imm t) s = .next u ∧ VLands s u (vecHome s i d) t (valK s k) (valK s k) 1 fun _ => bitsOnly (ipat t (snum 10 imm.toNat)))) ∧
  (∀ (i : Bool) (k : BitVec 3) (d a b : BitVec 5) (s : State), Lanes2 (.vrand i k d a b) s i a b d .n32 (valK s k) 8 fun v key j =>
    let c := fun q => BitVec.ofNat 32 (el 32 v (j / 4 * 4 + q))
    ((reel10 (c 0) (c 1) (c 2) (c 3) (BitVec.ofNat 32 (el 32 key 0)) (BitVec.ofNat 32 (el 32 key 1))).getD (j % 4) 0).toNat)

namespace Sys2Proof.Stated

/-- The tree of R128 over lane numbers: level 0 is the lanes, and node i of a level is the operation on nodes 2i and 2i + 1 of the one below. -/
def tree (op : Nat → Nat → Nat × FFlags) (leaf : Nat → Nat) : Nat → Nat → Nat × FFlags
  | 0, i => (leaf i, noFlags)
  | n + 1, i =>
    let a := tree op leaf n (2 * i)
    let b := tree op leaf n (2 * i + 1)
    let r := op a.1 b.1
    (r.1, ⟨a.2.nv || b.2.nv || r.2.nv, a.2.dz || b.2.dz || r.2.dz, a.2.of || b.2.of || r.2.of, a.2.uf || b.2.uf || r.2.uf, a.2.nx || b.2.nx || r.2.nx⟩)

/-- A reduction: lane 0 takes the root of the tree over the enabled lanes, the others entering as the identity; every other lane becomes zero (R129, R161). -/
def Reduces (mk : Vec2 → Instr) (types : List LaneType) (ident : LaneType → Nat) (op : LaneType → Nat → Nat → Nat × FFlags) : Prop :=
  ∀ (f : Vec2) (s s1 : State) (v : Vec), f.t ∈ types → s.readV f.i f.a = some (.val v, s1) →
    let leaf := fun j => if (valK s f.k).getLsbD j then el (wid f.t) v j else ident f.t
    let r := tree (op f.t) leaf (Nat.log2 (lanesOf f.t)) 0
    ∃ t, exec (mk f) s = .next t ∧ VLands s1 t (vecHome s f.i f.d) f.t allOn allOn 6 fun j => if j = 0 then r else (0, noFlags)

/-- The 480-bit number of an FP32 value in units of 2^−149; an infinity and a NaN add nothing (R123). -/
def f32Units (v : Nat) : Int :=
  let ex := v / 2 ^ 23 % 256
  let fr := v % 2 ^ 23
  if ex = 255 then 0 else (if v / 2 ^ 31 % 2 = 1 then -1 else 1) * (if ex = 0 then fr else (fr + 2 ^ 23) * 2 ^ (ex - 1) : Nat)

end Sys2Proof.Stated

/-- VRED, VSUMX and VSUMXC (R123, R124, R128, R129, R161, R162). -/
def Obligations.VectorReductionResults : Prop :=
  Reduces .vredadd (intTypes ++ fltTypes) (fun t => if t ∈ fltTypes then 2 ^ (wid t - 1) else 0) (fun t a b => byKind t (ival t a + ival t b) fun f => fAdd f a b) ∧
  Reduces .vredmin (intTypes ++ fltTypes) (fun t => if t ∈ fltTypes then (fmtOf t).top + 1 else ipat t (tmax t))
    (fun t a b => byKind t (min (ival t a) (ival t b)) fun f => fPick f false a b) ∧
  Reduces .vredmax (intTypes ++ fltTypes) (fun t => if t ∈ fltTypes then 2 ^ (wid t - 1) + (fmtOf t).top + 1 else ipat t (tmin t))
    (fun t a b => byKind t (max (ival t a) (ival t b)) fun f => fPick f true a b) ∧
  Reduces .vredand intTypes (fun t => 2 ^ wid t - 1) (fun _ a b => bitsOnly (a &&& b)) ∧
  Reduces .vredor intTypes (fun _ => 0) (fun _ a b => bitsOnly (a ||| b)) ∧
  Reduces .vredxor intTypes (fun _ => 0) (fun _ a b => bitsOnly (a ^^^ b)) ∧
  (∀ (i : Bool) (k : BitVec 3) (d a : BitVec 5) (s s1 : State) (v : Vec), s.readV i a = some (.val v, s1) →
    let old := (s.me.v.get (vecHome s i d)).toNat % 2 ^ 512
    let on := (enabled (valK s k) 64).map (el 32 v)
    ∃ cell : Nat, exec (.vsumx i k d a) s = .next (landed s1 (.v (vecHome s i d) (BitVec.ofNat 2048 (2 ^ 512 - 1)) (BitVec.ofNat 2048 cell)) 8) ∧
      ((cell % 2 ^ 480 : Nat) : Int) = ((old % 2 ^ 480 : Nat) + (on.map f32Units).sum) % 2 ^ 480 ∧
      cell.testBit 481 = (old.testBit 481 || on.any fun x => x == 0x7F800000) ∧ cell.testBit 482 = (old.testBit 482 || on.any fun x => x == 0xFF800000) ∧
      (old / 2 ^ 484 = 0 → cell.testBit 480 = (old.testBit 480 || on.any fun x => decide (0x7F800000 < x % 2 ^ 31)))) ∧
  (∀ (i : Bool) (d a : BitVec 5) (s s1 : State) (v : Vec), s.readV i a = some (.val v, s1) →
    let c := v.toNat % 2 ^ 512
    let fix := snum 480 (c % 2 ^ 480)
    let nan := c.testBit 480 || c / 2 ^ 484 != 0
    let both := c.testBit 483 || (c.testBit 481 && c.testBit 482)
    let r : Nat × FFlags :=
      if nan || both then (0x7FC00000, ⟨both, false, false, false, false⟩)
      else if c.testBit 481 then (0x7F800000, noFlags) else if c.testBit 482 then (0xFF800000, noFlags)
      else if fix = 0 then (0, noFlags) else fp32.round rne false (decide (fix < 0)) fix.natAbs (-149)
    ∃ t, exec (.vsumxc i d a) s = .next t ∧ VLands s1 t (vecHome s i d) .f32 allOn allOn 8 fun j => if j = 0 then r else (0, noFlags))

namespace Sys2Proof.Stated

/-- The order of a compare on numbers (R158); UNORD holds of no two numbers. -/
def vcond (c : VCond) (x y : Int) : Bool :=
  match c with
  | .eq => decide (x = y) | .ne => decide (x ≠ y) | .lt => decide (x < y) | .ge => decide (x ≥ y) | .le => decide (x ≤ y) | .gt => decide (x > y)
  | .unord => false

/-- The number that a lane stands for: of an integer type, of E8M0 (2^(e − 127), and 0xFF as NaN), or of a format (R113, R114, R163). -/
def numberOf (t : LaneType) (v : Nat) : FNum :=
  if t ∈ intTypes then .fin (decide (ival t v < 0)) (ival t v).natAbs 0
  else if t = .e8m0 then (if v = 255 then .nan false else .fin false 1 ((v : Int) - 127))
  else (fmtOf t).value v

/-- A mask result: the low L bits of k[d], the bits above zero. -/
def KLands (i : Instr) (s : State) (d : BitVec 3) (t : LaneType) (bit : Nat → Bool) : Prop :=
  ∃ m : Mask, exec i s = .next (landed s (.k ⟨d.toNat, d.isLt⟩ m) 1) ∧ ∀ j, m.getLsbD j = (decide (j < lanesOf t) && bit j)

end Sys2Proof.Stated

/-- VCMP, the mask words, VCVT and VEXT (R158, R163, R165, R167): the bits of k[d], the counts, the converted elements with zeros above them whatever the mask, and the lane that
VEXT lands in another file. -/
def Obligations.VectorCompareMaskResults : Prop :=
  (∀ (f : VCmpOp) (s s1 s2 : State) (a b : Vec), f.t ∈ .b8 :: intTypes → s.readV f.i f.a = some (.val a, s1) → s1.readV f.i f.b = some (.val b, s2) →
    ∃ m : Mask, exec (.vcmp f) s = .next (landed s2 (.k ⟨f.d.toNat, f.d.isLt⟩ m) 2) ∧
      ∀ j, m.getLsbD j = (decide (j < lanesOf f.t) && (valK s f.k).getLsbD j && vcond f.cc (ival f.t (el (wid f.t) a j)) (ival f.t (el (wid f.t) b j)))) ∧
  (∀ (f : VCmpOp) (s s1 s2 : State) (a b : Vec), f.t ∈ fltTypes → s.readV f.i f.a = some (.val a, s1) → s1.readV f.i f.b = some (.val b, s2) →
    let w := wid f.t
    let inf := (fmtOf f.t).top + 1
    let mag := fun x : Nat => x % 2 ^ (w - 1)
    let num := fun x : Nat => if x < 2 ^ (w - 1) then (mag x : Int) else -(mag x : Int)
    let quiet := fun x : Nat => x.testBit ((fmtOf f.t).sb - 1)
    let on := (enabled (valK s f.k) (lanesOf f.t)).any fun j =>
      (decide (inf < mag (el w a j)) && !quiet (el w a j)) || (decide (inf < mag (el w b j)) && !quiet (el w b j))
    ∃ m : Mask, (let u := landed s2 (.k ⟨f.d.toNat, f.d.isLt⟩ m) 2
        exec (.vcmp f) s = .next (if on then landed u (.flags 16) 2 else u)) ∧
      ∀ j, m.getLsbD j = (decide (j < lanesOf f.t) && (valK s f.k).getLsbD j &&
        (if inf < mag (el w a j) ∨ inf < mag (el w b j) then decide (f.cc = .ne ∨ f.cc = .unord) else vcond f.cc (num (el w a j)) (num (el w b j))))) ∧
  (∀ (d a b : BitVec 3) (t : LaneType) (s : State), KLands (.kand d a b t) s d t (fun j => (valK s a).getLsbD j && (valK s b).getLsbD j) ∧
    KLands (.kor d a b t) s d t (fun j => (valK s a).getLsbD j || (valK s b).getLsbD j) ∧ KLands (.kxor d a b t) s d t (fun j => (valK s a).getLsbD j ^^ (valK s b).getLsbD j) ∧
    KLands (.knot d a t) s d t (fun j => !(valK s a).getLsbD j) ∧ KLands (.kmov d a t) s d t (fun j => (valK s a).getLsbD j)) ∧
  (∀ (i : Bool) (d : BitVec 5) (a : BitVec 3) (p : BitVec 4) (t : LaneType) (s : State),
    let on := enabled (valK s a) (lanesOf t)
    let put := fun c : Nat => Host.Outcome.next (landed (landed s (.v (vecHome s i d) (BitVec.allOnes 2048) (BitVec.ofNat 2048 c)) 1) (.p ⟨p.toNat, p.isLt⟩ (decide (on ≠ []))) 1)
    exec (.kpopc i d a p t) s = put on.length ∧ exec (.kfirst i d a p t) s = put (on.headD (lanesOf t))) ∧
  (∀ (f : CvtOp) (s s1 : State) (v : Vec), s.readV f.i f.a = some (.val v, s1) → f.src ∈ intTypes → f.dst ∈ intTypes →
    let n := min (lanesOf f.src) (lanesOf f.dst)
    ∃ r : Vec, exec (.vcvt f) s = .next (landed s1 (.v (vecHome s f.i f.d) (laneSel f.dst (valK s f.k ||| allOn <<< n)) r) 3) ∧
      (∀ j < n, (valK s f.k).getLsbD j = true → let x := ival f.src (el (wid f.src) v j)
        el (wid f.dst) r j = ipat f.dst (if f.sat then max (tmin f.dst) (min x (tmax f.dst)) else x)) ∧
      (∀ j < lanesOf f.dst, n ≤ j → el (wid f.dst) r j = 0)) ∧
  (∀ (f : CvtOp) (s s1 : State) (v : Vec), s.readV f.i f.a = some (.val v, s1) → f.src ≠ .b8 → f.dst ≠ .b8 → f.src ∉ intTypes ∨ f.dst ∉ intTypes →
    let n := min (lanesOf f.src) (lanesOf f.dst)
    let q := s.me.v.get (Fin.ofNat 32 (index 32 f.i f.a.toNat s.me.vb.toNat + 1))
    let en := valK s f.k &&& ~~~(allOn <<< n)
    ∃ t, exec (.vcvt f) s = .next t ∧ VLands s1 t (vecHome s f.i f.d) f.dst (valK s f.k ||| allOn <<< n) en 3 fun j =>
      if n ≤ j then (0, noFlags)
      else
        let x := numberOf f.src (el (wid f.src) v j)
        let r : Round := ⟨f.rm, 2048 / n, el (2048 / n) q j⟩
        if f.dst ∈ intTypes then toInteger (wid f.dst) (decide (f.dst ∈ signedTypes)) r x else if f.dst = .e8m0 then toE8m0 r f.sat x else (fmtOf f.dst).convert r f.sat x) ∧
  (∀ (i : Bool) (a l : BitVec 5) (s s1 : State) (v : Vec), s.readV i a = some (.val v, s1) →
    let w := nword (el 64 v l.toNat)
    (∀ r t, s1.writeX i r w 3 = some t → exec (.vext i a l (.x r)) s = .next t) ∧
    (∀ r, exec (.vext i a l (.y r)) s = .next (landed s1 (.y (homeY s i r) w) 3)) ∧
    (∀ r : BitVec 4, exec (.vext i a l (.m r)) s = .next (landed s1 (.m ⟨r.toNat, r.isLt⟩ w) 3)) ∧
    (∀ r : BitVec 4, exec (.vext i a l (.c r)) s = .next (landed s1 (.c (Fin.ofNat 16 (index 16 i r.toNat s.me.cb.toNat)) w) 3)))

namespace Sys2Proof.Stated

/-- The number of a finite encoding without its sign (R113). -/
def mag (f : FloatFmt) (c : Nat) : ℚ :=
  let e := c / 2 ^ f.sb
  let m := c % 2 ^ f.sb
  if e = 0 then (m : ℚ) * (2 : ℚ) ^ (1 - (f.bias : Int) - f.sb) else ((m + 2 ^ f.sb : Nat) : ℚ) * (2 : ℚ) ^ ((e : Int) - f.bias - f.sb)
def isFin (f : FloatFmt) (c : Nat) : Prop := c < 2 ^ (f.eb + f.sb + 1) ∧ c % 2 ^ (f.eb + f.sb) ≤ f.top
def sgnd (f : FloatFmt) (c : Nat) : ℚ := if c.testBit (f.eb + f.sb) then -mag f (c % 2 ^ (f.eb + f.sb)) else mag f c
def signNum (neg : Bool) : ℚ := if neg then -1 else 1

/-- The result is the rounding to nearest even of an exact number other than zero. -/
def RoundOf (f : FloatFmt) (x : ℚ) (r : Nat × FFlags) : Prop :=
  ∃ (neg : Bool) (m : Nat) (e : Int), m ≠ 0 ∧ x = signNum neg * m * (2 : ℚ) ^ e ∧ r = f.round rne false neg m e

def formats : List FloatFmt := [fp32, fp16, bf16, e4m3, e5m2, e2m1]

end Sys2Proof.Stated

/-- round_rne (R113, R119): of every exact number other than zero, in every format, the result is the nearest finite encoding of its sign, of two as near the even one, and NX says that it is
not exact; it overflows exactly where the number lies half a unit beyond the greatest finite one, or more. To E8M0 (R121) it is the nearest power of two, of two as near the one of
even code; that the number above the largest counts as 2^128 is log 29. The finite sums, differences, products and fused products of R156 are such roundings of their exact
results. -/
def Obligations.RoundingIsNearestEven : Prop :=
  (∀ f ∈ formats, ∀ (neg : Bool) (m : Nat) (e : Int), m ≠ 0 →
    let x : ℚ := m * (2 : ℚ) ^ e
    let r := f.round rne false neg m e
    let half : ℚ := (mag f f.top - mag f (f.top - 1)) / 2
    (r.2.of = false → ∃ c ≤ f.top, r.1 = c + (if neg then 2 ^ (f.eb + f.sb) else 0) ∧ r.2.nx = decide (mag f c ≠ x) ∧
      ∀ c' ≤ f.top, |mag f c - x| ≤ |mag f c' - x| ∧ (|mag f c - x| = |mag f c' - x| → c' = c ∨ c % 2 = 0)) ∧
    (r.2.of = true ↔ mag f f.top + half < x ∨ (mag f f.top + half = x ∧ f.top % 2 = 1))) ∧
  (∀ (m : Nat) (e : Int), m ≠ 0 →
    let x : ℚ := m * (2 : ℚ) ^ e
    let r := toE8m0 rne false (.fin false m e)
    let pow := fun c : Nat => (2 : ℚ) ^ ((c : Int) - 127)
    (r.2.of = false → r.1 ≤ 254 ∧ r.2.nx = decide (pow r.1 ≠ x) ∧ ∀ c ≤ 254, |pow r.1 - x| ≤ |pow c - x| ∧ (|pow r.1 - x| = |pow c - x| → c = r.1 ∨ r.1 % 2 = 0)) ∧
    (r.2.of = true ↔ pow 254 * 3 / 2 < x)) ∧
  (∀ f ∈ [fp32, fp16, bf16], ∀ a b d : Nat, isFin f a → isFin f b → isFin f d →
    (sgnd f a + sgnd f b ≠ 0 → RoundOf f (sgnd f a + sgnd f b) (fAdd f a b)) ∧
    (sgnd f a - sgnd f b ≠ 0 → RoundOf f (sgnd f a - sgnd f b) (fSub f a b)) ∧
    (sgnd f a * sgnd f b ≠ 0 → RoundOf f (sgnd f a * sgnd f b) (fMul f a b)) ∧
    (sgnd f a * sgnd f b + sgnd f d ≠ 0 → RoundOf f (sgnd f a * sgnd f b + sgnd f d) (fFma f a b d)))


/-! ### Events of the core -/

namespace Sys2Proof.Stated

/-- The row answers a next state of which `P` holds. -/
def Answers (i : Instr) (s : State) (P : State → Prop) : Prop := ∃ t, exec i s = .next t ∧ P t

/-- A field of a word: `n` bits from bit `lo`. -/
def fld (w : Word) (lo n : Nat) : Nat := w.toNat / 2 ^ lo % 2 ^ n

/-- The strand context in issue has entered its handler for a precise trap (R61, R62, R64, R65). -/
def Entered (s t : State) (cause sub slot word : Nat) (addr : Word) : Prop :=
  let x := t.ctx s.core.cur
  t.verdict = .trapped ∧ x.hm = true ∧ x.pc = nword (s.me.trapVec.toNat / 4 % 2 ^ 38 * 4) ∧ x.nat = s.me.trapVec.toNat.testBit 0 ∧
  x.trapCause = causeOf cause sub slot s.me.sealed ∧ x.trapWord = nword word ∧ x.trapAddr = addr ∧ x.trapPc = trapWordOf s.issue.addr s.me.nat ∧
  x.x = s.me.x ∧ x.y = s.me.y ∧ x.pend = s.me.pend ∧ t.dm = s.dm ∧ ∀ c, c ≠ s.core.cur → t.ctx c = s.ctx c

/-- Words of a strand record (R9). -/
def recWord (s : State) (a i : Nat) : Word := s.devWord (a + 8 * i)

end Sys2Proof.Stated

/-- Traps of the encoding, asynchronous traps, the interrupt, the selector, the start, resumption and eviction of strands (R31, R33, R34, R62 to R65, R67, R133). The model's own in it: how the service context runs and ends (log 16), that an asynchronous trap is taken during a wait (log 52), where a leaving strand stands until its stores are acknowledged (log 106). -/
def Obligations.TrapAndSelectorEvents : Prop :=
  (∀ (s : State) (slot sub : Nat) (word : Word32) (addr : Word), s.core.cur ≠ svc → s.me.hm = false →
    Answers (.illegalInstruction slot sub word) s (fun t => Entered s t 1 sub slot word.toNat 0) ∧
    Answers (.illegalBundle slot sub word) s (fun t => Entered s t 2 sub slot word.toNat 0) ∧
    Answers (.fetchBoundTrap sub word addr) s (fun t => Entered s t 3 sub 7 word.toNat addr)) ∧
  (∀ (s : State) (c : Fin 4) (a : Async), (s.ctx (strandCtx c)).strand.isSome = true → (s.ctx (strandCtx c)).hm = false →
    (s.ctx (strandCtx c)).svcHeld = false → (s.ctx (strandCtx c)).asyncs = [a] → a.caps = none →
    Answers (.asyncTrapEntry c) s fun t =>
      let x := s.ctx (strandCtx c)
      let y := t.ctx (strandCtx c)
      y.asyncs = [] ∧ y.hm = true ∧ y.pc = nword (x.trapVec.toNat / 4 % 2 ^ 38 * 4) ∧ y.trapPc = trapWordOf x.pc x.nat ∧
      y.trapCause = nword (a.trap.sub % 2 ^ 16 * 2 ^ 16 + (if x.sealed then 2 ^ 12 else 0) + 2 ^ 11 + a.trap.slot % 8 * 2 ^ 8 + a.trap.cause % 256) ∧
      y.trapWord = a.trap.word ∧ y.trapAddr = a.trap.addr ∧ y.trapOpd = a.trap.opd ∧ y.aside = x.waits) ∧
  (∀ s : State, s.core.irq = true → (s.ctx svc).hm = false → Answers .interrupt s fun t =>
    t.core.cur = svc ∧ t.core.irq = false ∧ (t.ctx svc).hm = true ∧ (t.ctx svc).pc = nword ((s.ctx svc).trapVec.toNat / 4 % 2 ^ 38 * 4) ∧
    (t.ctx svc).trapPc = trapWordOf (s.ctx svc).pc (s.ctx svc).nat ∧ t.core.serving = true ∧
    (s.core.cur ≠ svc → t.core.resumeAt.val = (s.core.cur.val + 1) % 5) ∧ (∀ c, c ≠ svc → t.ctx c = s.ctx c) ∧ t.dm = s.dm) ∧
  (∀ s : State, 4096 ≤ s.me.quota → Answers .issueQuotaSwitch s fun t =>
    t.core.cur.val = (s.core.cur.val + 1) % 5 ∧ t.ctx s.core.cur = { s.me with quota := 0 } ∧ t.dm = s.dm) ∧
  (∀ (s : State) (v : Word) (c : Fin 4), c.val = s.core.selReg.toNat → s.core.svcEn = true → (s.ctx (strandCtx c)).svcHeld = true →
    Answers (.resumeWrite v) s fun t =>
      let x := s.ctx (strandCtx c)
      let y := t.ctx (strandCtx c)
      y.svcHeld = false ∧ y.hm = false ∧ y.pc = nword (v.toNat / 4 % 2 ^ 38 * 4) ∧ y.nat = v.toNat.testBit 0 ∧ y.waits = x.aside ∧
      y.xfer = if v = x.entryPc ∧ x.xferAt = true then x.xfer else none) ∧
  (∀ (s : State) (c : Fin 4) (u : Strand) (q : QRec), (s.ctx (strandCtx c)).strand = some u → (s.ctx (strandCtx c)).evict = none →
    (∀ l r, (s.ctx (strandCtx c)).waits ≠ .leave l :: r) → (∀ d : Fin 4, (s.ctx (strandCtx d)).strand.isSome = true) → q ∈ s.dl.records → q.place = none →
    u.prio.toNat + 2 ≤ min 7 (q.prio.toNat + (s.dl.dcyc.toNat - q.since) / 2 ^ 20) →
    Answers (.evictionRequest c) s fun t => t = s.setCtx (strandCtx c) { s.ctx (strandCtx c) with evict := some s.dl.dcyc.toNat }) ∧
  (∀ (s : State) (c : Fin 4) (u : Strand) (n : Nat), let x := s.ctx (strandCtx c)
    x.strand = some u → x.evict = some n → n + 2 ^ 16 ≤ s.dl.dcyc.toNat → x.sealed = false → x.mirrorAct = false → x.waits = [] → x.aside = [] →
    Answers (.evictionTimeout c) s fun t => (t.ctx (strandCtx c)).buf = [] ∧ (t.ctx (strandCtx c)).pend = [] ∧ (t.ctx (strandCtx c)).reqs = [] ∧
      ((∀ e ∈ x.streams, e.2 = 0) → s.core.l1 = [] → s.cl.l2 = [] → (∀ f ∈ s.core.flying, f.ctx ≠ svc) → (t.ctx (strandCtx c)).strand = none ∧ ∃ q ∈ t.dl.records, q.addr = u.recAddr) ∧
      ((∃ e ∈ x.streams, e.2 ≠ 0) → s.core.l1 = [] → s.cl.l2 = [] → (t.ctx (strandCtx c)).strand = some u ∧ (t.ctx (strandCtx c)).waits = [.leave .evict])) ∧
  (∀ (s : State) (c : Fin 4) (q : QRec), s.nextRecord c = some q → Answers (.strandStart c) s fun t =>
    let y := t.ctx (strandCtx c)
    (∃ u, y.strand = some u ∧ u.recAddr = q.addr ∧ u.asid.toNat = fld (recWord s q.addr 0) 51 13 ∧ u.vf.toNat = fld (recWord s q.addr 0) 45 6 ∧
      u.job.toNat = fld (recWord s q.addr 1) 52 12 ∧ u.iter.toNat = fld (recWord s q.addr 2) 0 32) ∧
    y.pc = nword (fld (recWord s q.addr 0) 2 38 * 4) ∧ y.nat = (recWord s q.addr 2).toNat.testBit 32 ∧ y.sealed = false ∧ y.quota = 0 ∧
    (∀ k : Fin 5, y.x.get ⟨k.val + 1, by omega⟩ = recWord s q.addr (k.val + 3)) ∧ y.xb = 0 ∧ y.yb = 0 ∧ y.vb = 0 ∧ y.cb = 0 ∧ y.fflags = 0 ∧
    t.dl.records = s.dl.records.erase q)

namespace Sys2Proof.Stated

/-- What an accepted partition write needs (R136): the context idle, its ranges within the storage and apart from those of the other contexts. -/
def PartOk (s : State) (c : Fin 4) (second : Bool) (v : Word) : Prop := s.ctxCode c = 0 ∧
  (∀ r ∈ partRanges second v, r.1 + r.2.1 ≤ r.2.2) ∧
  ∀ d : Fin 4, d ≠ c → ∀ k : Fin 2, ∀ r q : Nat × Nat × Nat, (partRanges second v)[k]? = some r →
    (partRanges second (if second then s.core.partB.get d else s.core.partA.get d))[k]? = some q →
    r.2.1 = 0 ∨ q.2.1 = 0 ∨ r.1 + r.2.1 ≤ q.1 ∨ q.1 + q.2.1 ≤ r.1

end Sys2Proof.Stated

/-- Writes of the core's, the cluster's and the die's registers (R77, R131, R136, R138 to R142, R195, R242, R287, R340) and the core's storage errors (R150, R151), the
instruction cache and write-backs (R147, R213). -/
def Obligations.ConfigurationEvents : Prop :=
  (∀ (s : State) (c : Fin 4) (v : Word), PartOk s c false v → Answers (.partitionWrite c false v) s fun t =>
    t.core.partA.get c = nword (fld v 32 11 * 2 ^ 32 + fld v 16 10 * 2 ^ 16 + fld v 8 7 * 2 ^ 8 + fld v 0 6) ∧ ∀ d, d ≠ c → t.core.partA.get d = s.core.partA.get d) ∧
  (∀ (s : State) (c : Fin 4) (v : Word), PartOk s c true v → Answers (.partitionWrite c true v) s fun t =>
    t.core.partB.get c = nword (fld v 45 13 * 2 ^ 45 + fld v 32 13 * 2 ^ 32 + fld v 5 6 * 2 ^ 5 + fld v 0 5) ∧ ∀ d, d ≠ c → t.core.partB.get d = s.core.partB.get d) ∧
  (∀ (s : State) (c : Fin 4) (b : Bool) (v : Word), s.ctxCode c ≠ 0 → exec (.partitionWrite c b v) s = .next s) ∧
  (∀ (s : State) (n : Fin 32) (v : Word),
    ((s.ring n).en = false → v.toNat.testBit 63 = true → s.ringError n (Ring.ofWord v true) = 0 → Answers (.ringConfigWrite n v) s fun t =>
      (t.ring n).en = true ∧ (t.ring n).ctx.toNat = fld v 58 2 ∧ (t.ring n).cons = v.toNat.testBit 57 ∧ (t.ring n).z.toNat = fld v 54 3 ∧
      (t.ring n).nslot.toNat = fld v 42 12 ∧ (t.ring n).slot.toNat = fld v 34 8 ∧ (t.ring n).base.toNat = fld v 0 13 ∧ (t.ring n).filled = 0 ∧
      (t.ring n).held = 0 ∧ (t.ring n).free = fld v 42 12 + 1 ∧ (t.ring n).err = 0 ∧ ∀ m, m ≠ n → t.ring m = s.ring m) ∧
    ((s.ring n).en = true → v.toNat.testBit 63 = true → exec (.ringConfigWrite n v) s = .next (s.setRing n { s.ring n with err := 5 })) ∧
    ((s.ring n).en = true → v.toNat.testBit 63 = false → s.ringBusy n = false → Answers (.ringConfigWrite n v) s fun t =>
      (t.ring n).en = false ∧ (t.ring n).filled = 0 ∧ (t.ring n).err = 0)) ∧
  (∀ (s : State) (n : Fin 32), let r := s.ring n
    r.en = true → r.filled < r.span → r.done = [] → Answers (.ringSlotComplete n ((r.head + r.filled) % r.slots)) s fun t => t.ring n = { r with filled := r.filled + 1 }) ∧
  (∀ (s : State) (v : Word),
    Answers (.registerWrite .service 0x104 v) s (fun t => t.core.svcEn = v.toNat.testBit 63 ∧ t.core.selReg.toNat = fld v 0 2) ∧
    Answers (.registerWrite .service 0x103 v) s (fun t => t.core.coreErr = nword (fld v 0 40)) ∧
    Answers (.registerWrite .service 0x216 v) s (fun t => t.cl.prismEn = v.toNat.testBit 0) ∧
    (∀ c : Fin 5, Answers (.registerWrite (.ctx c) 0x01D v) s fun t => (t.ctx c).trapVec = nword (fld v 2 38 * 4 + fld v 0 1)) ∧
    (s.pk.fail = 0 → Answers (.registerWrite .hyper (0x10000 + 0x10000) v) s (fun t => t.dm.asidt = nword (fld v 17 23 * 2 ^ 17))) ∧
    (s.pk.fail = 0 → Answers (.registerWrite .hyper (0x10000 + 0x20008) v) s (fun t => t.dl.jobt = nword (fld v 13 27 * 2 ^ 13))) ∧
    (∀ num, s.pk.fail ≠ 0 → Answers (.registerWrite .hyper num v) s (fun t => t.pk.image = s.pk.image ++ [(num, v)] ∧ t.dm = s.dm ∧ t.dl = s.dl ∧ t.core = s.core)) ∧
    (∀ i : Fin 32, let x := s.dm.chanState i.val
      let y := fld v (2 * i.val) 2
      Answers (.registerWrite .lantern (0x10000 + 0x10040) v) s fun t =>
        t.dm.chanState i.val = if x = 0 ∧ y = 1 ∨ x = 1 ∧ y = 3 ∨ x = 3 ∧ y = 2 ∧ s.dm.maps i.val = false then y else x) ∧
    (∀ f, (s.dl.vf f).flr = false → s.pk.fail = 0 → Answers (.registerWrite (.page f) 0x1000 v) s fun t => t.dl = s.dl.setVf f { s.dl.vf f with head := BitVec.ofNat 32 v.toNat })) ∧
  (∀ (s : State) (c : Fin 4) (n : Fin 16) (v : Word), let p := s.port (strandCtx c) n
    s.ctxCode c = 0 → p.pushed = [] → p.unsent = [] → p.queue = [] → v.toNat.testBit 63 = true →
    Answers (.portBindWrite c n v) s fun t => let q := (t.ctx (strandCtx c)).ports.get n
      q.bound = true ∧ q.dep = false ∧ q.cred = 64 ∧ q.peer.ldie.toNat = fld v 48 12 ∧ q.peer.cluster.toNat = fld v 44 4 ∧ q.peer.core.toNat = fld v 40 3 ∧
      q.peer.ctx.toNat = fld v 36 2 ∧ q.peer.port.toNat = fld v 16 4) ∧
  (∀ (s : State) (idx : Nat),
    Answers (.coreStorageError .scratchpad idx false) s (fun t => t.core.flaws = ⟨.scratchpad, idx⟩ :: s.core.flaws ∧ fld t.core.coreErr 24 8 = 1 ∧
      fld t.core.coreErr 32 8 = idx * 32 / 0x10000 % 256 ∧ fld t.core.coreErr 16 8 = min 255 (fld s.core.coreErr 16 8 + 1) ∧ t.core.spad = s.core.spad) ∧
    Answers (.coreStorageError .scratchpad idx true) s (fun t => t.core.flaws = s.core.flaws ∧ fld t.core.coreErr 0 16 = min 65535 (fld s.core.coreErr 0 16 + 1)) ∧
    Answers (.coreStorageError .state idx false) s (fun t => ∃ u, t.agenda = .machineCheck 1 u :: s.agenda)) ∧
  (∀ (s : State) (line : Nat),
    ((∃ c : Fin 5, s.fetchable c (line * 256) = true) → Answers (.icacheFill line) s fun t =>
      ∃ v, lookup t.core.icache line = some v ∧ (s.core.icache.length < 8 → t.core.icache = insertAt s.core.icache line v) ∧ t.dm.mem = s.dm.mem) ∧
    ((∀ c : Fin 5, s.fetchable c (line * 256) = false) → exec (.icacheFill line) s = .next s)) ∧
  (∀ (s : State) (asid : BitVec 13) (addr : Nat), let k := asid.toNat * 2 ^ 59 + addr / 32
    (∀ a, lookup s.core.l1 k = some a → a.dirty ≠ 0 ∧ a.valid ≠ 0 → rising s.core.l1 = true → rising s.cl.l2 = true →
      Answers (.cacheWriteback false asid addr) s fun t => lookup t.core.l1 k = none ∧ ∃ b, lookup t.cl.l2 k = some b ∧ b.dirty = (s.l2At k).dirty ||| a.dirty ∧
        ∀ i : Nat, i < 256 → a.dirty.getLsbD (i / 8) = true → b.data.getLsbD i = a.data.getLsbD i) ∧
    ((s.l2At k).dirty = 0 → exec (.cacheWriteback true asid addr) s = .next s) ∧
    (rising s.cl.l2 = true → addr < 2 ^ 64 → (s.l2At k).dirty ≠ 0 → (s.l2At k).valid ≠ 0 → (s.l2At k).poison = false → s.dieOf (s.l2At k).job (addr / 2 ^ 52) = .own →
      Answers (.cacheWriteback true asid addr) s fun t =>
        (t.l2At k).dirty = 0 ∧ (t.l2At k).data = (s.l2At k).data ∧ (t.l2At k).valid = (s.l2At k).dirty ||| (s.l2At k).out ∧ t.core.l1 = s.core.l1))

namespace Sys2Proof.Stated

/-- Element `k` of `w` bits from byte `base` of a store of bytes: of 4 bits, the low nibble of a byte first (R48, R220). -/
def cellAt (m : Memory) (base w k : Nat) : Nat :=
  if w = 4 then (Memory.get m (base + k / 2)).toNat / 16 ^ (k % 2) % 16 else sumTo (w / 8) fun b => (Memory.get m (base + k * (w / 8) + b)).toNat * 256 ^ b

/-- The only tile operation, on a physical tile, may run its next row, and meets no uncorrectable error. -/
def RowRuns (s : State) (o : TileRec) : Prop :=
  SMap.wf (0 : Word32) s.core.acc = true ∧ s.core.ops = [o] ∧ o.placeholder = false ∧ o.engine.isSome = true ∧ o.asked = [] ∧ o.row < o.count ∧ o.row < 64 ∧ o.dst < 48 ∧
  (∀ t, o.src = some t → t < 48) ∧ o.frame = none ∧ (o.shape.get 0).toNat ≤ 64 ∧ (o.shape.get 1).toNat ≤ 64 ∧ s.rowLost o o.row = false ∧ o.result ≠ some []

/-- The row has the given first elements; every other element of the tile is as before, and the operation goes on to its next row. -/
def RowIs (s t : State) (o : TileRec) (n : Nat) (val : Nat → Word32) : Prop :=
  (∀ i < 64, ∀ j < 64, t.accGet o.dst i j = if i = o.row ∧ j < n then val j else s.accGet o.dst i j) ∧ ∃ p, t.core.ops = [p] ∧ p.row = o.row + 1

/-- The scale byte of a row (or column) `r` at term `k` under the mode of the shape (R221): from byte 8 × ASB or 8 × BSB of the captured registers. -/
def scaleOf (h : Rec8) (e : Vector Word 32) (base r k g : Nat) : Nat :=
  let at_ := fun n : Nat => if h : 8 * base + n < 256 then (e.get ⟨(8 * base + n) / 8, by omega⟩).toNat / 256 ^ ((8 * base + n) % 8) % 256 else 0
  match (h.get 5).toNat with
  | 0 => 127
  | 1 => at_ r
  | 2 => at_ (k / g)
  | _ => at_ (r * ((h.get 2).toNat / 32) + k / 32)

/-- The element width, the terms of a group and the formats of A and B of an MMA format of a float class (R126, R220). -/
def mmaFloats : MmaFmt → Option (Nat × Nat × FloatFmt × FloatFmt)
  | .bf16 => some (16, 1, bf16, bf16)
  | .f16 => some (16, 1, fp16, fp16)
  | .e4m3 => some (8, 2, e4m3, e4m3)
  | .e5m2 => some (8, 2, e5m2, e5m2)
  | .e4m3e5m2 => some (8, 2, e4m3, e5m2)
  | .e5m2e4m3 => some (8, 2, e5m2, e4m3)
  | .mxfp4 => some (4, 32, e2m1, e2m1)
  | .i8 => none

end Sys2Proof.Stated

/-- Tile operations (R126, R144, R199, R200, R220, R221, R223, R226, R230 to R232): a waiting record goes to a home engine that holds its class and has room; rows become final one by one, in increasing order, and WM of a tile's newest
operation counts them; an operation whose rows are final retires, and INFL of its tile falls. The rows of TZERO become zero; MMA adds the products of a group at once, exactly, with one rounding or clamp a group, in increasing k; TTRP and
TADD compute every element before they write the first; TLOAD takes the words of memory; TSTORE enters its words in the phase buffer of the strand. -/
def Obligations.TileEvents : Prop :=
  ((∀ (s : State) (o : TileRec) (fmt : MmaFmt) (ra : Fin 32) (sa bBase : Nat) (bStore : Memory), RowRuns s o → o.kind = .mma fmt → o.result = none → o.aSlot = some (ra.val, sa) →
     (o.mb.toNat.testBit 5 = true → ∃ (rb : Fin 32) (sb : Nat), o.bSlot = some (rb.val, sb) ∧ bBase = (s.ring rb).slotAt sb ∧ bStore = s.core.spad) →
     (o.mb.toNat.testBit 5 = false → bBase = (s.core.wbBase o.ctx + o.mb.toNat / 2 ^ 16 % 2 ^ 10) * 256 ∧ bStore = s.core.wbuf) →
     let kk := (o.shape.get 2).toNat
     let n := (o.shape.get 1).toNat
     let a := fun (w k : Nat) => cellAt s.core.spad ((s.ring ra).slotAt sa + o.row * (o.shape.get 3).toNat) w k
     let b := fun (w k j : Nat) => cellAt bStore (bBase + k * (o.shape.get 4).toNat) w j
     (fmt = .i8 → kk % 2 = 0 → Answers (.tileRowFinal o.id) s fun t => RowIs s t o n fun j => BitVec.ofInt 32
       ((List.range (kk / 2)).foldl (fun (acc : Int) q => max (-2 ^ 31) (min (acc + snum 8 (a 8 (2 * q)) * snum 8 (b 8 (2 * q) j) + snum 8 (a 8 (2 * q + 1)) * snum 8 (b 8 (2 * q + 1) j)) (2 ^ 31 - 1)))
         (snum 32 (s.accGet o.dst o.row j).toNat))) ∧
     (∀ w g fa fb, mmaFloats fmt = some (w, g, fa, fb) → kk % g = 0 → (w = 4 → n % 2 = 0) → Answers (.tileRowFinal o.id) s fun t => RowIs s t o n fun j => BitVec.ofNat 32
       ((List.range (kk / g)).foldl (fun (acc : Nat) q =>
         let x := scaleOf o.shape o.scales (o.shape.get 6).toNat o.row (q * g) g
         let y := scaleOf o.shape o.scales (o.shape.get 7).toNat j (q * g) g
         groupF acc ((List.range g).map fun d => (fa.value (a w (q * g + d)), fb.value (b w (q * g + d) j))) ((x : Int) + y - 254) (x == 255 || y == 255))
         (s.accGet o.dst o.row j).toNat))) ∧
   (∀ (s : State) (o : TileRec) (src : Nat), RowRuns s o → o.src = some src → o.kind = .transpose ∨ o.kind = .addF32 ∨ o.kind = .addI32 →
     let m := (o.shape.get 0).toNat
     let n := (o.shape.get 1).toNat
     let rows := if o.kind = .transpose then n else m
     let cols := if o.kind = .transpose then m else n
     let val := fun i j => match o.kind with
       | .transpose => s.accGet src j i
       | .addF32 => BitVec.ofNat 32 (fAdd fp32 (s.accGet o.dst i j).toNat (s.accGet src i j).toNat).1
       | _ => BitVec.ofInt 32 (max (-2 ^ 31) (min (snum 32 (s.accGet o.dst i j).toNat + snum 32 (s.accGet src i j).toNat) (2 ^ 31 - 1)))
     (o.result = none → o.row = 0 → 0 < rows → Answers (.tileRowFinal o.id) s fun t => RowIs s t o cols (val 0) ∧
       ∃ p l, t.core.ops = [p] ∧ p.result = some l ∧ ∀ i < rows, ∀ j < cols, l[i * cols + j]? = some (val i j)) ∧
     (∀ l, o.result = some l → l.length = rows * cols → o.row < rows → Answers (.tileRowFinal o.id) s fun t => RowIs s t o cols (fun j => l.getD (o.row * cols + j) 0))) ∧
   (∀ (s s1 : State) (o : TileRec) (bs : List Byte), RowRuns s o → o.kind = .load → o.result = none → o.buf = [] →
     let n := (o.shape.get 1).toNat
     0 < n → s.engRead o.who .engRead (4 * n) none (rowPieces ((o.mb.toNat + o.row * (o.shape.get 3).toNat) % 2 ^ 64) (4 * n)) = (.bytes bs, s1) →
     Answers (.tileRowFinal o.id) s fun t => RowIs s t o n (fun j => BitVec.ofNat 32 (sumTo 4 fun b => (bs.getD (4 * j + b) 0).toNat * 256 ^ b)) ∧ t.dm = s1.dm) ∧
   (∀ (s : State) (o : TileRec), RowRuns s o → o.kind = .store → o.result = none → o.buf = [] →
     let n := (o.shape.get 1).toNat
     let a := (o.mb.toNat + o.row * (o.shape.get 3).toNat) % 2 ^ 64
     let c := strandCtx o.ctx
     let v := sumTo n fun j => (s.accGet o.dst o.row j).toNat * 2 ^ (32 * j)
     0 < n → (∀ p ∈ rowPieces a (4 * n), s.dieOf o.who.job (p.sec / 2 ^ 47) = .own) →
     (∀ w ∈ (s.ctx c).waits ++ (s.ctx c).aside, ∀ d ea x e f ax ord k st, w ≠ .atomic d ea x e f ax ord k st) →
     (s.storeFor c o.who none false 4 v (rowPieces a (4 * n))).1 = .ok →
     Answers (.tileRowFinal o.id) s fun t => t.core.acc = s.core.acc ∧ t.dm.mem = s.dm.mem ∧ (∃ p, t.core.ops = [p] ∧ p.row = o.row + 1) ∧
       ∀ x < 2 ^ 64, (inSpan a (4 * n) x → let q := (x + 2 ^ 64 - a) % 2 ^ 64
           bufByte (t.ctx c).buf x = some (BitVec.ofNat 8 ((s.accGet o.dst o.row (q / 4)).toNat / 256 ^ (q % 4)))) ∧
         (¬ inSpan a (4 * n) x → bufByte (t.ctx c).buf x = bufByte (s.ctx c).buf x))) ∧
  ((∀ (s : State) (o : TileRec) (e : Fin 16), s.core.ops = [o] → o.engine = none → o.placeholder = false → o.kind ≠ .zero → e.val = 2 * s.core.core.toNat →
     (let m := (s.vmask o.who.vf).toNat
      m.testBit e.val = true ∧ m.testBit (16 + o.kind.cls) = true) →
     (s.cl.engines.get e).bmap.toNat.testBit o.kind.cls = true → (s.cl.engines.get e).state = 0 → (s.cl.engines.get e).queued = 0 →
     Answers .tileDispatch s fun t => t.core.ops = [{ o with engine := some e.val, steered := s.tags }] ∧ t.cl.engines.get e = { s.cl.engines.get e with queued := 1 } ∧
       (∀ d, d ≠ e → t.cl.engines.get d = s.cl.engines.get d) ∧ t.dm = s.dm ∧ t.core.acc = s.core.acc) ∧
   (∀ (s : State) (o : TileRec), SMap.wf (0 : Word32) s.core.acc = true → s.core.ops = [o] → o.kind = .zero → o.placeholder = false → o.asked = [] → o.row < o.count →
     o.result = none → o.dst < 48 → s.rowLost o o.row = false →
     Answers (.tileRowFinal o.id) s fun t =>
       (∀ j < 64, t.accGet o.dst o.row j = 0) ∧ (∀ i j, i ≠ o.row → i < 64 → j < 64 → t.accGet o.dst i j = s.accGet o.dst i j) ∧
       t.core.ops = [{ o with row := o.row + 1, asked := [], buf := [] }] ∧ t.dm = s.dm ∧
       (t.tileWm (strandCtx o.ctx) o.dst).wm = (if s.lastOf (strandCtx o.ctx) o.dst = o.id then o.row + 1 else (s.tileWm (strandCtx o.ctx) o.dst).wm)) ∧
   (∀ (s : State) (o : TileRec), s.core.ops = [o] → o.placeholder = false → o.count ≤ o.row → o.src = none → o.dst < 48 → o.tiles = [o.dst] → o.engine = none →
     Answers (.tileOpRetire o.id) s fun t => t.core.ops = [] ∧
       (let u := s.tileWm (strandCtx o.ctx) o.dst
        (t.tileWm (strandCtx o.ctx) o.dst).infl = u.infl - 1 ∧ (t.tileWm (strandCtx o.ctx) o.dst).wm = (if s.lastOf (strandCtx o.ctx) o.dst = o.id then u.lastm else u.wm)) ∧
       (∀ d, d ≠ o.dst → t.tileWm (strandCtx o.ctx) d = s.tileWm (strandCtx o.ctx) d) ∧ t.core.acc = s.core.acc))

/-! ### Events of copies and of memory -/

namespace Sys2Proof.Stated

/-- The bytes of a store after `bs` has been written at `at_`, where storage admits it. -/
def Wrote (new old : Memory) (at_ : Nat) (bs : List Byte) (ok : Nat → Bool) : Prop :=
  ∀ a, Memory.get new a = if at_ ≤ a ∧ a < at_ + bs.length ∧ ok a = true then bs.getD (a - at_) 0 else Memory.get old a

end Sys2Proof.Stated

/-- Copy rows: one row into the scratchpad (R170, R174), a fault (R185, R186), a claim of a subscription (R177), a pop of a drain (R178), a grant of the
decompressor (R212), a segment that arrives (R355). -/
def Obligations.CopyEvents : Prop :=
  (∀ (s s1 : State) (c : Fin 4) (ch : Fin 8) (bs : List Byte) (p : Nat), let x := s.chan c ch
    Memory.wf s.core.spad = true → x.state = .running → x.op = .ms → x.parked = false → x.done = [] → x.sent = [] → x.asked = [] → x.buf = [] → 0 < x.esize →
    x.complete < x.rows → s.rowSource c x x.complete none = (.bytes bs, s1) → s.window (strandCtx c) (x.dst x.complete) x.esize = some p →
    Answers (.copyRowComplete c ch x.complete) s fun t =>
      Wrote t.core.spad s.core.spad p bs (fun a => !s.core.mappedOut a) ∧ (t.chan c ch).complete = x.complete + 1 ∧
      (t.chan c ch).wm = nword (x.dst x.complete + x.esize) ∧ (t.chan c ch).state = (if x.rows ≤ x.complete + 1 then .idle else .running) ∧
      (∀ d k, (d, k) ≠ (c, ch) → t.chan d k = s.chan d k)) ∧
  (∀ (s : State) (c : Fin 4) (ch : Fin 8) (row kind : Nat) (addr : Word) (off : Nat), let x := s.chan c ch
    x.state = .running → Answers (.copyFault c ch row kind addr off) s fun t => let y := t.chan c ch
      y.state = .stopped ∧ y.fault = kind ∧ y.row = row ∧ y.faultAddr = addr ∧ y.off = off ∧ y.wm = x.wm ∧ y.complete = x.complete ∧
      (∃ a, (t.ctx (strandCtx c)).asyncs = (s.ctx (strandCtx c)).asyncs ++ [a] ∧ a.trap.cause = 11 ∧ a.trap.sub = kind ∧ a.trap.addr = addr ∧ a.trap.slot = 4) ∧
      t.dm = s.dm ∧ t.core.rings = s.core.rings) ∧
  (∀ (s s2 : State) (c : Fin 4) (ch : Fin 8) (n : Fin 32) (slot : Nat) (q : Ring) (bs : List Byte), let x := s.chan c ch
    let y := { x with held := [(x.complete, slot)] }
    Memory.wf s.core.spad = true → x.state = .standing → x.op = .subs → x.installed = true → x.parked = false → x.done = [] → x.held = [] → x.sent = [] → x.asked = [] → x.buf = [] → x.n1 = 1 →
    0 < x.esize → x.complete < x.rows → x.src x.complete / 2 ^ 52 = x.src 0 / 2 ^ 52 → s.dieOf x.who.job (x.src 0 / 2 ^ 52) = .own →
    s.chanRing c x = some n → (s.ring n).claim = some (slot, q) → x.esize ≤ (s.ring n).bytes → bs.length = x.esize →
    ((s.setRing n q).setChan c ch y).rowSource c y x.complete none = (.bytes bs, s2) →
    Answers (.subscriptionClaim c ch) s fun t =>
      Wrote t.core.spad s.core.spad ((s.ring n).slotAt slot) (bs ++ List.replicate ((s.ring n).bytes - x.esize) 0) (fun a => !s.core.mappedOut a) ∧
      (t.ring n).tail = ((s.ring n).tail + 1) % (2 * (s.ring n).slots) ∧ (t.ring n).free = (s.ring n).free - 1 ∧ (t.chan c ch).complete = x.complete + 1) ∧
  (∀ (s : State) (c : Fin 4) (ch : Fin 8) (n : Fin 32), let x := s.chan c ch
    x.op = .drn → x.state = .running → x.installed = true → x.parked = false → x.nextStep < x.n2 → s.chanRing c x = some n → (s.ring n).filled ≠ 0 →
    Answers (.drainSlotPop c ch) s fun t => (t.ring n).head = ((s.ring n).head + 1) % (2 * (s.ring n).slots) ∧ (t.ring n).filled = (s.ring n).filled - 1 ∧
      (t.ring n).held = (s.ring n).held) ∧
  (∀ (s s1 : State) (c : Fin 4) (ch : Fin 8) (bs : List Byte), let x := s.chan c ch
    Memory.wf s.core.wbuf = true → x.op = .wload → x.state = .running → x.parked = false → x.asked = [] →
    (∀ d k, (d.val < c.val ∨ d = c ∧ k.val < ch.val) → let y := s.chan d k
      (y.op = .wload ∨ y.op = .zb32) → y.state = .running → y.parked = false → y.asked ≠ []) →
    x.out + 256 < x.esize → x.patch = none → bs.length = 256 → s.weightIn c ch ((x.src x.row + x.out) % 2 ^ 64) 256 0 = (some bs, s1) →
    Answers (.decompressorGrant c ch) s fun t =>
      Wrote t.core.wbuf s.core.wbuf (s.core.wbBase c * 256 + x.cb.toNat + x.row * x.esize + x.out) bs (fun _ => true) ∧
      (t.chan c ch).out = x.out + 256 ∧ (t.chan c ch).row = x.row ∧ (t.chan c ch).wm = x.wm ∧ t.cl.grant = s.core.core.toNat) ∧
  (∀ (s s1 : State) (p : CopyMsg) (far : List (Piece × BitVec 16 × BitVec 2)), p.red = none → p.last = true → p.remote = true →
    let a := (s.ownLdie p.job).toNat * 2 ^ 52 + p.off
    let w := whoOf p.asid p.vf p.job
    let r := getAt RStream.none s.fi.rstreams (rowStreamKey p.src)
    s.engProbe w .engWrite p.bytes.length (rowPieces a p.bytes.length) = (none, far, s1) → r.unacked = 0 →
    Answers (.copyRowSegment p) s fun t =>
      t.dm = (s1.engWrite w .engWrite p.bytes.length p.bytes (rowPieces a p.bytes.length)).dm ∧
      (t.fi.job p.job).c = (s.fi.job p.job).c + 1 ∧
      (∀ fid die, t.dieOf p.job p.src.ldie.toNat = .other fid die → ⟨fid, die, false, .ack p.job p.src true ((r.performed + 1) % 2 ^ 32) p.serial⟩ ∈ t.fi.outbox))

/-- Requests and replies between dies (R26, R95, R96, R102, R262, R272, R355): a reply fills the result that waits for it, or aborts the region; the home performs sectors, atomics and reads, counts them and answers. That a strand leaves its context when the last acknowledgement has come is log 106. -/
def Obligations.MemoryEvents : Prop :=
  (∀ (s : State) (tag : Nat) (c : Fin 5) (q : Req) (bs : List Byte), s.findReq tag = some (c, q) →
    let Filled := fun (t : State) => (∀ r ∈ (t.ctx c).reqs, r.tag ≠ tag) ∧
      (∀ p ∈ (s.ctx c).pend, ∀ r n sx, p.id = q.pend → p.need = [tag] → p.w = .yload r 0 n sx →
        let got := match q.kind with
          | .load parts _ => (parts.map fun e => ofBytes ((bs.drop e.at_).take e.len) * 2 ^ (8 * e.pos)).sum
          | .probe | .atomic _ | .check => ofBytes (bs.take q.len)
        ∃ p' ∈ (t.ctx c).pend, p'.id = p.id ∧ p'.off = p.off ∧ p'.need = [] ∧ p'.w = .yload r (BitVec.ofNat 2048 got) n sx) ∧
      ((s.core.l1 = [] ∧ s.cl.l2 = []) ∨ (∀ parts fc, q.kind ≠ .load parts (some fc)) → t.dm = s.dm ∧ ∀ d, d ≠ c → t.ctx d = s.ctx d)
    let Cached := fun (t : State) => ∀ parts fc, q.kind = .load parts (some fc) → bs[q.len]? = some 0 → 0 < q.len → s.core.l1 = [] → s.cl.l2 = [] →
      let e := t.l2At (ckey (s.who c).asid (q.addr.toNat / 32))
      e.valid = BitVec.ofNat 32 ((2 ^ q.len - 1) * 2 ^ (q.addr.toNat % 32)) ∧ e.dirty = 0 ∧ e.fc = fc ∧
      e.data = BitVec.ofNat 256 (ofBytes (bs.take q.len) * 2 ^ (8 * (q.addr.toNat % 32)))
    let cleared := (s.ctx c).reqs.filter fun r => r.tag != tag
    let Aborted := fun (u : Strand) (t : State) => (t.ctx c).buf = [] ∧ (t.ctx c).reqs = [] ∧
      ((∀ e ∈ (s.ctx c).streams, e.2 = 0) → s.core.l1 = [] → s.cl.l2 = [] → (∀ f ∈ s.core.flying, f.ctx ≠ svc) →
        (t.ctx c).strand = none ∧ ∃ a ∈ t.dl.away, a.q.addr = u.recAddr ∧ a.addr = q.addr)
    Answers (.loadReply tag (.data bs)) s (fun t => Filled t ∧ Cached t ∧ (t.ctx c).sealed = (s.ctx c).sealed) ∧
    Answers (.atomicReply tag (.data bs)) s (fun t => Filled t ∧ (t.ctx c).sealed = (s.ctx c).sealed) ∧
    (q.kind ≠ .probe ∨ (∀ b ∈ bs, b = 0) → exec (.storeProbeReply tag (.data bs)) s = .next (s.setCtx c { s.ctx c with reqs := cleared })) ∧
    (∀ e, q.kind = .probe → lookup (s.ctx c).buf (q.addr.toNat / 32) = some e → (∃ b ∈ bs, b ≠ 0) → Answers (.storeProbeReply tag (.data bs)) s fun t =>
      (t.ctx c).reqs = cleared ∧ lookup (t.ctx c).buf (q.addr.toNat / 32) = some { e with uncached := true } ∧ t.dm = s.dm) ∧
    (∀ r, exec (.remoteReadReply tag r) s = if q.kind = .probe ∨ q.kind = .check then exec (.storeProbeReply tag r) s else exec (.loadReply tag r) s) ∧
    (∀ order sub u, (s.ctx c).strand = some u → (s.ctx c).sealed = false → order ≠ 0 → ∀ i ∈ ([.loadReply tag (.failed order sub), .storeProbeReply tag (.failed order sub),
        .atomicReply tag (.failed order sub)] : List Instr), Answers i s (Aborted u)) ∧
    (∀ order sub u, (s.ctx c).strand = some u → (s.ctx c).sealed = true → order ≠ 0 → q.kind = .atomic true → Answers (.atomicReply tag (.failed order sub)) s (Aborted u)) ∧
    (∀ order sub u, c ≠ svc → (s.ctx c).strand = some u → (s.ctx c).sealed = true → order ≠ 0 → Answers (.loadReply tag (.failed order sub)) s fun t =>
      ((∀ e ∈ (s.ctx c).streams, e.2 = 0) → (t.ctx c).strand = none) ∧ ((∃ e ∈ (s.ctx c).streams, e.2 ≠ 0) → (t.ctx c).waits = [.leave .over]))) ∧
  (∀ (s s1 : State) (p : StoreMsg) (pa : Nat) (l : Word) (b : Nat), Memory.wf s.dm.mem = true → p.remote = true → p.flush = false → (s.rstream p.src).unacked < 63 →
    s.access (whoOf p.asid p.vf p.job) (p.off / 32 * 32) .store (if p.mask.toNat < 256 then 8 else 1) = (.ok (pa, l), s1) → inMmio pa = false →
    s1.dm.backing (pa / 32 * 32) = some b →
    Answers (.storeSector p) s fun t =>
      (∀ a, (a / 32 ≠ b / 32 → Memory.get t.dm.mem a = Memory.get s.dm.mem a) ∧
        (a / 32 = b / 32 → p.mask.getLsbD (a % 32) = true → Memory.get t.dm.mem a = BitVec.ofNat 8 (p.data.toNat / 256 ^ (a % 32))) ∧
        (a / 32 = b / 32 → p.mask.getLsbD (a % 32) = false → s1.dm.plain (s1.tagFor pa l) (b / 32) = true → Memory.get t.dm.mem a = Memory.get s.dm.mem a)) ∧
      (t.fi.job p.job).c = (s.fi.job p.job).c + 1 ∧ (t.rstream p.src).performed = (s.rstream p.src).performed + 1 ∧
      (t.rstream p.src).unacked = (s.rstream p.src).unacked + 1 ∧ t.fi.outbox = s.fi.outbox) ∧
  (∀ (s s1 : State) (p : AtomicMsg) (old : Nat) (fid : BitVec 16) (die : BitVec 2), p.remote = true →
    s.homeAtomic (whoOf p.asid p.vf p.job) p.off p.axch p.f p.w p.e = (.ok old, s1) → s1.dieOf p.job p.src.ldie.toNat = .other fid die →
    Answers (.atomicPerform p) s fun t => t.dm = s1.dm ∧ (t.fi.job p.job).c = (s1.fi.job p.job).c + 1 ∧
      t.fi.outbox = s1.fi.outbox ++ [⟨fid, die, false, .atomReply p.job p.src p.tag (.data ((List.range 8).map fun i => BitVec.ofNat 8 (old % 2 ^ 64 / 256 ^ i)))⟩]) ∧
  (∀ (s s1 : State) (p : ReadMsg) (bs : List Byte) (fid : BitVec 16) (die : BitVec 2), let w := whoOf p.asid p.vf p.job
    let Replies := fun (l : List Byte) => Answers (.remoteReadRequest p) s fun t => t.dm = s1.dm ∧ t.fi.outbox = s1.fi.outbox ++ [⟨fid, die, false, .reply p.job p.src p.tag (.data l)⟩]
    s1.dieOf p.job p.src.ldie.toNat = .other fid die →
    (0 < p.len → s.homeSpan w (ReadMsg.kind p) (if p.engine || p.ws then p.len else min 8 p.len) (pieces 64 p.off p.len 0) = (.ok bs, s1) →
      (p.engine = true ∨ p.ws = true → Replies bs) ∧
      (∀ pa l u, p.engine = false → p.ws = false → s1.access w p.off .load 1 = (.ok (pa, l), u) → Replies (bs ++ [BitVec.ofNat 8 (fld l 6 2)]))) ∧
    (∀ pa l, p.len = 0 → s.access w p.off (ReadMsg.kind p) 1 = (.ok (pa, l), s1) → Replies [BitVec.ofNat 8 (fld l 6 2)])) ∧
  (∀ (s : State) (die : BitVec 12) (c : Fin 5) (addr : Word) (serial key : Nat) (job : BitVec 12) (counted : Bool), s.core.flying = [⟨die, c, addr, key, job, counted⟩] → s.dl.shootOwed = [] →
    Answers (.remoteAck die false ((getAt 0 s.core.acked die.toNat % 2 ^ 32 + 1) % 2 ^ 32) serial) s fun t =>
      t.core.flying = [] ∧ (t.ctx c).outst = (s.ctx c).outst - 1 ∧ t.dm = s.dm ∧ (rising s.cl.l2 = true → (t.l2At key).out = 0) ∧ ∀ d, d ≠ c → t.ctx d = s.ctx d) ∧
  (∀ (s : State) (src : UnitId) (fid : BitVec 16) (die : BitVec 2), let r := s.rstream src
    let acks := fun (t : State) => (t.rstream src).performed = r.performed ∧ (t.rstream src).unacked = 0 ∧ t.dm = s.dm ∧
      t.fi.outbox = s.fi.outbox ++ [⟨fid, die, false, .ack (s.jobOf src) src false (r.performed % 2 ^ 32) 0⟩]
    SMap.wf RStream.none s.fi.rstreams = true → s.dieOf (s.jobOf src) src.ldie.toNat = .other fid die →
    Answers (.acknowledgementRequest src) s acks ∧ (r.unacked ≠ 0 → r.seen + 4096 ≤ s.dl.dcyc.toNat → Answers (.ackTimeout src) s acks))

namespace Sys2Proof.Stated

/-- The ASID, length and page of a range word (R248, R300), and the entries that it covers. -/
def Covers (v : Word) (e : TlbEntry) : Prop :=
  e.asid.toNat = fld v 48 13 ∧ (fld v 40 4 = 15 ∨
    (e.page * (e.size / 2 ^ 16) < fld v 0 40 + 2 ^ fld v 40 4 ∧ fld v 0 40 < (e.page + 1) * (e.size / 2 ^ 16)))

/-- Two entries of 32 bits in a 64-bit staging word. -/
def stagedRow (s : State) (j : Fin 32) : Word32 := BitVec.ofNat 32 ((s.dm.stage.get ⟨j.val / 2, by omega⟩).toNat / 2 ^ (32 * (j.val % 2)))

end Sys2Proof.Stated

/-- The commands of the memory block (R247, R248, R251, R254, R259, R261) and memory errors (R263). The model's own in it: CODE of a write while a command is pending (log 97), what memory that nothing has written reads as (log 2), and the agenda (log 5). -/
def Obligations.DieMemoryEvents : Prop :=
  (∀ (s : State) (v : Word), s.dm.tlbDone = true → fld v 40 4 ≠ 13 → fld v 40 4 ≠ 14 → Answers (.tlbInvalidate v) s fun t =>
    t.dm.tlbDone = false ∧ t.dm.tlbinv = nword (fld v 48 13 * 2 ^ 48 + fld v 40 4 * 2 ^ 40 + fld v 0 40) ∧ (∀ e, e ∈ t.dm.tlb ↔ e ∈ s.dm.tlb ∧ ¬ Covers v e) ∧
    (∀ w ok, rising s.dm.roots = true → (s.asidRead (BitVec.ofNat 13 (fld v 48 13))).1 = .ok (w, ok) → getAt 0 t.dm.roots (fld v 48 13) = w) ∧
    t.dm.mem = s.dm.mem ∧ t.core = s.core) ∧
  (∀ s : State, exec .tlbInvalidateDone s = .next { s with dm := { s.dm with tlbDone := true } }) ∧
  (∀ (s : State) (v : Word), Memory.wf s.dm.mem = true → s.dm.sweepDone = true → 8 ≤ s.dm.room (s.asidAt (BitVec.ofNat 13 (fld v 0 13))) → Answers (.asidSweep v) s fun t =>
    t.dm.sweepDone = false ∧ t.dm.sweep.toNat = fld v 0 13 ∧ (∀ e ∈ t.dm.tlb, e.asid ≠ t.dm.sweep) ∧ fld (t.devWord (t.asidAt t.dm.sweep)) 0 2 = 2) ∧
  (∀ s : State, Memory.wf s.dm.mem = true → s.dm.sweepDone = false → 8 ≤ s.dm.room (s.asidAt s.dm.sweep) → (∀ f ∈ s.core.flying, f.ctx ≠ svc) → Answers .asidSweepDone s fun t =>
    t.dm.sweepDone = true ∧ fld (t.devWord (t.asidAt s.dm.sweep)) 0 2 = 0) ∧
  (∀ (s : State) (v : Word), s.dm.carveBusy = false → fld v 0 4 ≤ 8 → Answers (.carveResize v) s fun t =>
    t.dm.carveBusy = true ∧ t.dm.carveNext.toNat = fld v 0 4 ∧ t.agenda = .carveResizeDone :: s.agenda ∧ t.dm.mem = s.dm.mem) ∧
  (∀ s : State, Memory.wf s.dm.mem = true → s.dm.carveBusy = true → Answers .carveResizeDone s fun t =>
    t.dm.carveBusy = false ∧ t.dm.carveWays = s.dm.carveNext ∧
    ∀ a, Memory.get t.dm.mem a = if 0x8000000000 + s.dm.carveNext.toNat * 2 ^ 27 ≤ a ∧ a < 0x8100000000 then 0 else Memory.get s.dm.mem a) ∧
  (∀ (s : State) (v : Word), let f := fld v 0 21
    (s.dm.frameRetired f = true → Answers (.frameFree v) s fun t => t.dm.refused = true ∧ t.dm.scrub = s.dm.scrub ∧ t.dm.mem = s.dm.mem) ∧
    (s.dm.frameRetired f = false → Answers (.frameFree v) s fun t => t.dm.refused = false ∧ f ∈ t.dm.scrub ∧ t.dm.mem = s.dm.mem ∧
      (∀ e ∈ t.dm.tlb, ¬ (fld e.pte 16 24 ≤ f ∧ f < fld e.pte 16 24 + e.size / 2 ^ 16))) ∧
    Answers (.frameQuery v) s (fun t => t.dm.lastPend = s.dm.scrub.contains f ∧ t.dm.lastRet = s.dm.frameRetired f ∧ t.dm.mem = s.dm.mem)) ∧
  (∀ (s : State) (f : BitVec 21), Memory.wf s.dm.mem = true → f.toNat ∈ s.dm.scrub → Answers (.frameScrubDone f) s fun t =>
    f.toNat ∉ t.dm.scrub ∧ ∀ a, Memory.get t.dm.mem a = if a / 2 ^ 16 = f.toNat then 0 else Memory.get s.dm.mem a) ∧
  (∀ (s : State) (v : Word) (n : Fin 64), n.val = fld v 0 6 → n ≠ 0 → s.dm.keyDone = true →
    ((s.dm.keys.get n).state = 0 → Answers (.keyGenerate v) s fun t => (t.dm.keys.get n).state = 1 ∧ (t.dm.keys.get n).vf.toNat = fld v 8 6 ∧
      (t.dm.keys.get n).gen = (s.dm.keys.get n).gen + 1 ∧ t.dm.keyDone = true ∧ ∀ m, m ≠ n → t.dm.keys.get m = s.dm.keys.get m) ∧
    Answers (.keyDestroy v) s (fun t => (t.dm.keys.get n).state = 2 ∧ t.dm.keyDone = false ∧ t.dm.keyLast.toNat = n.val ∧
      ∀ e ∈ t.dm.tlb, pteSlot e.pte ≠ n)) ∧
  (∀ (s : State) (n : Fin 64), s.dm.keyDone = false → s.dm.keyLast.toNat = n.val → Answers .keyDestroyDone s fun t =>
    t.dm.keyDone = true ∧ (t.dm.keys.get n).state = 0 ∧ (t.dm.keys.get n).gen = (s.dm.keys.get n).gen + 1 ∧ t.dm.mem = s.dm.mem) ∧
  (∀ (s : State) (v : Word), s.dm.mapBusy = true → ∀ i ∈ ([.mapArm v, .mapWithdraw v, .mapRead v] : List Instr),
    Answers i s fun t => t.dm = { s.dm with mapCode := 6 } ∧ t.agenda = s.agenda) ∧
  (∀ (s : State) (v : Word), s.dm.mapBusy = false →
    (s.dm.armCode v = 0 → Answers (.mapArm v) s fun t => t.dm.mapCode = 1 ∧ t.dm.mapBusy = true ∧ t.agenda = .mapCommandDone :: s.agenda ∧ t.dm.regions = s.dm.regions ∧
      t.dm.mapRank.toNat = matrixRank s.dm.staged) ∧
    (s.dm.armCode v ≠ 0 → Answers (.mapArm v) s fun t => t.dm.mapCode.toNat = s.dm.armCode v ∧ t.dm.mapBusy = false ∧ t.agenda = s.agenda ∧ t.dm.regions = s.dm.regions ∧
      t.dm.mapRank.toNat = if s.pk.step = 0 ∧ 3 ≤ s.dm.armCode v then 0 else matrixRank s.dm.staged) ∧
    Answers (.mapWithdraw v) s (fun t => t.dm.mapCode = 1 ∧ t.dm.mapBusy = true ∧ t.agenda = .mapCommandDone :: s.agenda ∧ t.dm.regions = s.dm.regions) ∧
    (∀ n : Fin 8, n.val = fld v 6 3 → Answers (.mapRead v) s fun t => t.dm.mapCode = 0 ∧ ∀ j : Fin 32, stagedRow t j = (s.dm.regions.get n).matrix.get j)) ∧
  (∀ (s : State) (n : Fin 8), s.dm.mapBusy = true → n.val = fld s.dm.mapReg 6 3 →
    (fld s.dm.mapReg 0 6 = 1 → Answers .mapCommandDone s fun t => let r := t.dm.regions.get n
      t.dm.mapCode = 0 ∧ t.dm.mapBusy = false ∧ r.state = 1 ∧ r.mode = s.dm.mapReg.toNat.testBit 9 ∧ r.base.toNat = fld s.dm.mapReg 10 3 ∧ r.limit.toNat = fld s.dm.mapReg 13 3 ∧
      (∀ j, r.matrix.get j = stagedRow s j) ∧ ∀ m, m ≠ n → t.dm.regions.get m = s.dm.regions.get m) ∧
    (fld s.dm.mapReg 0 6 ≠ 1 → Answers .mapCommandDone s fun t => t.dm.mapCode = 0 ∧ t.dm.mapBusy = false ∧ (t.dm.regions.get n).state = 2 ∧ ∀ m, m ≠ n → t.dm.regions.get m = s.dm.regions.get m)) ∧
  (∀ (s : State) (pa : Nat),
    Answers (.hbmEccError pa true) s (fun t => fld t.dm.merr 0 32 = min (2 ^ 32 - 1) (fld s.dm.merr 0 32 + 1) ∧ t.dm.tags = s.dm.tags ∧ t.dm.mem = s.dm.mem) ∧
    (s.dm.toRetire (pa / 32) s.dl.dcyc.toNat = [] → Answers (.hbmEccError pa false) s fun t =>
      (t.dm.tag (pa / 32)).poison = true ∧ fld t.dm.merr 32 16 = min 65535 (fld s.dm.merr 32 16 + 1) ∧ t.dm.mem = s.dm.mem))


/-! ### Events of launching -/

namespace Sys2Proof.Stated

/-- The virtual function of the write owns queue `q`, which is enabled, and is not in reset (R288). -/
def Owns (s : State) (vf : BitVec 6) (q : BitVec 9) : Prop := (s.dl.queue q.toNat).en = true ∧ (s.dl.queue q.toNat).vf = vf ∧ (s.dl.vf vf).flr = false

/-- Memory holds at `dst` the `n` bytes that stood at `src`, and nothing else changes. -/
def Moved (new old : Memory) (src dst n : Nat) : Prop :=
  ∀ a, Memory.get new a = if dst ≤ a ∧ a < dst + n then Memory.get old (src + (a - dst)) else Memory.get old a

/-- The pool holds a launch of this identifier, complete with this status. -/
def Completed (t : State) (id : Word) (status : Nat) : Prop := ∃ l ∈ t.dl.pool, l.id = id ∧ l.state = .complete ∧ l.status = status

end Sys2Proof.Stated

/-- Launch queues, rings, windows and doorbells (R288, R290, R291). That a write of LQ_A with EN clear keeps the other fields is log 70; how the launches of a dependence cycle end is log 99. -/
def Obligations.QueueEvents : Prop :=
  (∀ (s : State) (q : BitVec 9) (v : Word), let k := s.dl.queue q.toNat
    v.toNat.testBit 63 = true → k.en = false → fld v 43 5 ≤ 16 → (s.dl.vf (BitVec.ofNat 6 (fld v 52 6))).en = true →
    fld v 7 33 * 128 + 2 ^ fld v 43 5 * 128 ≤ 2 ^ 37 →
    Answers (.launchQueueConfig q v) s fun t => let k' := t.dl.queue q.toNat
      k'.en = true ∧ ((fld s.dl.qarea 20 16 + fld s.dl.qarea 0 16) * 2 ^ 16 ≤ s.dm.carveWays.toNat * 2 ^ 27 → k'.frozen = false) ∧ k'.vf.toNat = fld v 52 6 ∧ k'.log2n.toNat = fld v 43 5 ∧ k'.base.toNat = fld v 7 33 ∧ k'.tail = 0 ∧ k'.head = 0 ∧
      k'.ret = 0 ∧ k'.pend = k.pend) ∧
  (∀ (s : State) (q : BitVec 9) (v : Word), SMap.wf Queue.reset s.dl.queues = true →
    v.toNat.testBit 63 = false → (s.dl.queue q.toNat).en = true → Answers (.launchQueueConfig q v) s fun t => (t.dl.queue q.toNat).en = false ∧
      (∀ p, p ≠ q.toNat → t.dl.queue p = s.dl.queue p) ∧
      (∀ l ∈ s.dl.pool, l.queueNo = q.toNat → l.state = .waiting → s.dl.inCycle l = true → Completed t l.id 5) ∧
      ((∀ l ∈ s.dl.pool, l.queueNo = q.toNat → l.state ≠ .waiting) → t.dl.pool = s.dl.pool ∧ t.dm = s.dm)) ∧
  (∀ (s : State) (v : Word), ((∀ e ∈ s.dl.queues, e.2.en = false) → Answers (.queueAreaConfig v) s fun t =>
      t.dl.qarea = nword (fld v 20 16 * 2 ^ 20 + fld v 0 16) ∧ t.dl.queues = s.dl.queues ∧ t.dm = s.dm) ∧
    ((∃ e ∈ s.dl.queues, e.2.en = true) → exec (.queueAreaConfig v) s = .next s)) ∧
  (∀ (s : State) (q : BitVec 9), let k := s.dl.queue q.toNat
    let n := 2 ^ k.log2n.toNat * 128
    Memory.wf s.dm.mem = true → k.en = true → k.base.toNat * 128 + n ≤ 2 ^ 37 →
    (k.swap = false → (fld s.dl.qarea 20 16 + k.slot) * 2 ^ 16 + n ≤ s.dm.carveWays.toNat * 2 ^ 27 → Answers (.queueRingSwap q true) s fun t => t.dl.queue q.toNat = { k with swap := true, slot := 0 } ∧
      Moved t.dm.mem s.dm.mem (0x8000000000 + (fld s.dl.qarea 20 16 + k.slot) * 2 ^ 16) (k.base.toNat * 128) n) ∧
    (∀ u, (∀ e, k.base.toNat * 128 / 32 ≤ e → e < (k.base.toNat * 128 + n) / 32 → s.dm.plain (s.dm.keyTag 0) e = true) → k.swap = true → s.dl.gap ((n + 2 ^ 16 - 1) / 2 ^ 16) = some u → (fld s.dl.qarea 20 16 + u) * 2 ^ 16 + n ≤ s.dm.carveWays.toNat * 2 ^ 27 → Answers (.queueRingSwap q false) s fun t => t.dl.queue q.toNat = { k with swap := false, slot := u } ∧
      Moved t.dm.mem s.dm.mem (k.base.toNat * 128) (0x8000000000 + (fld s.dl.qarea 20 16 + u) * 2 ^ 16) n)) ∧
  (∀ (s : State) (vf : BitVec 6) (q : BitVec 9) (off : Nat) (v : Word), let k := s.dl.queue q.toNat
    let a := s.dl.ringAt k + off * 8
    Memory.wf s.dm.mem = true → Owns s vf q → off < 2 ^ k.log2n.toNat * 16 → off < 2 ^ 20 →
    (a + 8 ≤ 2 ^ 37 ∨ 0x8000000000 ≤ a ∧ a + 8 ≤ 0x8000000000 + s.dm.carveWays.toNat * 2 ^ 27 →
      Answers (.launchWindowWrite vf (q.toNat * 2 ^ 23 + off * 8) v) s fun t => t.dl = s.dl ∧
        (∀ i, i < 8 → Memory.get t.dm.mem (a + i) = BitVec.ofNat 8 (v.toNat / 256 ^ i)) ∧
        (∀ x, ¬ (a ≤ x ∧ x < a + 8) → (s.dm.plain (s.dm.keyTag 0) (a / 32) = true ∨ x / 32 ≠ a / 32) → Memory.get t.dm.mem x = Memory.get s.dm.mem x)) ∧
    (0x8000000000 + s.dm.carveWays.toNat * 2 ^ 27 ≤ a ∧ a < 0x8200000000 → Answers (.launchWindowWrite vf (q.toNat * 2 ^ 23 + off * 8) v) s fun t =>
      t.dl.queue q.toNat = { k with frozen := true })) ∧
  (∀ (s : State) (vf : BitVec 6) (q : BitVec 9) (v : Word), let k := s.dl.queue q.toNat
    let w : Word32 := BitVec.ofNat 32 v.toNat
    Owns s vf q →
    (v.toNat.testBit 63 = false → k.frozen = false → w ≠ k.tail →
      ((w - k.tail).toNat < 2 ^ 31 → (w - k.head).toNat ≤ 2 ^ k.log2n.toNat → Answers (.doorbell vf q v) s fun t => t.dl.queue q.toNat = { k with tail := w } ∧
        (∀ p, p ≠ q.toNat → t.dl.queue p = s.dl.queue p) ∧ t.dm = s.dm) ∧
      (2 ^ 31 ≤ (w - k.tail).toNat ∨ 2 ^ k.log2n.toNat < (w - k.head).toNat → Answers (.doorbell vf q v) s fun t =>
        t.dl.queue q.toNat = { k with frozen := true } ∧ (some k.vf, 1) ∈ t.dl.msix)) ∧
    (k.frozen = true → k.pend = 0 → let back := fun t : State => t.dl.queue q.toNat = { k with head := w, tail := w, ret := w, frozen := false, status := [] } ∧ t.dm = s.dm
      Answers (.doorbellReset vf q v) s back ∧ (v.toNat.testBit 63 = true → Answers (.doorbell vf q v) s back)))

/-- Launches: taking, refusal, start, sub-launches, completion and retirement (R13 to R15, R289, R292 to R294). Where records and code stand is log 11, and the core of a sub-launch log 74. -/
def Obligations.LaunchEvents : Prop :=
  (∀ (s : State) (q : Nat) (k : Queue), s.nextQueue = some (q, k) → q < 512 → let a := s.dl.ringAt k + k.head.toNat % 2 ^ k.log2n.toNat * 128
    let record := (List.range 16).map fun i => s.devWord (a + 8 * i)
    let id := nword (2 ^ 63 + k.vf.toNat * 2 ^ 57 + q * 2 ^ 48 + k.head.toNat)
    let l : Launch := ⟨id, k.vf, record, s.dl.dcyc.toNat, .waiting, [], 0, 0, s.dieMap (BitVec.ofNat 12 (fld (s.devWord (a + 72)) 32 12))⟩
    let beyond := 0x8000000000 + s.dm.carveWays.toNat * 2 ^ 27 ≤ a ∧ a < 0x8200000000
    (beyond → Answers .launchTake s fun t => (t.dl.queue q).frozen = true ∧ t.dl.pool = s.dl.pool) ∧
    (¬ beyond → s.recordRefused l = false → (∀ i, 5 ≤ i → i < 9 → (s.devWord (a + 8 * i)).toNat.testBit 63 = false) → Answers .launchTake s fun t =>
      t.dl.pool = s.dl.pool ++ [l] ∧ t.dl.queue q = { k with head := k.head + 1, pend := k.pend + 1 } ∧ t.dm = s.dm) ∧
    (¬ beyond → s.recordRefused l = true → Answers .launchTake s fun t => Completed t id 1)) ∧
  (∀ (s : State) (l : Launch), s.dl.pool.find? s.dl.depFailed = some l → Answers .launchStart s fun t => Completed t l.id 5) ∧
  (∀ (s s1 : State) (l : Launch) (bs : List Byte), s.dl.pool.find? s.dl.depFailed = none → s.startable = some l → (l.word 0).toNat % 256 = 0 →
    s.imageRead l.who ((l.word 0).toNat + 0x40) 64 = (some bs, s1) → s1.tableRefused l (loopTable (wordsOf bs 8) l.extents) = false →
    let n := (loopTable (wordsOf bs 8) l.extents).points 2
    Answers .launchStart s fun t => { l with state := .running, open_ := List.range n } ∈ t.dl.pool ∧
      (∀ d, d < n → s1.dieIn l.dmap d = .own → ∃ m, .sublaunchCreate m ∈ t.agenda ∧ m.id = l.id ∧ m.d = d ∧ m.vf = l.vf ∧ m.record = l.record ∧ m.home = none) ∧
      ∀ d fid die, d < n → s1.dieIn l.dmap d = .other fid die → ∃ m, ⟨fid, die, false, .sublaunch m⟩ ∈ t.fi.outbox ∧ m.id = l.id ∧ m.d = d ∧ m.vf = l.vf ∧ m.record = l.record) ∧
  (∀ (s s1 : State) (p : SubMsg), let l : Launch := ⟨p.id, p.vf, p.record, 0, .running, [], 0, 0, 0⟩
    let s0 : State := { s with dl := { s.dl with held := s.dl.held.filter fun h => h.msg != p } }
    let arena := fld s1.dm.code 40 8 * 2 ^ 24
    (s0.loadImage l = (none, s1) → p.home = none → Answers (.sublaunchCreate p) s fun t => t.agenda = s1.agenda ++ [.sublaunchEnded p.id p.d 1 0]) ∧
    (∀ fid die, s0.loadImage l = (none, s1) → p.home = some (fid, die) → Answers (.sublaunchCreate p) s fun t => t.agenda = s1.agenda ∧
      t.fi.outbox = if s1.fi.inGroup fid = true then s1.fi.outbox ++ [⟨fid, die, false, .subEnded p.id p.d 1 0 l.job⟩] else s1.fi.outbox) ∧
    (∀ m, s0.loadImage l = (some m, s1) → s1.dl.subs ≠ [] → let n := m.table.points 1
      (s1.coreEligible p.vf m.rings = false → p.home = none → Answers (.sublaunchCreate p) s fun t => t.agenda = s1.agenda ++ [.sublaunchEnded p.id p.d 2 0] ∧ t.dl.subs = s1.dl.subs) ∧
      (s1.coreEligible p.vf m.rings = true → m.codeSize ≤ arena → 64 + 64 * n ≤ recordSpace → arena < s1.dl.arenaNext + m.codeSize ∨ recordSpace < s1.dl.recNext + 64 + 64 * n →
        Answers (.sublaunchCreate p) s fun t => t.dl.held = s1.dl.held ++ [⟨p, m.codeSize, n⟩] ∧ t.dl.subs = s1.dl.subs ∧ t.dl.records = s1.dl.records ∧ t.agenda = s1.agenda) ∧
      (s1.coreEligible p.vf m.rings = true → s1.dl.arenaNext + m.codeSize ≤ arena → s1.dl.recNext + 64 + 64 * n ≤ recordSpace → Answers (.sublaunchCreate p) s fun t =>
        (∃ u, t.dl.subs = s1.dl.subs ++ [u] ∧ u.id = p.id ∧ u.d = p.d ∧ u.vf = p.vf ∧ u.job = l.job ∧ u.live = n ∧ u.faults = 0 ∧ u.lrec = recordBase + s1.dl.recNext) ∧
        ∃ rs, t.dl.records = s1.dl.records ++ rs ∧ rs.length = n ∧ ∀ i, i < n → ∃ r, rs[i]? = some r ∧ r.addr = recordBase + s1.dl.recNext + 64 + 64 * i ∧
          r.idx = BitVec.ofNat 20 i ∧ r.vf = p.vf ∧ r.launch = p.id ∧ r.place = none))) ∧
  (∀ (s : State) (id : Word) (l : Launch) (d faults : Nat), s.dl.runningOf id = some l → d ∈ l.open_ → Answers (.sublaunchEnded id d 0 faults) s fun t =>
    { l with open_ := l.open_.filter (fun e => e != d), faults := l.faults + faults } ∈ t.dl.pool ∧ t.dm = s.dm) ∧
  (∀ (s : State) (id : Word) (l : Launch), s.dl.runningOf id = some l → l.open_ = [] →
    let status := if l.status ≠ 0 then l.status else if l.faults = 0 then 0 else 3
    Answers (.launchComplete id) s fun t => Completed t id status ∧ (l.word 10 = 0 → t.dm = s.dm) ∧
      (l.word 10 ≠ 0 → t = (s.setLaunch l { l with state := .complete, status := status, open_ := [] }).deviceStore l.who (l.word 10)
        (nword (status + min (2 ^ 32 - 1) l.faults * 2 ^ 8)))) ∧
  (∀ (s : State) (q : BitVec 9) (l : Launch), s.dl.pool.find? (fun e => fld e.id 48 9 == q.toNat) = some l → l.state = .complete →
    let k := s.dl.queue q.toNat
    Answers (.launchRetire q) s fun t => t.dl.pool = s.dl.pool.erase l ∧ t.dm = s.dm ∧
      t.dl.queue q.toNat = { k with ret := k.ret + 1, pend := k.pend - 1, status := ((fld l.id 0 32, l.status) :: k.status).take 256 })


/-! ### Events of the fault service and of tenancy -/

/-- The fault queue and its commands (R185, R299), the shoot-down (R300), function-level reset (R303, R304), MSI-X signals (R306). The model's own in it: the index an entry of the fault queue takes (log 75), the tag of a resolution or of the end of a sub-launch (log 23), what a reset does with sub-launches of another home (log 77). -/
def Obligations.FaultAndTenancyEvents : Prop :=
  (∀ (s : State) (w : FaultWords) (i : Nat), let r := s.dl.faultq
    let a := 0x8000000000 + fld r 0 16 * 2 ^ 16 + 32 * i
    Memory.wf s.dm.mem = true → r.toNat.testBit 63 = true → i < 2 ^ fld r 52 4 → (∀ e ∈ s.dl.faults, e.idx ≠ i) → (∀ j, j < i → ∃ e ∈ s.dl.faults, e.idx = j) →
    Answers (.faultEntry w) s fun t => t.dl.faults = s.dl.faults ++ [⟨i, w, s.kindOf w⟩] ∧
      (a < 0x8000000000 + s.dm.carveWays.toNat * 2 ^ 27 →
        Wrote t.dm.mem s.dm.mem a ([w.w0, w.w1, w.w2, w.w3].flatMap fun x => (List.range 8).map fun b => BitVec.ofNat 8 (x.toNat / 256 ^ b)) (fun _ => true)) ∧
      (fld r 60 3 = s.core.core.toNat → fld r 56 4 = s.core.cluster.toNat → t.core.irq = true)) ∧
  (∀ (s : State) (w : FaultWords) (a : AwayRec), s.dl.faultq.toNat.testBit 63 = false → s.kindOf w = .strand a.tag →
    s.dl.away.find? (fun b => b.tag % 2 ^ 32 == a.tag % 2 ^ 32) = some a →
    Answers (.faultEntry w) s fun t => (∀ b ∈ t.dl.away, b.tag ≠ a.tag) ∧ t.dl.faults = s.dl.faults) ∧
  (∀ (s : State) (n : BitVec 12) (e : FaultEntry), s.dl.faults.find? (fun e => e.idx == n.toNat) = some e →
    (∀ a, e.kind = .strand a.tag → s.dl.away.find? (fun b => b.tag % 2 ^ 32 == a.tag % 2 ^ 32) = some a →
      Answers (.faultResume n) s (fun t => t.dl.fres = nword (2 ^ 62 + n.toNat) ∧ t.dl.faults = s.dl.faults.erase e ∧ t.dl.away = s.dl.away.erase a ∧
        t.dl.records = s.dl.records ++ [{ a.q with since := s.dl.dcyc.toNat }] ∧ t.dm = s.dm) ∧
      Answers (.faultFail n) s (fun t => t.dl.fres = nword (2 * 2 ^ 62 + n.toNat) ∧ t.dl.faults = s.dl.faults.erase e ∧ (∀ b ∈ t.dl.away, b.tag ≠ a.tag) ∧
        t.dl.records = s.dl.records)) ∧
    (∀ c ch, e.kind = .copyRow c ch → (s.chan c ch).parked = true → (s.chan c ch).state ≠ .idle →
      Answers (.faultResume n) s (fun t => t.dl.faults = s.dl.faults.erase e ∧ t.chan c ch = { s.chan c ch with parked := false } ∧ t.dm = s.dm) ∧
      ((s.chan c ch).bad ≠ 1 → Answers (.faultFail n) s (fun t => t.dl.faults = s.dl.faults.erase e ∧ (t.chan c ch).state = .stopped ∧
        (t.chan c ch).fault = (s.chan c ch).fault ∧ (t.chan c ch).row = (s.chan c ch).row ∧ (t.chan c ch).parked = false ∧ t.dm = s.dm))) ∧
    (∀ fid die tag job, e.kind = .remote fid die tag job →
      Answers (.faultResume n) s (fun t => t.dl.faults = s.dl.faults.erase e ∧ t.fi.outbox = s.fi.outbox ++ [⟨fid, die, false, .resolution tag true job⟩]) ∧
      Answers (.faultFail n) s (fun t => t.dl.faults = s.dl.faults.erase e ∧ t.fi.outbox = s.fi.outbox ++ [⟨fid, die, false, .resolution tag false job⟩]))) ∧
  (∀ (s : State) (v : Word), s.dl.shootDone = true → fld v 40 4 ≠ 13 → fld v 40 4 ≠ 14 → Answers (.shootDown v) s fun t =>
    t.dl.shoot = nword (fld v 48 13 * 2 ^ 48 + fld v 40 4 * 2 ^ 40 + fld v 0 40) ∧ t.dl.shootDone = false ∧ t.dl.shootWait = s.fi.members.length * 4 ∧
    (∀ e, e ∈ t.dm.tlb ↔ e ∈ s.dm.tlb ∧ ¬ Covers v e) ∧ ∀ fid ∈ s.fi.members, ∀ k : BitVec 2,
      if fid = s.fi.fid ∧ k = s.core.die then .shootDownRange v ∈ t.agenda else ⟨fid, k, false, .shootRange v⟩ ∈ t.fi.outbox) ∧
  (∀ (s : State) (v : Word), fld v 40 4 ≠ 13 → fld v 40 4 ≠ 14 → rising s.core.l1 = true → rising s.cl.l2 = true →
    (∀ e ∈ s.core.l1, e.2.dirty = 0 ∧ e.2.valid ≠ 0) → (∀ e ∈ s.cl.l2, e.2.dirty = 0) → (∀ f ∈ s.core.flying, f.ctx ≠ svc) → s.dl.shootOwed = [] →
    let hit := fun (job : BitVec 12) (k : Nat) => keyAsid k = BitVec.ofNat 13 (fld v 48 13) ∧ s.dieOf job (keySec k / 2 ^ 47) = .own ∧
      (fld v 40 4 = 15 ∨ fld v 0 40 ≤ keySec k % 2 ^ 47 / 2 ^ 11 ∧ keySec k % 2 ^ 47 / 2 ^ 11 < fld v 0 40 + 2 ^ fld v 40 4)
    Answers (.shootDownRange v) s fun t => t.agenda = s.agenda ++ [.shootDownAck] ∧ t.dm = s.dm ∧
      (∀ k a, lookup s.core.l1 k = some a → hit a.job k → lookup t.core.l1 k = none ∧ lookup t.cl.l2 k = none) ∧
      (∀ k b, lookup s.core.l1 k = none → lookup s.cl.l2 k = some b → hit b.job k → lookup t.cl.l2 k = none)) ∧
  (∀ (s : State) (n : Nat), s.dl.shootWait = n + 1 → Answers .shootDownAck s fun t => t.dl.shootWait = n ∧ (t.dl.shootDone = true ↔ n = 0) ∧ t.dm = s.dm ∧ t.core = s.core) ∧
  (∀ (s : State) (v : BitVec 6), (s.dl.vf v).flr = true → exec (.functionLevelReset v) s = .next s) ∧
  (∀ (s : State) (v : BitVec 6), SMap.wf Queue.reset s.dl.queues = true → (s.dl.vf v).flr = false → Answers (.functionLevelReset v) s fun t =>
    (t.dl.vf v).flr = true ∧ (∀ e ∈ t.dl.queues, e.2.vf = v → e.2.en = false) ∧ (∀ l ∈ t.dl.pool, l.vf = v → l.state ≠ .waiting) ∧
    (∀ q ∈ t.dl.records, q.vf ≠ v) ∧ (∀ a ∈ t.dl.away, a.q.vf ≠ v) ∧ (∀ u ∈ t.dl.subs, u.vf ≠ v) ∧
    (∀ c u, (s.ctx c).strand = some u → (t.ctx c).strand = if u.vf = v then none else some u) ∧
    (∀ e ∈ (t.dl.vf v).drain, ∀ d, (s.fi.job e.1).decl = some d → d.number ≤ e.2) ∧
    (s.pv.vf = v → t.pv.base.toNat.testBit 63 = false ∧ t.pv.run = 0 ∧ t.pv.stash = [])) ∧
  (∀ (s : State) (v : BitVec 6), let f := s.dl.vf v
    Memory.wf s.dm.mem = true → SMap.wf VFn.reset s.dl.vfs = true → f.flr = true → s.core.flying = [] → f.log.toNat.testBit 63 = false →
    (∀ e ∈ f.drain, ∃ d, (s.fi.job e.1).decl = some d ∧ d.quiet = true ∧ e.2 < d.number) → 32768 ≤ s.dm.room (fld s.dl.jobt 13 27 * 2 ^ 13) →
    (∀ l ∈ s.dl.pool, l.vf = v → l.state ≠ .running) → Answers (.flrComplete v) s fun t =>
      (t.dl.vf v).flr = false ∧ (t.dl.vf v).en = (f.en && !f.enOff) ∧ (t.dl.vf v).enOff = false ∧
      (∀ j : BitVec 12, (s.jobEntry j).toNat.testBit 63 = true → fld (s.jobEntry j) 40 6 = v.toNat → (t.jobEntry j).toNat.testBit 63 = false) ∧
      (∀ n : Fin 64, n ≠ 0 → (s.dm.keys.get n).vf = v → (s.dm.keys.get n).state ≠ 0 → t.dm.keys.get n = { s.dm.keys.get n with state := 0, gen := (s.dm.keys.get n).gen + 1 }) ∧
      (∀ i, i < fld f.vfb 32 16 * 2 ^ 16 → Memory.get t.dm.mem (0x8000000000 + fld f.vfb 0 16 * 2 ^ 16 + i) = 0) ∧
      (some v, 2) ∈ t.dl.msix ∧ (none, 2) ∈ t.dl.msix) ∧
  (∀ (s : State) (v : BitVec 6) (e : BitVec 12 × Nat), e ∈ (s.dl.vf v).drain → (∀ d, (s.fi.job e.1).decl = some d → d.quiet = false ∨ d.number ≤ e.2) →
    exec (.flrComplete v) s = .next s) ∧
  (∀ (s : State) (v : Word), (fld v 0 6 < 3 → exec (.msiSignal v) s = .next s) ∧
    (3 ≤ fld v 0 6 → Answers (.msiSignal v) s fun t => t.dl.msix = s.dl.msix ++ [(some (BitVec.ofNat 6 (fld v 8 6)), fld v 0 6)] ∧ t.dm = s.dm ∧ t.core = s.core))


/-! ### Events of the package -/

namespace Sys2Proof.Stated

/-- The highest step of an engine's ladder at or below `old` whose classes all pass (R202). -/
def LadderStep (old : BitVec 8) (pass : BitVec 5) (b : BitVec 8) : Prop :=
  b ∈ ([0x1F, 0x1E, 0x14, 0] : List (BitVec 8)) ∧ b &&& ~~~old = 0 ∧ b &&& ~~~(pass.setWidth 8) = 0 ∧
  ∀ b' ∈ ([0x1F, 0x1E, 0x14, 0] : List (BitVec 8)), b' &&& ~~~old = 0 → b' &&& ~~~(pass.setWidth 8) = 0 → b' &&& ~~~b = 0

/-- The end of the stage that boot is in answers a next state of which `P` holds. -/
def BootGoesOn (s : State) (P : State → Prop) : Prop := ∃ t, runEvent .bootNext s = .next t ∧ P t

/-- The boot is in stage `n` and has not failed. -/
def InStage (s : State) (n : Nat) : Prop := s.pk.stage.toNat = n ∧ s.pk.fail = 0

end Sys2Proof.Stated

/-- Resets and boot (R54, R309, R311, R345), the ladders (R138, R202, R256, R310), machine check (R314), attestation (R318), the clock (R319), Prism (R214). The model's own in it: what a device reset keeps (log 34), that a record carries PK_SEQ before it rises (log 53), that a test which finds the same bitmap installs it (log 81), what tests find and the order of a round (log 38), the units of other cores, clusters and dies (log 37). -/
def Obligations.PackageEvents : Prop :=
  (∀ (s : State) (fn : Option (BitVec 6)) (v : Word), ((s.pk.halted ≠ none ∨ ∃ a, (fn, a) ∈ s.pk.asking) → exec (.attestRequest fn v) s = .next s) ∧
    (s.pk.halted = none → (∀ a, (fn, a) ∉ s.pk.asking) → Answers (.attestRequest fn v) s fun t =>
    t.pk.asking = s.pk.asking ++ [(fn, nword (fld v 12 52 * 2 ^ 12))] ∧ t.pk.reports = s.pk.reports ∧
    (fn = none → t.pk.attest = nword (fld v 12 52 * 2 ^ 12)) ∧ (∀ f, fn = some f → SMap.wf VFn.reset s.dl.vfs = true → (t.dl.vf f).attest = nword (fld v 12 52 * 2 ^ 12)) ∧
    t.dm = s.dm ∧ t.core = s.core)) ∧
  (∀ s : State, let t := s.lanternTurn
    (∀ fn a, s.pk.recount = false → s.pk.asking = [(fn, a)] → t.pk.asking = [] ∧ ∃ r : List Word, t.pk.reports = s.pk.reports ++ [(fn, a, r)] ∧ r.length = 512 ∧
      r[0]? = some 0xCAE1A77E00000001 ∧ r[8]? = some s.pk.seq ∧ ∃ w, r[9]? = some w ∧ fld w 0 32 = s.pk.firmware % 2 ^ 32) ∧
    (s.pk.recount = true → s.pk.asking = [] → t.pk.recount = false ∧ t.pk.bxlost = s.lostEngines ∧ t.pk.spadu = s.liveUnits ∧ t.pk.chret = s.retiredChannels)) ∧
  (∀ (s : State) (r : BootReport), Answers (.packageReset r) s fun t =>
    t.pk.stage = 1 ∧ t.pk.fail = 0 ∧ t.pk.bootFail = r.fail ∧ t.pk.firmware = r.firmware ∧ t.pk.halted = none ∧ t.fi.inc = s.fi.inc + 1 ∧ t.fi.fid = 0 ∧
    t.core.ctxs = State.reset.core.ctxs ∧ t.core.rings = State.reset.core.rings ∧ (∀ n : Fin 64, (t.dm.keys.get n).state = 0) ∧ t.dl.queues = [] ∧ t.dl.pool = [] ∧
    t.dm.mem = s.dm.mem ∧ (r.unread = [] → t.pk.flashEng = s.pk.flashEng ∧ t.pk.flashBank = s.pk.flashBank) ∧
    (∀ e, r.unread = [.engine e] → t.pk.flashEng.get e = 0x1F) ∧ (∀ b, r.unread = [.bank b] → t.pk.flashBank.get b = 0)) ∧
  (∀ s : State, let tested := s.pk.roundEng = [] ∧ s.pk.roundBank = [] ∧ s.pk.roundChan = []
    (∀ n, InStage s n → n = 1 ∨ n = 2 ∨ n = 3 → s.pk.bootFail.toNat = (if n = 1 then 1 else n + 1) → BootGoesOn s fun t => t = { s with pk := { s.pk with fail := s.pk.bootFail } }) ∧
    (InStage s 1 → s.pk.bootFail = 2 → BootGoesOn s fun t => t = { s with pk := { s.pk with fail := 2 } }) ∧
    (∀ n, InStage s n → n = 1 ∨ n = 2 → s.pk.bootFail = 0 → BootGoesOn s fun t => t = { s with pk := { s.pk with stage := s.pk.stage + 1 } }) ∧
    (InStage s 3 → s.pk.bootFail = 0 → BootGoesOn s fun t => t.pk.stage = 4 ∧ (∀ e : Fin 16, e.val ∈ t.pk.roundEng ↔ s.pk.flashEng.get e ≠ 0) ∧
      (∀ b : Fin 24, b.val ∈ t.pk.roundBank ↔ s.pk.flashBank.get b ≠ 2) ∧ (t.dm.regions.get 0).state = 1 ∧ (t.dm.regions.get 0).base = 0 ∧
      (t.dm.regions.get 0).limit = 7 ∧ (t.dm.keys.get 0).state = 1 ∧ (t.dm.keys.get 0).gen = (s.dm.keys.get 0).gen + 1 ∧
      (∀ n : Fin 64, n ≠ 0 → t.dm.keys.get n = s.dm.keys.get n) ∧
      (Memory.wf s.dm.mem = true → ∀ a, Memory.get t.dm.mem a = if a < 0x8000000000 then Memory.get s.dm.mem a else 0)) ∧
    (InStage s 4 → s.pk.roundEng ≠ [] ∨ s.pk.roundBank ≠ [] ∨ s.pk.roundChan ≠ [] → BootGoesOn s fun t => t = s) ∧
    (InStage s 4 → tested → s.pk.engElse = [] → (∃ e : Fin 16, (s.pk.flashEng.get e).toNat.testBit 4 = true) →
      BootGoesOn s fun t => t = { s with pk := { s.pk with stage := 5 } }) ∧
    (InStage s 4 → tested → (∀ e : Fin 16, (s.pk.flashEng.get e).toNat.testBit 4 = false) → BootGoesOn s fun t => t = { s with pk := { s.pk with fail := 5 } }) ∧
    (InStage s 5 → BootGoesOn s fun t => t.pk.stage = 6 ∧ t.core.banks = s.pk.flashBank ∧
      (∀ e, (t.cl.engines.get e).bmap = s.pk.flashEng.get e ∧ ((t.cl.engines.get e).state = 2 ↔ s.pk.flashEng.get e = 0)) ∧ t.dm.chan0 = s.pk.flashChan0 ∧
      t.dm.chan1 = s.pk.flashChan1)) ∧
  (∀ s : State, Answers .deviceReset s fun t => t.core.ctxs = State.reset.core.ctxs ∧ t.core.rings = State.reset.core.rings ∧ t.core.acc = [] ∧ t.core.spad = [] ∧
    t.cl.engines = State.reset.cl.engines ∧ t.dl.queues = [] ∧ t.dm.tlb = [] ∧ t.dm.mem = s.dm.mem ∧ t.pk.seq = s.pk.seq ∧ t.fi.inc = s.fi.inc ∧ t.fi.table = s.fi.table) ∧
  (∀ (s : State) (cause : Byte) (u : BitVec 32),
    (s.pk.halted = none → Answers (.machineCheck cause u) s fun t => t.pk.halted = some cause ∧ t.pk.stage = 7 ∧
      (∃ h : List Word, t.pk.dumps = (h :: s.pk.dumps).take 16 ∧ h[0]? = some 0xCAE1D0D000000001 ∧ h[1]? = some s.pk.seq ∧
        ∃ w, h[2]? = some w ∧ fld w 0 8 = cause.toNat ∧ fld w 8 2 = u.toNat / 2 ^ 30 ∧ fld w 32 32 = u.toNat) ∧ t.core = s.core ∧
      (s.core.die ≠ 0 → t.dm = s.dm)) ∧
    (∀ h older, s.pk.halted ≠ none → s.pk.dumps = h :: older → older.length < 16 → s.pk.checks < 11 → Answers (.machineCheck cause u) s fun t => t.pk.halted = s.pk.halted ∧
      t.core = s.core ∧ t.pk.checks = s.pk.checks + 1 ∧ ∃ a b, t.pk.dumps = (h.set (18 + 2 * s.pk.checks) a).set (19 + 2 * s.pk.checks) b :: older) ∧
    (s.pk.halted ≠ none → s.pk.dumps = [] ∨ 11 ≤ s.pk.checks → exec (.machineCheck cause u) s = .next s)) ∧
  (∀ s : State, exec (.thermalThrottle true) s = .next { s with pk := { s.pk with clock := max 1 (s.pk.clock - 1) } } ∧
    exec (.thermalThrottle false) s = .next { s with pk := { s.pk with clock := min 16 (s.pk.clock + 1) } } ∧
    (s.pk.marginEn = false ∨ s.pk.roundOn = true → exec .marginRound s = .next s) ∧
    (s.pk.marginEn = true → s.pk.roundOn = false → Answers .marginRound s fun t => t.core = s.core ∧ t.cl = s.cl ∧ t.dm = s.dm ∧
      (∀ e : Fin 16, (s.cl.engines.get e).state ≠ 2 → t.pk.roundOn = true ∧ e.val ∈ t.pk.roundEng) ∧
      (∀ b : Fin 24, s.core.banks.get b ≠ 2 → t.pk.roundOn = true ∧ b.val ∈ t.pk.roundBank) ∧
      (∀ c : BitVec 6, s.dm.chanState c.toNat < 2 → t.pk.roundOn = true ∧ c.toNat ∈ t.pk.roundChan) ∧
      t.pk.rounds = if t.pk.roundOn then s.pk.rounds else s.pk.rounds + 1)) ∧
  (∀ (s : State) (e : Fin 16) (pass : BitVec 5), s.pk.stage = 4 → Answers (.engineMarginTest e pass) s fun t => t.cl = s.cl ∧
    LadderStep (s.pk.flashEng.get e) pass (t.pk.flashEng.get e) ∧ ∀ d, d ≠ e → t.pk.flashEng.get d = s.pk.flashEng.get d) ∧
  (∀ (s : State) (e : Fin 16) (pass : BitVec 5), let g := s.cl.engines.get e
    s.pk.stage ≠ 4 → g.state = 0 → (∀ d, (s.cl.engines.get d).state ≠ 1) → Answers (.engineMarginTest e pass) s fun t => t.cl.engines.get e = { g with state := 1, next := (t.cl.engines.get e).next } ∧
      (∃ b, (t.cl.engines.get e).next = some b ∧ LadderStep g.bmap pass b) ∧
      ∀ d, d ≠ e → t.cl.engines.get d = s.cl.engines.get d) ∧
  (∀ (s : State) (e : Fin 16) (b : BitVec 8), (∀ c, (s.ctx c).mirrorAct = false) → (∀ d, (s.cl.engines.get d).next ≠ none → d = e) → let g := s.cl.engines.get e
    g.next = some b → g.queued = 0 → Answers .bitmapInstall s fun t =>
      t.cl.engines.get e = { g with state := if b = 0 then 2 else 0, bmap := b, next := none,
                                    tests := if b = g.bmap ∧ g.tests ≠ 0xFFFF then g.tests + 1 else g.tests } ∧
      t.pk.flashEng.get e = b ∧ t.cl.install = s.cl.install + 1 ∧ ∀ d, d ≠ e → t.cl.engines.get d = s.cl.engines.get d) ∧
  (∀ (s : State) (a : EngineAt), let n := (a.die.toNat * 12 + a.cluster.toNat) * 16 + a.engine.val
    SMap.wf 0x1F s.pk.engElse = true → a.cluster.toNat < 12 → (a.die, a.cluster) ≠ (s.core.die, s.core.cluster) → a.bmap ∈ ([0x1F, 0x1E, 0x14, 0] : List (BitVec 8)) →
    a.bmap &&& ~~~(getAt 0x1F s.pk.engElse n) = 0 → a.bmap ≠ getAt 0x1F s.pk.engElse n → ∃ t, runEvent (.elsewhere (.engine a)) s = .next t ∧
      getAt 0x1F t.pk.engElse n = a.bmap ∧ t.cl = s.cl ∧ (a.bmap.toNat.testBit 0 = false → getAt 0x1F s.pk.engElse n = 0x1F → t.pk.recount = true ∧ t.lostEngines = s.lostEngines + 1)) ∧
  (∀ (s : State) (b : Fin 24), Answers (.bankMarginTest b true) s (fun t => t.core = s.core ∧ t.cl = s.cl ∧ t.dm = s.dm ∧
      t.pk.roundBank = s.pk.roundBank.erase b.val ∧ t.pk.extraBank = s.pk.extraBank.erase b.val) ∧
    (s.pk.stage ≠ 4 → s.pk.roundOn = true → s.pk.roundEng = [] → s.pk.roundBank = [b.val] → s.pk.roundChan = [] →
      Answers (.bankMarginTest b true) s fun t => t.pk.roundOn = false ∧ t.pk.rounds = s.pk.rounds + 1) ∧
    (s.pk.stage = 4 → (s.pk.flashBank.get b).toNat < 2 → Answers (.bankMarginTest b false) s fun t => t.pk.flashBank.get b = s.pk.flashBank.get b + 1 ∧ t.core = s.core) ∧
    (s.pk.stage ≠ 4 → s.core.banks.get b ≠ 2 → b.val ∉ s.core.demotions → Answers (.bankMarginTest b false) s fun t => t.core.demotions = s.core.demotions ++ [b.val] ∧
      t.core.banks = s.core.banks ∧ t.core.spad = s.core.spad) ∧
    (s.demotionDue b = true → Answers (.bankDemotionApply b) s fun t => t.core.banks.get b = s.core.banks.get b + 1 ∧ t.pk.flashBank.get b = s.core.banks.get b + 1 ∧
      b.val ∉ t.core.demotions ∧ (∀ d, d ≠ b → t.core.banks.get d = s.core.banks.get d) ∧ t.core.spad = s.core.spad) ∧
    (s.demotionDue b = false → exec (.bankDemotionApply b) s = .next s)) ∧
  (∀ (s : State) (k : CoreAt) (b : Fin 24), let n := ((k.die.toNat * 12 + k.cluster.toNat) * 8 + k.core.toNat) * 24 + b.val
    SMap.wf 0 s.pk.bankElse = true → k.cluster.toNat < 12 → (k.die, k.cluster, k.core) ≠ (s.core.die, s.core.cluster, s.core.core) → getAt 0 s.pk.bankElse n < 2 →
    ∃ t, runEvent (.elsewhere (.bank k b)) s = .next t ∧ getAt 0 t.pk.bankElse n = getAt 0 s.pk.bankElse n + 1 ∧ t.core = s.core) ∧
  (∀ (s : State) (k : CoreAt), let n := (k.die.toNat * 12 + k.cluster.toNat) * 8 + k.core.toNat
    k.cluster.toNat < 12 → (k.die, k.cluster, k.core) ≠ (s.core.die, s.core.cluster, s.core.core) → n ∉ s.pk.coreElse →
    ∃ t, runEvent (.elsewhere (.core k)) s = .next t ∧ t.pk.coreElse = s.pk.coreElse ++ [n] ∧ t.pk.recount = true ∧ t.core = s.core) ∧
  (∀ (s : State) (c : BitVec 6), let kept := fun t : State => ∀ d : BitVec 6, d ≠ c → t.dm.chanState d.toNat = s.dm.chanState d.toNat
    let flash := fun t : State => if c.toNat < 32 then fld t.pk.flashChan0 (2 * c.toNat) 2 else fld t.pk.flashChan1 (2 * (c.toNat - 32)) 2
    Answers (.channelMarginTest c true) s (fun t => t.dm = s.dm ∧ t.pk.roundChan = s.pk.roundChan.erase c.toNat) ∧
    (s.pk.stage = 4 → flash s < 2 → Answers (.channelMarginTest c false) s fun t => t.dm.chan0 = s.dm.chan0 ∧ t.dm.chan1 = s.dm.chan1 ∧ flash t = if flash s = 0 then 1 else 3) ∧
    (s.pk.stage ≠ 4 → s.dm.chanState c.toNat = 0 → Answers (.channelMarginTest c false) s fun t => t.dm.chanState c.toNat = 1 ∧ flash t = 1 ∧ kept t) ∧
    (s.pk.stage ≠ 4 → s.dm.chanState c.toNat = 1 → Answers (.channelMarginTest c false) s fun t => t.dm.chanState c.toNat = 3 ∧ flash t = 3 ∧ kept t) ∧
    (s.dm.chanState c.toNat = 3 → s.dm.maps c.toNat = false → Answers (.channelRetire c) s fun t => t.dm.chanState c.toNat = 2 ∧ flash t = 2 ∧ kept t) ∧
    (s.dm.chanState c.toNat = 3 → s.dm.maps c.toNat = true → exec (.channelRetire c) s = .next s)) ∧
  (∀ (s : State) (d : BitVec 2) (c : BitVec 6), d ≠ s.core.die → SMap.wf 0 s.pk.chanElse = true → let n := d.toNat * 64 + c.toNat
    (∀ old new, (old, new) ∈ [(0, 1), (1, 3), (3, 2)] → getAt 0 s.pk.chanElse n = old → ∃ t, runEvent (.elsewhere (.channel d c new)) s = .next t ∧
      getAt 0 t.pk.chanElse n = new ∧ t.dm.chan0 = s.dm.chan0 ∧ t.dm.chan1 = s.dm.chan1) ∧
    (∀ new, (getAt 0 s.pk.chanElse n, new) ∉ [(0, 1), (1, 3), (3, 2)] → runEvent (.elsewhere (.channel d c new)) s = .next s)) ∧
  (∀ (s : State) (lrec : Nat) (w : Word) (code : List Byte),
    (s.cl.prismEn = false ∨ (s.devWord (lrec + 8)).toNat.testBit 63 = true ∨ (∀ u ∈ s.dl.subs, u.lrec = lrec → u.prism = false) →
      exec (.prismTranslate lrec ⟨w, code⟩) s = .next s) ∧
    (∀ u ∈ s.dl.subs, let o := fld w 2 38 * 4 - 0x8100000000
      let b := fld s.dm.code 0 24 * 2 ^ 16 + o
      s.cl.prismEn = true → (s.devWord (lrec + 8)).toNat.testBit 63 = false → u.lrec = lrec → u.prism = true → Memory.wf s.dm.mem = true → lrec % 8 = 0 → 0 < code.length →
      0x8100000000 ≤ fld w 2 38 * 4 → o + code.length ≤ fld s.dm.code 40 8 * 2 ^ 24 → b + code.length ≤ 2 ^ 37 → lrec + 16 ≤ 2 ^ 37 →
      (lrec + 16 ≤ b / 32 * 32 ∨ b + code.length + 32 ≤ lrec) → Answers (.prismTranslate lrec ⟨w, code⟩) s fun t =>
        t.devWord (lrec + 8) = w ||| nword (2 ^ 63) ∧ (∀ i, i < code.length → Memory.get t.dm.mem (b + i) = code.getD i 0) ∧
        (∀ a, a / 32 ≠ (lrec + 8) / 32 → (a / 32 < b / 32 ∨ (b + code.length - 1) / 32 < a / 32) → Memory.get t.dm.mem a = Memory.get s.dm.mem a) ∧
        (∀ l v, lookup t.core.icache l = some v → l * 256 + 256 ≤ fld w 2 38 * 4 ∨ fld w 2 38 * 4 + code.length ≤ l * 256) ∧
        t.cl.prismPend = s.cl.prismPend - 1))


/-! ### Events of Pavane, of ports, of the fabric and of the links -/

/-- The Pavane unit (R321, R323 to R331) and the ports (R343). -/
def Obligations.PavaneAndPortEvents : Prop :=
  (∀ (s s1 : State) (v : Word) (l : List PvEntry), let p := s.pv
    p.base.toNat.testBit 63 = true → p.run = 0 → 0 < p.count.toNat → p.count.toNat ≤ 256 → fld p.stashSlots 0 7 ≤ 64 → s.stashSpanOk p = true →
    s.readEntries p.count.toNat = (l, s1) → (∀ i e, l[i]? = some e → s1.stamp.2.entryError s1.free i e = 0) → Answers (.pavaneTableLoad v) s fun t =>
      t.pv.table = l ∧ t.pv.head.toNat = fld v 0 9 ∧ (t.pv.done = true ↔ p.count.toNat ≤ fld v 0 9) ∧ t.pv.wraps = 0 ∧ t.pv.stash = [] ∧ t.pv.err = 0 ∧
      (∀ k, t.pv.bub.get k = 0) ∧ (∀ n, (t.ring n).rsv = 0) ∧ t.dm = s.dm) ∧
  (∀ (s : State) (v : Word), (s.pv.base.toNat.testBit 63 = false ∨ s.pv.run ≠ 0) → Answers (.pavaneTableLoad v) s fun t => t.pv = { s.pv with err := 7 } ∧ t.dm = s.dm) ∧
  (∀ (s : State) (v : Word),
    (s.pv.base.toNat.testBit 63 = true → Answers (.pavaneDisable v) s fun t => t.pv.base.toNat = s.pv.base.toNat - 2 ^ 63 ∧ t.pv.table = s.pv.table ∧
      t.pv.run = s.pv.run ∧ t.pv.stash = s.pv.stash) ∧
    (s.pv.base.toNat.testBit 63 = false → Answers (.pavaneDisable v) s fun t =>
      t.pv = { s.pv with base := nword (fld v 63 1 * 2 ^ 63 + fld v 40 2 * 2 ^ 40 + fld v 13 27 * 2 ^ 13) })) ∧
  (∀ (s : State) (e : PvEntry), let p := s.pv
    p.active = true → p.table[p.head.toNat]? = some e →
    (fld e.w0 62 2 = 3 → Answers .pavaneHeadEval s fun t => t.pv.head = (if e.w0.toNat.testBit 55 then 0 else p.head + 1) ∧ t.pv.run = p.run ∧ t.dl = s.dl) ∧
    (∀ s1, fld e.w0 62 2 ≠ 3 → s.headBlock e = (0, s1) → Answers .pavaneHeadEval s fun t =>
      t.pv.run = p.run + 1 ∧ t.pv.block = 0 ∧ t.pv.head = (if e.w0.toNat.testBit 55 then 0 else p.head + 1) ∧
      (t.pv.done = true ↔ p.count.toNat ≤ (if e.w0.toNat.testBit 55 then 0 else p.head + 1 : BitVec 9).toNat) ∧
      (e.w0.toNat.testBit 54 = false → if fld e.w0 62 2 = 1 then t.pv.upc = p.upc - 1 ∧ t.pv.dnc = p.dnc else t.pv.dnc = p.dnc - 1 ∧ t.pv.upc = p.upc) ∧
      (s.placedHere e = false → t.dl.records = s.dl.records ∧ ∃ a, t.pv.tasks = p.tasks ++ [(a, p.head.toNat)]) ∧
      (s.placedHere e = true → ∃ q, t.dl.records = s.dl.records ++ [q] ∧ q.place = some e.ctx ∧ q.task = some p.head.toNat ∧ q.vf = p.vf ∧
        (e.w0.toNat.testBit 53 = false → (t.ring e.iring).rsv = (s.ring e.iring).rsv + 1))) ∧
    (∀ s1 b, fld e.w0 62 2 ≠ 3 → s.headBlock e = (b + 1, s1) → Answers .pavaneHeadEval s fun t => t.pv.block = BitVec.ofNat 2 (b + 1) ∧ t.pv.head = p.head ∧
      t.pv.run = p.run ∧ t.dl.records = s.dl.records ∧ ∀ k : Fin 3, (k.val ≠ b → t.pv.bub.get k = p.bub.get k) ∧
        (k.val = b → s.placedHere e = true → (t.pv.bub.get k).toNat =
          if s.ctxCode e.ctx = 0 ∨ s.ctxCode e.ctx = 8 then min (2 ^ 64 - 1) ((p.bub.get k).toNat + 1) else (p.bub.get k).toNat))) ∧
  (∀ (s : State) (p : PvMsg), let r := s.ring p.ring
    (∀ slot q, Memory.wf s.core.spad = true → p.off = 0 → s.wanting p.ring = [] → r.en = true → r.claim = some (slot, q) → p.bytes.length ≤ r.bytes → Answers (.pavaneOutput p) s fun t =>
      Wrote t.core.spad s.core.spad (r.slotAt slot) p.bytes (fun a => !s.core.mappedOut a) ∧ (t.ring p.ring).tail = (r.tail + 1) % (2 * r.slots) ∧
      (t.ring p.ring).free = r.free - 1 ∧ (p.last = false → (t.ring p.ring).filled = r.filled ∧ (t.ring p.ring).incoming = some slot)) ∧
    (∀ slot, Memory.wf s.core.spad = true → p.off ≠ 0 → r.incoming = some slot → p.off + p.bytes.length ≤ r.bytes → Answers (.pavaneOutput p) s fun t =>
      Wrote t.core.spad s.core.spad (r.slotAt slot + p.off) p.bytes (fun a => !s.core.mappedOut a) ∧ (t.ring p.ring).tail = r.tail ∧ (t.ring p.ring).free = r.free) ∧
    (p.off = 0 → s.wanting p.ring = [] → r.en = false ∨ r.free = 0 → p.last = true → Answers (.pavaneOutput p) s fun t => t.core = s.core ∧ (t.fi.job p.job).d = (s.fi.job p.job).d + 1)) ∧
  (∀ (s : State) (up : Bool) (job : BitVec 12), s.pv.credits.find? (fun e => e.1 == up) = some (up, job) →
    (s.fi.dark = false → Answers (.pavaneCredit up) s fun t => (if up = true then t.pv.upc.toNat = min 4096 (s.pv.upc.toNat + 1) ∧ t.pv.dnc = s.pv.dnc
        else t.pv.dnc.toNat = min 4096 (s.pv.dnc.toNat + 1) ∧ t.pv.upc = s.pv.upc) ∧
      (t.fi.job job).c = (s.fi.job job).c + 1 ∧ t.pv.credits = s.pv.credits.erase (up, job) ∧ t.dm = s.dm) ∧
    (s.fi.dark = true → Answers (.pavaneCredit up) s fun t =>
      t.pv = { s.pv with credits := s.pv.credits.erase (up, job), heldCredits := s.pv.heldCredits ++ [(up, job)] } ∧ t.fi = s.fi)) ∧
  (∀ (s : State) (m : PortMsg), let c := strandCtx m.ctx
    let p := s.port c m.port
    (p.bound = true → s.heldJob c = some m.job → Answers (.portMessageArrive m) s fun t =>
      t.port c m.port = { p with queue := p.queue ++ [⟨m.src, m.job, m.words, false⟩] } ∧ t.fi = s.fi ∧ t.dm = s.dm) ∧
    (p.bound = false ∨ s.heldJob c ≠ some m.job → Answers (.portMessageArrive m) s fun t => t.port c m.port = p ∧ (t.fi.job m.job).d = (s.fi.job m.job).d + 1 ∧ t.dm = s.dm)) ∧
  (∀ (s : State) (c : Fin 4) (n : Fin 16) (words : Nat), let p := s.port (strandCtx c) n
    (s.darkFor p.job p.peer.ldie.toNat = true → exec (.portCredit c n words) s = .next { s with fi := { s.fi with heldCreds := s.fi.heldCreds ++ [(c, n, words)] } }) ∧
    (s.darkFor p.job p.peer.ldie.toNat = false → p.unsent = [] → Answers (.portCredit c n words) s fun t => t.fi = s.fi ∧
      t.port (strandCtx c) n = if p.dep = true then p else { p with cred := min 64 (p.cred + words) }) ∧
    (∀ m, p.dep = false → p.unsent = [m] → m.length ≤ min 64 (p.cred + words) → s.fi.dark = false → Answers (.portCredit c n words) s fun t =>
      t.port (strandCtx c) n = { p with cred := min 64 (p.cred + words) - m.length, unsent := [] } ∧
      ∀ fid die, s.dieOf p.job p.peer.ldie.toNat = .other fid die → ∃ msg, t.fi.outbox = s.fi.outbox ++ [⟨fid, die, false, .port msg p.peer⟩] ∧ msg.words = m ∧ msg.job = p.job))

/-- The group and the dark interval (R344, R351, R352, R357), the job counters (R339), the quiet wave (R349), JFLAGS (R360), markers (R359). How a waiter on a die that does not lead the group knows of a later wave is log 21. -/
def Obligations.FabricEvents : Prop :=
  (∀ (s : State) (v : Word), let n := fld v 42 10
    let table := (List.range n).map fun i => BitVec.ofNat 16 (s.devWord (fld v 6 34 * 64 + 8 * i)).toNat
    v.toNat.testBit 62 = true →
    (0 < n → n ≤ 512 → s.fi.fid ∈ table → table.Nodup → Answers (.groupLoad v) s fun t => t.fi.table = some table ∧ t.fi.err = 0 ∧ t.fi.seq = s.fi.seq + 1 ∧
      t.fi.idx.toNat = table.idxOf s.fi.fid ∧ t.fi.dark = true ∧ t.fi.count.toNat = n ∧ t.fi.base.toNat = fld v 6 34 ∧ t.fi.waves = [] ∧
      (∀ j, (t.fi.job j).jflags = 0) ∧ t.dm = s.dm) ∧
    (0 < n → n ≤ 512 → s.fi.fid ∉ table → Answers (.groupLoad v) s fun t => t.fi.err = 1 ∧ t.fi.table = s.fi.table ∧ t.fi.seq = s.fi.seq) ∧
    (0 < n → n ≤ 512 → s.fi.fid ∈ table → ¬ table.Nodup → Answers (.groupLoad v) s fun t => t.fi.err = 2 ∧ t.fi.table = s.fi.table ∧ t.fi.seq = s.fi.seq) ∧
    (n = 0 ∨ 512 < n → Answers (.groupLoad v) s fun t => t.fi.err = 3 ∧ t.fi.table = s.fi.table ∧ t.fi.seq = s.fi.seq)) ∧
  (∀ (s : State) (v : Word), v.toNat.testBit 62 = false → s.fi.dark = false → s.fi.table ≠ none → Answers (.groupLoad v) s fun t =>
    t.fi.err = 4 ∧ t.fi.table = s.fi.table ∧ t.fi.seq = s.fi.seq) ∧
  (∀ s : State, exec .darkSet s = .next { s with fi := { s.fi with dark := true } } ∧ (s.fi.dark = false → exec .darkClear s = .next s) ∧
    (s.fi.dark = true → Answers .darkClear s fun t => t.fi.dark = false ∧ t.fi.heldCreds = [] ∧ t.pv.heldCredits = [] ∧ t.fi.table = s.fi.table ∧
      (let u : State := { s with fi := { s.fi with dark := false, heldCreds := [] }, pk := { s.pk with pv := { s.pv with heldCredits := [] } } }
       ∀ job, u.departures = u → s.fi.heldCreds = [] → s.pv.heldCredits = [(false, job)] → s.pv.down.toNat.testBit 63 = true → t.pv.dnc.toNat = min 4096 (s.pv.dnc.toNat + 1) ∧
         (t.fi.job job).c = (s.fi.job job).c + 1))) ∧
  (∀ (s : State) (j : BitVec 12), SMap.wf Job.reset s.fi.jobs = true →
    ((∀ c u, (s.ctx c).strand = some u → u.job ≠ j) → (∀ u ∈ s.dl.subs, u.job ≠ j) → Answers (.jobCounterClear j) s fun t =>
      (t.fi.job j).i = 0 ∧ (t.fi.job j).c = 0 ∧ (t.fi.job j).d = 0 ∧ (t.fi.job j).act = false ∧ (s.isLeader = true → (t.fi.job j).jflags = 0) ∧
      ∀ k, k ≠ j → t.fi.job k = s.fi.job k) ∧
    ((∃ c u, (s.ctx c).strand = some u ∧ u.job = j) → exec (.jobCounterClear j) s = .next s) ∧
    (∀ bits, (s.isLeader = true → Answers (.jsetArrive j bits) s fun t => t.fi.job j = { s.fi.job j with jflags := (s.fi.job j).jflags ||| bits } ∧
        ∀ k, k ≠ j → t.fi.job k = s.fi.job k) ∧
      (s.isLeader = false → exec (.jsetArrive j bits) s = .next s))) ∧
  (∀ (s : State) (j : BitVec 12), s.waveDue j = true → let n := s.waveNow j + 1
    Answers (.quietWaveStart j) s fun t => (t.fi.job j).waves = n ∧ (t.fi.job j).began = s.dl.dcyc.toNat ∧ t.fi.waves = s.fi.waves ++ [⟨j, n, 0⟩] ∧
      t.agenda = s.agenda ++ [.quietWaveVisit ⟨j, false, false, n, 0, 0, 0, 0⟩] ∧ t.dm = s.dm) ∧
  (∀ (s : State) (w : WaveMsg), let x := s.fi.job w.job
    SMap.wf Job.reset s.fi.jobs = true → s.fi.members[w.member]? = some s.fi.fid → w.die = s.core.die → w.die ≠ 3 → Answers (.quietWaveVisit w) s fun t =>
      (t.fi.job w.job).act = (w.second && x.act) ∧ (t.fi.job w.job).i = x.i ∧ (t.fi.job w.job).c = x.c ∧ (t.fi.job w.job).d = x.d ∧
      t.fi.outbox = s.fi.outbox ++ [⟨s.fi.fid, w.die + 1, false, .wave
        { w with sum := w.sum + x.i.toNat - x.c.toNat - x.d.toNat, act := if w.second then w.act || x.act else w.act, die := w.die + 1 }⟩]) ∧
  (∀ (s : State) (w : WaveMsg) (x : Wave), s.fi.members.length ≤ w.member → s.fi.waves.find? (fun x => x.job == w.job && x.number == w.number) = some x →
    w.second = true → Answers (.quietWaveVisit w) s fun t =>
      let d : DeclMsg := ⟨w.job, decide (x.sum1 = 0 ∧ w.sum = 0 ∧ w.act = false), w.number, (s.fi.job w.job).jflags⟩
      (∀ y ∈ t.fi.waves, y.job ≠ w.job) ∧ ∀ fid ∈ s.fi.members, ∀ k : BitVec 2,
        if fid = s.fi.fid ∧ k = s.core.die then .quietDeclaration d ∈ t.agenda else ⟨fid, k, false, .declaration d⟩ ∈ t.fi.outbox) ∧
  (∀ (s : State) (d : DeclMsg), Answers (.quietDeclaration d) s fun t => t.fi.job d.job =
    { s.fi.job d.job with decl := some ⟨d.quiet, d.number, d.jflags⟩, waves := max (s.fi.job d.job).waves d.number } ∧ t.core = s.core ∧ t.dm = s.dm) ∧
  (∀ (s : State) (j : BitVec 12) (i : Fin 16), let k := s.fi.links.get i
    SMap.wf 0 k.markers = true → Answers (.markerArrive j i) s fun t => getAt 0 (t.fi.links.get i).markers j.toNat = (getAt 0 k.markers j.toNat + 1) % 256 ∧
      ∀ n, n ≠ i → t.fi.links.get n = s.fi.links.get n) ∧
  (∀ (s : State) (fid : BitVec 16), Answers (.noRouteReachesMember fid) s fun t => fid ∈ t.fi.cut ∧ t.fi.waves = [] ∧ t.fi.table = s.fi.table)

namespace Sys2Proof.Stated

/-- A link sends flit `f`: over the next live fibre in turn after the last one used (R353), or nowhere where none is live. -/
def Sends (l l' : Link) (f : BitVec 576) : Prop :=
  ((∀ k, l.live k = false) ∧ l' = l) ∨
  ∃ (k : Fin 4) (n : Nat), 1 ≤ n ∧ n ≤ 4 ∧ k.val = (l.turn.val + n) % 4 ∧ l.live k = true ∧
    (∀ (j : Fin 4) (m : Nat), 1 ≤ m → m < n → j.val = (l.turn.val + m) % 4 → l.live j = false) ∧ l' = { l with out := l.out ++ [(k.val, f)], turn := k }

/-- The flits `again` of a replay buffer went out once more, in order, and nothing left the buffer (R356). -/
def SentAgain (l l' : Link) (buf again : List SentFlit) : Prop :=
  l'.replayBuf.map (fun e => (e.seq, e.flit)) = buf.map (fun e => (e.seq, e.flit)) ∧ l'.out.map (·.2) = l.out.map (·.2) ++ again.map (·.flit) ∧
  l'.replays = l.replays + BitVec.ofNat 64 again.length

end Sys2Proof.Stated

/-- The links (R353 to R357, R362): flits, replay, dead wavelengths, the relock. The model's own in it: which flits take a sequence number (log 24), what a relock does to flits not acknowledged (log 26), how a link learns its peer (log 87). -/
def Obligations.LinkEvents : Prop :=
  (∀ (s : State) (i : Fin 16) (f : BitVec 576), let l := s.fi.links.get i
    let type := f.toNat / 2 ^ 512 % 16
    let ack : BitVec 14 := BitVec.ofNat 14 (f.toNat / 2 ^ 516)
    let seq : BitVec 14 := BitVec.ofNat 14 (f.toNat / 2 ^ 530)
    let trimmed := { l with replayBuf := l.replayBuf.filter fun e => !decide ((ack - e.seq).toNat < 4096) }
    let Asks := fun (l0 : Link) => Answers (.linkFlitReceive i f) s fun t => Sends l0 (t.fi.links.get i) (mkFlit 0 6 0 l.rxSeq) ∧ t.agenda = s.agenda
    let Leaves := fun (l1 : Link) => Answers (.linkFlitReceive i f) s fun t => t.fi.links.get i = l1 ∧ t.agenda = s.agenda
    (l.state = .locking → exec (.linkFlitReceive i f) s = .next s) ∧
    (l.state ≠ .locking →
      (flitGood f = false → Asks { l with crcErrors := l.crcErrors + 1 }) ∧
      (flitGood f = true → 7 ≤ type → Asks l) ∧
      (flitGood f = true → type = 6 → Answers (.linkFlitReceive i f) s fun t => t.agenda = s.agenda ++ [.replayRequest i ack] ∧ t.fi = s.fi) ∧
      (flitGood f = true → type = 0 ∨ type = 3 → Leaves trimmed) ∧
      (flitGood f = true → type = 5 → seq = l.rxSeq → Answers (.linkFlitReceive i f) s fun t =>
        t.fi.links.get i = { trimmed with rxSeq := l.rxSeq + 1, peerFid := BitVec.ofNat 16 (f.toNat / 2 ^ 16), peerLink := BitVec.ofNat 4 (f.toNat / 2 ^ 32) } ∧
        t.agenda = s.agenda ++ [.markerArrive (BitVec.ofNat 12 f.toNat) i]) ∧
      (flitGood f = true → type = 1 ∨ type = 2 ∨ type = 4 ∨ type = 5 → seq ≠ l.rxSeq →
        ((l.rxSeq - seq).toNat ≤ 4096 → Leaves { trimmed with ackSent := l.rxSeq - 2 }) ∧ (4096 < (l.rxSeq - seq).toNat → Asks trimmed)))) ∧
  (∀ (s : State) (i : Fin 16) (seq : BitVec 14), let l := s.fi.links.get i
    let buf := l.replayBuf.filter fun e => !decide ((seq - 1 - e.seq).toNat < 4096)
    (∃ k, l.live k = true) → Answers (.replayRequest i seq) s fun t =>
      SentAgain l (t.fi.links.get i) buf (if l.isUp = true then buf.filter fun e => decide ((e.seq - seq).toNat < 4096) else []) ∧
      ∀ n, n ≠ i → t.fi.links.get n = s.fi.links.get n) ∧
  (∀ (s : State) (i n : Fin 16) (b : Fin 4), let l := s.fi.links.get i
    (l.state ≠ .locking → (l.masks.get b).toNat.testBit n.val = true → Answers (.wavelengthDead i b n) s fun t =>
      t = { s with fi := { s.fi with links := s.fi.links.set i.val { l with failing := l.failing.set b.val (l.failing.get b ||| BitVec.ofNat 16 (2 ^ n.val)) b.isLt } i.isLt } }) ∧
    (l.state = .locking ∨ (l.masks.get b).toNat.testBit n.val = false → exec (.wavelengthDead i b n) s = .next s)) ∧
  (∀ (s : State) (i : Fin 16) (k : Fin 4), let l := s.fi.links.get i
    let t := s.loseLight i k
    let l' := t.fi.links.get i
    let again := l.replayBuf.filter fun e => l.inReplay || decide (e.fibre = k.val)
    (l.failing.get k = 0 → t = s) ∧
    (l.failing.get k ≠ 0 → l'.masks.get k = (l.masks.get k &&& ~~~(l.failing.get k)) ∧ (∀ m, m ≠ k → l'.masks.get m = l.masks.get m) ∧ l'.failing.get k = 0 ∧
      (l'.state = .down ↔ ∀ m, popcount (l'.masks.get m).toNat 16 < 4) ∧ (l'.state = .up ↔ ∀ m, l'.masks.get m = BitVec.allOnes 16) ∧
      SentAgain l l' l.replayBuf (if l'.state = .down then [] else again) ∧
      (let u : State := { s with fi := { s.fi with links := s.fi.links.set i.val l' i.isLt } }
       t = if s.fi.dark = true then u else
         u.serviceAt (i.val / 4) 7 0 (nword (i.val * 2 ^ 60 + k.val * 2 ^ 56 + (l'.masks.get k).toNat * 2 ^ 32 + (l'.replays - l.replays).toNat % 2 ^ 32))))) ∧
  (∀ (s : State) (i : Fin 16), exec (.linkRelock i) s = .next { s with fi := { s.fi with
    links := s.fi.links.set i.val { s.fi.links.get i with state := .locking, failing := Vector.replicate 4 0 } i.isLt } }) ∧
  (∀ (s : State) (i : Fin 16) (locked : BitVec 64), ((s.fi.links.get i).state ≠ .locking → exec (.relockDone i locked) s = .next s) ∧
    ((s.fi.links.get i).state = .locking → Answers (.relockDone i locked) s fun t => let l := t.fi.links.get i
    (∀ k : Fin 4, (l.masks.get k).toNat = fld locked (16 * k.val) 16) ∧ l.txSeq = 0 ∧ l.rxSeq = 0 ∧ l.replayBuf = [] ∧ l.asm_ = none ∧ l.queue = [] ∧
    (l.state = .down ↔ ∀ k, popcount (l.masks.get k).toNat 16 < 4) ∧ (l.state = .up ↔ ∀ k, l.masks.get k = BitVec.allOnes 16)))
end

