-- ==== Sys2Proof/Laws/Maps.lean ====
section
/-! SUPPORT. The laws of sparse maps and of memory: read after write, and the canonical form that every operation keeps. -/

namespace Sys2Proof.Machine

variable {α : Type}

theorem above_iff {k : Nat} {m : SMap α} : above k m = true ↔ ∀ e ∈ m, k < e.1 := by simp [above]

@[simp] theorem rising_nil : rising ([] : SMap α) = true := rfl

theorem rising_cons {a : Nat} {v : α} {m : SMap α} : rising ((a, v) :: m) = true ↔ (∀ e ∈ m, a < e.1) ∧ rising m = true := by
  simp [rising, above_iff]

theorem lookup_of_above {k : Nat} {m : SMap α} (h : ∀ e ∈ m, k < e.1) : lookup m k = none := by
  induction m with
  | nil => rfl
  | cons e m ih =>
    have h1 := h e (by simp)
    simp only [lookup, show e.1 ≠ k by omega, if_false]
    exact ih fun e' he' => h e' (by simp [he'])

/-- An entry set is the entry read; every other key reads as before. -/
theorem lookup_insertAt (m : SMap α) (k j : Nat) (v : α) : lookup (insertAt m k v) j = if k = j then some v else lookup m j := by
  induction m with
  | nil => simp [insertAt, lookup]
  | cons e m ih =>
    obtain ⟨a, w⟩ := e
    simp only [insertAt]
    split
    · simp [lookup]
    · split
      · subst_vars
        by_cases hj : a = j <;> simp [lookup, hj]
      · by_cases hj : a = j
        · subst hj
          simp [lookup, show ¬ k = a by omega]
        · simp [lookup, hj, ih]

/-- In a rising map an erased key reads as unlisted; every other key reads as before. -/
theorem lookup_eraseAt {m : SMap α} (h : rising m = true) (k j : Nat) : lookup (eraseAt m k) j = if k = j then none else lookup m j := by
  induction m with
  | nil => simp [eraseAt, lookup]
  | cons e m ih =>
    obtain ⟨a, w⟩ := e
    rw [rising_cons] at h
    simp only [eraseAt]
    split
    · rename_i ha
      subst ha
      by_cases hj : a = j
      · subst hj
        simp [lookup_of_above h.1]
      · simp [lookup, hj]
    · by_cases hj : a = j
      · subst hj
        simp [lookup, show ¬ k = a by omega]
      · simp [lookup, hj, ih h.2]

theorem mem_insertAt {m : SMap α} {k : Nat} {v : α} {e : Nat × α} (h : e ∈ insertAt m k v) : e = (k, v) ∨ e ∈ m := by
  induction m with
  | nil => simp only [insertAt, List.mem_singleton] at h; exact .inl h
  | cons x m ih =>
    simp only [insertAt] at h
    split at h
    · simpa using h
    · split at h
      · simp only [List.mem_cons] at h ⊢
        tauto
      · simp only [List.mem_cons] at h ⊢
        rcases h with h | h
        · exact .inr (.inl h)
        · rcases ih h with h | h
          · exact .inl h
          · exact .inr (.inr h)

theorem mem_eraseAt {m : SMap α} {k : Nat} {e : Nat × α} (h : e ∈ eraseAt m k) : e ∈ m := by
  induction m with
  | nil => simp [eraseAt] at h
  | cons x m ih =>
    simp only [eraseAt] at h
    split at h
    · exact List.mem_cons_of_mem _ h
    · simp only [List.mem_cons] at h ⊢
      exact h.imp id ih

theorem rising_insertAt {m : SMap α} (h : rising m = true) (k : Nat) (v : α) : rising (insertAt m k v) = true := by
  induction m with
  | nil => simp [insertAt, rising, above]
  | cons e m ih =>
    obtain ⟨a, w⟩ := e
    have h' := h
    rw [rising_cons] at h
    simp only [insertAt]
    split
    · rw [rising_cons]
      refine ⟨fun e he => ?_, h'⟩
      simp only [List.mem_cons] at he
      rcases he with rfl | he
      · assumption
      · have := h.1 e he
        omega
    · split
      · subst_vars
        exact rising_cons.mpr h
      · rw [rising_cons]
        refine ⟨fun e he => ?_, ih h.2⟩
        rcases mem_insertAt he with rfl | he
        · simp only
          omega
        · exact h.1 e he

theorem rising_eraseAt {m : SMap α} (h : rising m = true) (k : Nat) : rising (eraseAt m k) = true := by
  induction m with
  | nil => rfl
  | cons e m ih =>
    obtain ⟨a, w⟩ := e
    rw [rising_cons] at h
    simp only [eraseAt]
    split
    · exact h.2
    · rw [rising_cons]
      exact ⟨fun e he => h.1 e (mem_eraseAt he), ih h.2⟩

theorem rising_filter {m : SMap α} (h : rising m = true) (p : Nat × α → Bool) : rising (m.filter p) = true := by
  induction m with
  | nil => rfl
  | cons e m ih =>
    obtain ⟨a, w⟩ := e
    rw [rising_cons] at h
    simp only [List.filter_cons]
    split
    · rw [rising_cons]
      exact ⟨fun e he => h.1 e (List.mem_filter.mp he).1, ih h.2⟩
    · exact ih h.2

section
variable [DecidableEq α] {d : α} {m : SMap α}

theorem wf_iff : SMap.wf d m = true ↔ rising m = true ∧ ∀ e ∈ m, e.2 ≠ d := by simp [SMap.wf]

/-- Setting a key keeps the canonical form. -/
theorem wf_putAt (h : SMap.wf d m = true) (k : Nat) (v : α) : SMap.wf d (putAt d m k v) = true := by
  rw [wf_iff] at h ⊢
  simp only [putAt]
  split
  · exact ⟨rising_eraseAt h.1 k, fun e he => h.2 e (mem_eraseAt he)⟩
  · refine ⟨rising_insertAt h.1 k v, fun e he => ?_⟩
    rcases mem_insertAt he with rfl | he
    · assumption
    · exact h.2 e he

/-- Dropping entries keeps the canonical form. -/
theorem wf_filter (h : SMap.wf d m = true) (p : Nat × α → Bool) : SMap.wf d (m.filter p) = true := by
  rw [wf_iff] at h ⊢
  exact ⟨rising_filter h.1 p, fun e he => h.2 e (List.mem_filter.mp he).1⟩

/-- A key read after it is set gives the value; every other key reads as before. -/
theorem getAt_putAt (h : SMap.wf d m = true) (k j : Nat) (v : α) : getAt d (putAt d m k v) j = if k = j then v else getAt d m j := by
  rw [wf_iff] at h
  simp only [putAt]
  split
  · rename_i hv
    subst hv
    simp only [getAt, lookup_eraseAt h.1]
    split <;> simp
  · simp only [getAt, lookup_insertAt]
    split <;> simp

end

namespace Memory

variable {m : Memory}

@[simp] theorem wf_nil : Memory.wf [] = true := rfl

@[simp] theorem get_nil (a : Nat) : Memory.get [] a = 0 := rfl

/-- A write of one byte keeps the canonical form. -/
theorem wf_set (h : Memory.wf m = true) (a : Nat) (b : Byte) : Memory.wf (Memory.set m a b) = true := wf_putAt h a b

/-- Read after write. -/
theorem get_set (h : Memory.wf m = true) (a j : Nat) (b : Byte) : Memory.get (Memory.set m a b) j = if a = j then b else Memory.get m j :=
  getAt_putAt h a j b

/-- A write of several bytes keeps the canonical form. -/
theorem wf_setAll (h : Memory.wf m = true) (a : Nat) (bs : List Byte) : Memory.wf (Memory.setAll m a bs) = true := by
  induction bs generalizing m a with
  | nil => exact h
  | cons b r ih => exact ih (wf_set h a b) (a + 1)

/-- A write under a predicate keeps the canonical form. -/
theorem wf_setWhere (h : Memory.wf m = true) (a : Nat) (bs : List Byte) (en : Nat → Bool) : Memory.wf (Memory.setWhere m a bs en) = true := by
  induction bs generalizing m a with
  | nil => exact h
  | cons b r ih =>
    simp only [Memory.setWhere]
    split
    · exact ih (wf_set h a b) (a + 1)
    · exact ih h (a + 1)

/-- Dropping bytes keeps the canonical form. -/
theorem wf_drop (h : Memory.wf m = true) (p : Nat × Byte → Bool) : Memory.wf (m.filter p) = true := wf_filter h p

/-- Bytes outside the written span read as before. -/
theorem get_setAll_of_ne (h : Memory.wf m = true) (a j : Nat) (bs : List Byte) (hj : j < a ∨ a + bs.length ≤ j) :
    Memory.get (Memory.setAll m a bs) j = Memory.get m j := by
  induction bs generalizing m a with
  | nil => rfl
  | cons b r ih =>
    simp only [List.length_cons] at hj
    simp only [Memory.setAll]
    rw [ih (wf_set h a b) (a + 1) (by omega), get_set h, if_neg (by omega)]

/-- Byte `i` of a written span is byte `i` of the value. -/
theorem get_setAll (h : Memory.wf m = true) (a : Nat) (bs : List Byte) (i : Nat) (hi : i < bs.length) :
    Memory.get (Memory.setAll m a bs) (a + i) = bs[i] := by
  induction bs generalizing m a i with
  | nil => simp at hi
  | cons b r ih =>
    simp only [Memory.setAll]
    cases i with
    | zero =>
      rw [get_setAll_of_ne (wf_set h a b) (a + 1) (a + 0) r (by omega), get_set h]
      simp
    | succ i =>
      have := ih (wf_set h a b) (a + 1) i (by simpa using hi)
      rw [show a + (i + 1) = a + 1 + i by omega, this]
      simp

end Memory

end Sys2Proof.Machine
end

