-- ==== Sys2Proof/Laws/State.lean ====
section
/-! SUPPORT. What each update of the state leaves alone, and what a register or context reads after it: one lemma per field per update. -/

namespace Sys2Proof.Machine

/-! ### `State.setCtx` -/

@[simp] theorem State.setCtx_cl (s : State) (c : Fin 5) (x : Ctx) : (s.setCtx c x).cl = s.cl := rfl
@[simp] theorem State.setCtx_dm (s : State) (c : Fin 5) (x : Ctx) : (s.setCtx c x).dm = s.dm := rfl
@[simp] theorem State.setCtx_dl (s : State) (c : Fin 5) (x : Ctx) : (s.setCtx c x).dl = s.dl := rfl
@[simp] theorem State.setCtx_pk (s : State) (c : Fin 5) (x : Ctx) : (s.setCtx c x).pk = s.pk := rfl
@[simp] theorem State.setCtx_fi (s : State) (c : Fin 5) (x : Ctx) : (s.setCtx c x).fi = s.fi := rfl
@[simp] theorem State.setCtx_agenda (s : State) (c : Fin 5) (x : Ctx) : (s.setCtx c x).agenda = s.agenda := rfl
@[simp] theorem State.setCtx_free (s : State) (c : Fin 5) (x : Ctx) : (s.setCtx c x).free = s.free := rfl
@[simp] theorem State.setCtx_tags (s : State) (c : Fin 5) (x : Ctx) : (s.setCtx c x).tags = s.tags := rfl
@[simp] theorem State.setCtx_verdict (s : State) (c : Fin 5) (x : Ctx) : (s.setCtx c x).verdict = s.verdict := rfl
@[simp] theorem State.setCtx_issue (s : State) (c : Fin 5) (x : Ctx) : (s.setCtx c x).issue = s.issue := rfl
@[simp] theorem State.setCtx_core_cur (s : State) (c : Fin 5) (x : Ctx) : (s.setCtx c x).core.cur = s.core.cur := rfl
@[simp] theorem State.setCtx_core_irq (s : State) (c : Fin 5) (x : Ctx) : (s.setCtx c x).core.irq = s.core.irq := rfl
@[simp] theorem State.setCtx_core_serving (s : State) (c : Fin 5) (x : Ctx) : (s.setCtx c x).core.serving = s.core.serving := rfl
@[simp] theorem State.setCtx_core_resumeAt (s : State) (c : Fin 5) (x : Ctx) : (s.setCtx c x).core.resumeAt = s.core.resumeAt := rfl
@[simp] theorem State.setCtx_core_svcRun (s : State) (c : Fin 5) (x : Ctx) : (s.setCtx c x).core.svcRun = s.core.svcRun := rfl
@[simp] theorem State.setCtx_core_banks (s : State) (c : Fin 5) (x : Ctx) : (s.setCtx c x).core.banks = s.core.banks := rfl
@[simp] theorem State.setCtx_core_demotions (s : State) (c : Fin 5) (x : Ctx) : (s.setCtx c x).core.demotions = s.core.demotions := rfl
@[simp] theorem State.setCtx_core_spad (s : State) (c : Fin 5) (x : Ctx) : (s.setCtx c x).core.spad = s.core.spad := rfl
@[simp] theorem State.setCtx_core_coreErr (s : State) (c : Fin 5) (x : Ctx) : (s.setCtx c x).core.coreErr = s.core.coreErr := rfl
@[simp] theorem State.setCtx_core_svcEn (s : State) (c : Fin 5) (x : Ctx) : (s.setCtx c x).core.svcEn = s.core.svcEn := rfl
@[simp] theorem State.setCtx_core_selReg (s : State) (c : Fin 5) (x : Ctx) : (s.setCtx c x).core.selReg = s.core.selReg := rfl
@[simp] theorem State.setCtx_core_partA (s : State) (c : Fin 5) (x : Ctx) : (s.setCtx c x).core.partA = s.core.partA := rfl
@[simp] theorem State.setCtx_core_partB (s : State) (c : Fin 5) (x : Ctx) : (s.setCtx c x).core.partB = s.core.partB := rfl
@[simp] theorem State.setCtx_core_arenaBase (s : State) (c : Fin 5) (x : Ctx) : (s.setCtx c x).core.arenaBase = s.core.arenaBase := rfl
@[simp] theorem State.setCtx_core_arenaBound (s : State) (c : Fin 5) (x : Ctx) : (s.setCtx c x).core.arenaBound = s.core.arenaBound := rfl
@[simp] theorem State.setCtx_core_die (s : State) (c : Fin 5) (x : Ctx) : (s.setCtx c x).core.die = s.core.die := rfl
@[simp] theorem State.setCtx_core_cluster (s : State) (c : Fin 5) (x : Ctx) : (s.setCtx c x).core.cluster = s.core.cluster := rfl
@[simp] theorem State.setCtx_core_core (s : State) (c : Fin 5) (x : Ctx) : (s.setCtx c x).core.core = s.core.core := rfl
@[simp] theorem State.setCtx_core_rings (s : State) (c : Fin 5) (x : Ctx) : (s.setCtx c x).core.rings = s.core.rings := rfl
@[simp] theorem State.setCtx_core_acc (s : State) (c : Fin 5) (x : Ctx) : (s.setCtx c x).core.acc = s.core.acc := rfl
@[simp] theorem State.setCtx_core_accWm (s : State) (c : Fin 5) (x : Ctx) : (s.setCtx c x).core.accWm = s.core.accWm := rfl
@[simp] theorem State.setCtx_core_accLast (s : State) (c : Fin 5) (x : Ctx) : (s.setCtx c x).core.accLast = s.core.accLast := rfl
@[simp] theorem State.setCtx_core_ops (s : State) (c : Fin 5) (x : Ctx) : (s.setCtx c x).core.ops = s.core.ops := rfl
@[simp] theorem State.setCtx_core_wbuf (s : State) (c : Fin 5) (x : Ctx) : (s.setCtx c x).core.wbuf = s.core.wbuf := rfl
@[simp] theorem State.setCtx_core_l1 (s : State) (c : Fin 5) (x : Ctx) : (s.setCtx c x).core.l1 = s.core.l1 := rfl
@[simp] theorem State.setCtx_core_icache (s : State) (c : Fin 5) (x : Ctx) : (s.setCtx c x).core.icache = s.core.icache := rfl
@[simp] theorem State.setCtx_core_flaws (s : State) (c : Fin 5) (x : Ctx) : (s.setCtx c x).core.flaws = s.core.flaws := rfl
@[simp] theorem State.setCtx_core_retired (s : State) (c : Fin 5) (x : Ctx) : (s.setCtx c x).core.retired = s.core.retired := rfl
@[simp] theorem State.setCtx_core_fixed (s : State) (c : Fin 5) (x : Ctx) : (s.setCtx c x).core.fixed = s.core.fixed := rfl
@[simp] theorem State.setCtx_core_restored (s : State) (c : Fin 5) (x : Ctx) : (s.setCtx c x).core.restored = s.core.restored := rfl
@[simp] theorem State.setCtx_core_flying (s : State) (c : Fin 5) (x : Ctx) : (s.setCtx c x).core.flying = s.core.flying := rfl
@[simp] theorem State.setCtx_core_acked (s : State) (c : Fin 5) (x : Ctx) : (s.setCtx c x).core.acked = s.core.acked := rfl

/-! ### `State.modCtx` -/

@[simp] theorem State.modCtx_cl (s : State) (c : Fin 5) (f : Ctx → Ctx) : (s.modCtx c f).cl = s.cl := rfl
@[simp] theorem State.modCtx_dm (s : State) (c : Fin 5) (f : Ctx → Ctx) : (s.modCtx c f).dm = s.dm := rfl
@[simp] theorem State.modCtx_dl (s : State) (c : Fin 5) (f : Ctx → Ctx) : (s.modCtx c f).dl = s.dl := rfl
@[simp] theorem State.modCtx_pk (s : State) (c : Fin 5) (f : Ctx → Ctx) : (s.modCtx c f).pk = s.pk := rfl
@[simp] theorem State.modCtx_fi (s : State) (c : Fin 5) (f : Ctx → Ctx) : (s.modCtx c f).fi = s.fi := rfl
@[simp] theorem State.modCtx_agenda (s : State) (c : Fin 5) (f : Ctx → Ctx) : (s.modCtx c f).agenda = s.agenda := rfl
@[simp] theorem State.modCtx_free (s : State) (c : Fin 5) (f : Ctx → Ctx) : (s.modCtx c f).free = s.free := rfl
@[simp] theorem State.modCtx_tags (s : State) (c : Fin 5) (f : Ctx → Ctx) : (s.modCtx c f).tags = s.tags := rfl
@[simp] theorem State.modCtx_verdict (s : State) (c : Fin 5) (f : Ctx → Ctx) : (s.modCtx c f).verdict = s.verdict := rfl
@[simp] theorem State.modCtx_issue (s : State) (c : Fin 5) (f : Ctx → Ctx) : (s.modCtx c f).issue = s.issue := rfl
@[simp] theorem State.modCtx_core_cur (s : State) (c : Fin 5) (f : Ctx → Ctx) : (s.modCtx c f).core.cur = s.core.cur := rfl
@[simp] theorem State.modCtx_core_irq (s : State) (c : Fin 5) (f : Ctx → Ctx) : (s.modCtx c f).core.irq = s.core.irq := rfl
@[simp] theorem State.modCtx_core_serving (s : State) (c : Fin 5) (f : Ctx → Ctx) : (s.modCtx c f).core.serving = s.core.serving := rfl
@[simp] theorem State.modCtx_core_resumeAt (s : State) (c : Fin 5) (f : Ctx → Ctx) : (s.modCtx c f).core.resumeAt = s.core.resumeAt := rfl
@[simp] theorem State.modCtx_core_svcRun (s : State) (c : Fin 5) (f : Ctx → Ctx) : (s.modCtx c f).core.svcRun = s.core.svcRun := rfl
@[simp] theorem State.modCtx_core_banks (s : State) (c : Fin 5) (f : Ctx → Ctx) : (s.modCtx c f).core.banks = s.core.banks := rfl
@[simp] theorem State.modCtx_core_demotions (s : State) (c : Fin 5) (f : Ctx → Ctx) : (s.modCtx c f).core.demotions = s.core.demotions := rfl
@[simp] theorem State.modCtx_core_spad (s : State) (c : Fin 5) (f : Ctx → Ctx) : (s.modCtx c f).core.spad = s.core.spad := rfl
@[simp] theorem State.modCtx_core_coreErr (s : State) (c : Fin 5) (f : Ctx → Ctx) : (s.modCtx c f).core.coreErr = s.core.coreErr := rfl
@[simp] theorem State.modCtx_core_svcEn (s : State) (c : Fin 5) (f : Ctx → Ctx) : (s.modCtx c f).core.svcEn = s.core.svcEn := rfl
@[simp] theorem State.modCtx_core_selReg (s : State) (c : Fin 5) (f : Ctx → Ctx) : (s.modCtx c f).core.selReg = s.core.selReg := rfl
@[simp] theorem State.modCtx_core_partA (s : State) (c : Fin 5) (f : Ctx → Ctx) : (s.modCtx c f).core.partA = s.core.partA := rfl
@[simp] theorem State.modCtx_core_partB (s : State) (c : Fin 5) (f : Ctx → Ctx) : (s.modCtx c f).core.partB = s.core.partB := rfl
@[simp] theorem State.modCtx_core_arenaBase (s : State) (c : Fin 5) (f : Ctx → Ctx) : (s.modCtx c f).core.arenaBase = s.core.arenaBase := rfl
@[simp] theorem State.modCtx_core_arenaBound (s : State) (c : Fin 5) (f : Ctx → Ctx) : (s.modCtx c f).core.arenaBound = s.core.arenaBound := rfl
@[simp] theorem State.modCtx_core_die (s : State) (c : Fin 5) (f : Ctx → Ctx) : (s.modCtx c f).core.die = s.core.die := rfl
@[simp] theorem State.modCtx_core_cluster (s : State) (c : Fin 5) (f : Ctx → Ctx) : (s.modCtx c f).core.cluster = s.core.cluster := rfl
@[simp] theorem State.modCtx_core_core (s : State) (c : Fin 5) (f : Ctx → Ctx) : (s.modCtx c f).core.core = s.core.core := rfl
@[simp] theorem State.modCtx_core_rings (s : State) (c : Fin 5) (f : Ctx → Ctx) : (s.modCtx c f).core.rings = s.core.rings := rfl
@[simp] theorem State.modCtx_core_acc (s : State) (c : Fin 5) (f : Ctx → Ctx) : (s.modCtx c f).core.acc = s.core.acc := rfl
@[simp] theorem State.modCtx_core_accWm (s : State) (c : Fin 5) (f : Ctx → Ctx) : (s.modCtx c f).core.accWm = s.core.accWm := rfl
@[simp] theorem State.modCtx_core_accLast (s : State) (c : Fin 5) (f : Ctx → Ctx) : (s.modCtx c f).core.accLast = s.core.accLast := rfl
@[simp] theorem State.modCtx_core_ops (s : State) (c : Fin 5) (f : Ctx → Ctx) : (s.modCtx c f).core.ops = s.core.ops := rfl
@[simp] theorem State.modCtx_core_wbuf (s : State) (c : Fin 5) (f : Ctx → Ctx) : (s.modCtx c f).core.wbuf = s.core.wbuf := rfl
@[simp] theorem State.modCtx_core_l1 (s : State) (c : Fin 5) (f : Ctx → Ctx) : (s.modCtx c f).core.l1 = s.core.l1 := rfl
@[simp] theorem State.modCtx_core_icache (s : State) (c : Fin 5) (f : Ctx → Ctx) : (s.modCtx c f).core.icache = s.core.icache := rfl
@[simp] theorem State.modCtx_core_flaws (s : State) (c : Fin 5) (f : Ctx → Ctx) : (s.modCtx c f).core.flaws = s.core.flaws := rfl
@[simp] theorem State.modCtx_core_retired (s : State) (c : Fin 5) (f : Ctx → Ctx) : (s.modCtx c f).core.retired = s.core.retired := rfl
@[simp] theorem State.modCtx_core_fixed (s : State) (c : Fin 5) (f : Ctx → Ctx) : (s.modCtx c f).core.fixed = s.core.fixed := rfl
@[simp] theorem State.modCtx_core_restored (s : State) (c : Fin 5) (f : Ctx → Ctx) : (s.modCtx c f).core.restored = s.core.restored := rfl
@[simp] theorem State.modCtx_core_flying (s : State) (c : Fin 5) (f : Ctx → Ctx) : (s.modCtx c f).core.flying = s.core.flying := rfl
@[simp] theorem State.modCtx_core_acked (s : State) (c : Fin 5) (f : Ctx → Ctx) : (s.modCtx c f).core.acked = s.core.acked := rfl

/-! ### `State.modMe` -/

@[simp] theorem State.modMe_cl (s : State) (f : Ctx → Ctx) : (s.modMe f).cl = s.cl := rfl
@[simp] theorem State.modMe_dm (s : State) (f : Ctx → Ctx) : (s.modMe f).dm = s.dm := rfl
@[simp] theorem State.modMe_dl (s : State) (f : Ctx → Ctx) : (s.modMe f).dl = s.dl := rfl
@[simp] theorem State.modMe_pk (s : State) (f : Ctx → Ctx) : (s.modMe f).pk = s.pk := rfl
@[simp] theorem State.modMe_fi (s : State) (f : Ctx → Ctx) : (s.modMe f).fi = s.fi := rfl
@[simp] theorem State.modMe_agenda (s : State) (f : Ctx → Ctx) : (s.modMe f).agenda = s.agenda := rfl
@[simp] theorem State.modMe_free (s : State) (f : Ctx → Ctx) : (s.modMe f).free = s.free := rfl
@[simp] theorem State.modMe_tags (s : State) (f : Ctx → Ctx) : (s.modMe f).tags = s.tags := rfl
@[simp] theorem State.modMe_verdict (s : State) (f : Ctx → Ctx) : (s.modMe f).verdict = s.verdict := rfl
@[simp] theorem State.modMe_issue (s : State) (f : Ctx → Ctx) : (s.modMe f).issue = s.issue := rfl
@[simp] theorem State.modMe_core_cur (s : State) (f : Ctx → Ctx) : (s.modMe f).core.cur = s.core.cur := rfl
@[simp] theorem State.modMe_core_irq (s : State) (f : Ctx → Ctx) : (s.modMe f).core.irq = s.core.irq := rfl
@[simp] theorem State.modMe_core_serving (s : State) (f : Ctx → Ctx) : (s.modMe f).core.serving = s.core.serving := rfl
@[simp] theorem State.modMe_core_resumeAt (s : State) (f : Ctx → Ctx) : (s.modMe f).core.resumeAt = s.core.resumeAt := rfl
@[simp] theorem State.modMe_core_svcRun (s : State) (f : Ctx → Ctx) : (s.modMe f).core.svcRun = s.core.svcRun := rfl
@[simp] theorem State.modMe_core_banks (s : State) (f : Ctx → Ctx) : (s.modMe f).core.banks = s.core.banks := rfl
@[simp] theorem State.modMe_core_demotions (s : State) (f : Ctx → Ctx) : (s.modMe f).core.demotions = s.core.demotions := rfl
@[simp] theorem State.modMe_core_spad (s : State) (f : Ctx → Ctx) : (s.modMe f).core.spad = s.core.spad := rfl
@[simp] theorem State.modMe_core_coreErr (s : State) (f : Ctx → Ctx) : (s.modMe f).core.coreErr = s.core.coreErr := rfl
@[simp] theorem State.modMe_core_svcEn (s : State) (f : Ctx → Ctx) : (s.modMe f).core.svcEn = s.core.svcEn := rfl
@[simp] theorem State.modMe_core_selReg (s : State) (f : Ctx → Ctx) : (s.modMe f).core.selReg = s.core.selReg := rfl
@[simp] theorem State.modMe_core_partA (s : State) (f : Ctx → Ctx) : (s.modMe f).core.partA = s.core.partA := rfl
@[simp] theorem State.modMe_core_partB (s : State) (f : Ctx → Ctx) : (s.modMe f).core.partB = s.core.partB := rfl
@[simp] theorem State.modMe_core_arenaBase (s : State) (f : Ctx → Ctx) : (s.modMe f).core.arenaBase = s.core.arenaBase := rfl
@[simp] theorem State.modMe_core_arenaBound (s : State) (f : Ctx → Ctx) : (s.modMe f).core.arenaBound = s.core.arenaBound := rfl
@[simp] theorem State.modMe_core_die (s : State) (f : Ctx → Ctx) : (s.modMe f).core.die = s.core.die := rfl
@[simp] theorem State.modMe_core_cluster (s : State) (f : Ctx → Ctx) : (s.modMe f).core.cluster = s.core.cluster := rfl
@[simp] theorem State.modMe_core_core (s : State) (f : Ctx → Ctx) : (s.modMe f).core.core = s.core.core := rfl
@[simp] theorem State.modMe_core_rings (s : State) (f : Ctx → Ctx) : (s.modMe f).core.rings = s.core.rings := rfl
@[simp] theorem State.modMe_core_acc (s : State) (f : Ctx → Ctx) : (s.modMe f).core.acc = s.core.acc := rfl
@[simp] theorem State.modMe_core_accWm (s : State) (f : Ctx → Ctx) : (s.modMe f).core.accWm = s.core.accWm := rfl
@[simp] theorem State.modMe_core_accLast (s : State) (f : Ctx → Ctx) : (s.modMe f).core.accLast = s.core.accLast := rfl
@[simp] theorem State.modMe_core_ops (s : State) (f : Ctx → Ctx) : (s.modMe f).core.ops = s.core.ops := rfl
@[simp] theorem State.modMe_core_wbuf (s : State) (f : Ctx → Ctx) : (s.modMe f).core.wbuf = s.core.wbuf := rfl
@[simp] theorem State.modMe_core_l1 (s : State) (f : Ctx → Ctx) : (s.modMe f).core.l1 = s.core.l1 := rfl
@[simp] theorem State.modMe_core_icache (s : State) (f : Ctx → Ctx) : (s.modMe f).core.icache = s.core.icache := rfl
@[simp] theorem State.modMe_core_flaws (s : State) (f : Ctx → Ctx) : (s.modMe f).core.flaws = s.core.flaws := rfl
@[simp] theorem State.modMe_core_retired (s : State) (f : Ctx → Ctx) : (s.modMe f).core.retired = s.core.retired := rfl
@[simp] theorem State.modMe_core_fixed (s : State) (f : Ctx → Ctx) : (s.modMe f).core.fixed = s.core.fixed := rfl
@[simp] theorem State.modMe_core_restored (s : State) (f : Ctx → Ctx) : (s.modMe f).core.restored = s.core.restored := rfl
@[simp] theorem State.modMe_core_flying (s : State) (f : Ctx → Ctx) : (s.modMe f).core.flying = s.core.flying := rfl
@[simp] theorem State.modMe_core_acked (s : State) (f : Ctx → Ctx) : (s.modMe f).core.acked = s.core.acked := rfl

/-! ### `State.landIn` -/

@[simp] theorem State.landIn_cl (s : State) (c : Fin 5) (w : Write) (lat : Nat) : (s.landIn c w lat).cl = s.cl := rfl
@[simp] theorem State.landIn_dm (s : State) (c : Fin 5) (w : Write) (lat : Nat) : (s.landIn c w lat).dm = s.dm := rfl
@[simp] theorem State.landIn_dl (s : State) (c : Fin 5) (w : Write) (lat : Nat) : (s.landIn c w lat).dl = s.dl := rfl
@[simp] theorem State.landIn_pk (s : State) (c : Fin 5) (w : Write) (lat : Nat) : (s.landIn c w lat).pk = s.pk := rfl
@[simp] theorem State.landIn_fi (s : State) (c : Fin 5) (w : Write) (lat : Nat) : (s.landIn c w lat).fi = s.fi := rfl
@[simp] theorem State.landIn_agenda (s : State) (c : Fin 5) (w : Write) (lat : Nat) : (s.landIn c w lat).agenda = s.agenda := rfl
@[simp] theorem State.landIn_free (s : State) (c : Fin 5) (w : Write) (lat : Nat) : (s.landIn c w lat).free = s.free := rfl
@[simp] theorem State.landIn_tags (s : State) (c : Fin 5) (w : Write) (lat : Nat) : (s.landIn c w lat).tags = s.tags := rfl
@[simp] theorem State.landIn_verdict (s : State) (c : Fin 5) (w : Write) (lat : Nat) : (s.landIn c w lat).verdict = s.verdict := rfl
@[simp] theorem State.landIn_issue (s : State) (c : Fin 5) (w : Write) (lat : Nat) : (s.landIn c w lat).issue = s.issue := rfl
@[simp] theorem State.landIn_core_cur (s : State) (c : Fin 5) (w : Write) (lat : Nat) : (s.landIn c w lat).core.cur = s.core.cur := rfl
@[simp] theorem State.landIn_core_irq (s : State) (c : Fin 5) (w : Write) (lat : Nat) : (s.landIn c w lat).core.irq = s.core.irq := rfl
@[simp] theorem State.landIn_core_serving (s : State) (c : Fin 5) (w : Write) (lat : Nat) : (s.landIn c w lat).core.serving = s.core.serving := rfl
@[simp] theorem State.landIn_core_resumeAt (s : State) (c : Fin 5) (w : Write) (lat : Nat) : (s.landIn c w lat).core.resumeAt = s.core.resumeAt := rfl
@[simp] theorem State.landIn_core_svcRun (s : State) (c : Fin 5) (w : Write) (lat : Nat) : (s.landIn c w lat).core.svcRun = s.core.svcRun := rfl
@[simp] theorem State.landIn_core_banks (s : State) (c : Fin 5) (w : Write) (lat : Nat) : (s.landIn c w lat).core.banks = s.core.banks := rfl
@[simp] theorem State.landIn_core_demotions (s : State) (c : Fin 5) (w : Write) (lat : Nat) : (s.landIn c w lat).core.demotions = s.core.demotions := rfl
@[simp] theorem State.landIn_core_spad (s : State) (c : Fin 5) (w : Write) (lat : Nat) : (s.landIn c w lat).core.spad = s.core.spad := rfl
@[simp] theorem State.landIn_core_coreErr (s : State) (c : Fin 5) (w : Write) (lat : Nat) : (s.landIn c w lat).core.coreErr = s.core.coreErr := rfl
@[simp] theorem State.landIn_core_svcEn (s : State) (c : Fin 5) (w : Write) (lat : Nat) : (s.landIn c w lat).core.svcEn = s.core.svcEn := rfl
@[simp] theorem State.landIn_core_selReg (s : State) (c : Fin 5) (w : Write) (lat : Nat) : (s.landIn c w lat).core.selReg = s.core.selReg := rfl
@[simp] theorem State.landIn_core_partA (s : State) (c : Fin 5) (w : Write) (lat : Nat) : (s.landIn c w lat).core.partA = s.core.partA := rfl
@[simp] theorem State.landIn_core_partB (s : State) (c : Fin 5) (w : Write) (lat : Nat) : (s.landIn c w lat).core.partB = s.core.partB := rfl
@[simp] theorem State.landIn_core_arenaBase (s : State) (c : Fin 5) (w : Write) (lat : Nat) : (s.landIn c w lat).core.arenaBase = s.core.arenaBase := rfl
@[simp] theorem State.landIn_core_arenaBound (s : State) (c : Fin 5) (w : Write) (lat : Nat) : (s.landIn c w lat).core.arenaBound = s.core.arenaBound := rfl
@[simp] theorem State.landIn_core_die (s : State) (c : Fin 5) (w : Write) (lat : Nat) : (s.landIn c w lat).core.die = s.core.die := rfl
@[simp] theorem State.landIn_core_cluster (s : State) (c : Fin 5) (w : Write) (lat : Nat) : (s.landIn c w lat).core.cluster = s.core.cluster := rfl
@[simp] theorem State.landIn_core_core (s : State) (c : Fin 5) (w : Write) (lat : Nat) : (s.landIn c w lat).core.core = s.core.core := rfl
@[simp] theorem State.landIn_core_rings (s : State) (c : Fin 5) (w : Write) (lat : Nat) : (s.landIn c w lat).core.rings = s.core.rings := rfl
@[simp] theorem State.landIn_core_acc (s : State) (c : Fin 5) (w : Write) (lat : Nat) : (s.landIn c w lat).core.acc = s.core.acc := rfl
@[simp] theorem State.landIn_core_accWm (s : State) (c : Fin 5) (w : Write) (lat : Nat) : (s.landIn c w lat).core.accWm = s.core.accWm := rfl
@[simp] theorem State.landIn_core_accLast (s : State) (c : Fin 5) (w : Write) (lat : Nat) : (s.landIn c w lat).core.accLast = s.core.accLast := rfl
@[simp] theorem State.landIn_core_ops (s : State) (c : Fin 5) (w : Write) (lat : Nat) : (s.landIn c w lat).core.ops = s.core.ops := rfl
@[simp] theorem State.landIn_core_wbuf (s : State) (c : Fin 5) (w : Write) (lat : Nat) : (s.landIn c w lat).core.wbuf = s.core.wbuf := rfl
@[simp] theorem State.landIn_core_l1 (s : State) (c : Fin 5) (w : Write) (lat : Nat) : (s.landIn c w lat).core.l1 = s.core.l1 := rfl
@[simp] theorem State.landIn_core_icache (s : State) (c : Fin 5) (w : Write) (lat : Nat) : (s.landIn c w lat).core.icache = s.core.icache := rfl
@[simp] theorem State.landIn_core_flaws (s : State) (c : Fin 5) (w : Write) (lat : Nat) : (s.landIn c w lat).core.flaws = s.core.flaws := rfl
@[simp] theorem State.landIn_core_retired (s : State) (c : Fin 5) (w : Write) (lat : Nat) : (s.landIn c w lat).core.retired = s.core.retired := rfl
@[simp] theorem State.landIn_core_fixed (s : State) (c : Fin 5) (w : Write) (lat : Nat) : (s.landIn c w lat).core.fixed = s.core.fixed := rfl
@[simp] theorem State.landIn_core_restored (s : State) (c : Fin 5) (w : Write) (lat : Nat) : (s.landIn c w lat).core.restored = s.core.restored := rfl
@[simp] theorem State.landIn_core_flying (s : State) (c : Fin 5) (w : Write) (lat : Nat) : (s.landIn c w lat).core.flying = s.core.flying := rfl
@[simp] theorem State.landIn_core_acked (s : State) (c : Fin 5) (w : Write) (lat : Nat) : (s.landIn c w lat).core.acked = s.core.acked := rfl

/-! ### `State.land` -/

@[simp] theorem State.land_cl (s : State) (w : Write) (lat : Nat) : (s.land w lat).cl = s.cl := rfl
@[simp] theorem State.land_dm (s : State) (w : Write) (lat : Nat) : (s.land w lat).dm = s.dm := rfl
@[simp] theorem State.land_dl (s : State) (w : Write) (lat : Nat) : (s.land w lat).dl = s.dl := rfl
@[simp] theorem State.land_pk (s : State) (w : Write) (lat : Nat) : (s.land w lat).pk = s.pk := rfl
@[simp] theorem State.land_fi (s : State) (w : Write) (lat : Nat) : (s.land w lat).fi = s.fi := rfl
@[simp] theorem State.land_agenda (s : State) (w : Write) (lat : Nat) : (s.land w lat).agenda = s.agenda := rfl
@[simp] theorem State.land_free (s : State) (w : Write) (lat : Nat) : (s.land w lat).free = s.free := rfl
@[simp] theorem State.land_tags (s : State) (w : Write) (lat : Nat) : (s.land w lat).tags = s.tags := rfl
@[simp] theorem State.land_verdict (s : State) (w : Write) (lat : Nat) : (s.land w lat).verdict = s.verdict := rfl
@[simp] theorem State.land_issue (s : State) (w : Write) (lat : Nat) : (s.land w lat).issue = s.issue := rfl
@[simp] theorem State.land_core_cur (s : State) (w : Write) (lat : Nat) : (s.land w lat).core.cur = s.core.cur := rfl
@[simp] theorem State.land_core_irq (s : State) (w : Write) (lat : Nat) : (s.land w lat).core.irq = s.core.irq := rfl
@[simp] theorem State.land_core_serving (s : State) (w : Write) (lat : Nat) : (s.land w lat).core.serving = s.core.serving := rfl
@[simp] theorem State.land_core_resumeAt (s : State) (w : Write) (lat : Nat) : (s.land w lat).core.resumeAt = s.core.resumeAt := rfl
@[simp] theorem State.land_core_svcRun (s : State) (w : Write) (lat : Nat) : (s.land w lat).core.svcRun = s.core.svcRun := rfl
@[simp] theorem State.land_core_banks (s : State) (w : Write) (lat : Nat) : (s.land w lat).core.banks = s.core.banks := rfl
@[simp] theorem State.land_core_demotions (s : State) (w : Write) (lat : Nat) : (s.land w lat).core.demotions = s.core.demotions := rfl
@[simp] theorem State.land_core_spad (s : State) (w : Write) (lat : Nat) : (s.land w lat).core.spad = s.core.spad := rfl
@[simp] theorem State.land_core_coreErr (s : State) (w : Write) (lat : Nat) : (s.land w lat).core.coreErr = s.core.coreErr := rfl
@[simp] theorem State.land_core_svcEn (s : State) (w : Write) (lat : Nat) : (s.land w lat).core.svcEn = s.core.svcEn := rfl
@[simp] theorem State.land_core_selReg (s : State) (w : Write) (lat : Nat) : (s.land w lat).core.selReg = s.core.selReg := rfl
@[simp] theorem State.land_core_partA (s : State) (w : Write) (lat : Nat) : (s.land w lat).core.partA = s.core.partA := rfl
@[simp] theorem State.land_core_partB (s : State) (w : Write) (lat : Nat) : (s.land w lat).core.partB = s.core.partB := rfl
@[simp] theorem State.land_core_arenaBase (s : State) (w : Write) (lat : Nat) : (s.land w lat).core.arenaBase = s.core.arenaBase := rfl
@[simp] theorem State.land_core_arenaBound (s : State) (w : Write) (lat : Nat) : (s.land w lat).core.arenaBound = s.core.arenaBound := rfl
@[simp] theorem State.land_core_die (s : State) (w : Write) (lat : Nat) : (s.land w lat).core.die = s.core.die := rfl
@[simp] theorem State.land_core_cluster (s : State) (w : Write) (lat : Nat) : (s.land w lat).core.cluster = s.core.cluster := rfl
@[simp] theorem State.land_core_core (s : State) (w : Write) (lat : Nat) : (s.land w lat).core.core = s.core.core := rfl
@[simp] theorem State.land_core_rings (s : State) (w : Write) (lat : Nat) : (s.land w lat).core.rings = s.core.rings := rfl
@[simp] theorem State.land_core_acc (s : State) (w : Write) (lat : Nat) : (s.land w lat).core.acc = s.core.acc := rfl
@[simp] theorem State.land_core_accWm (s : State) (w : Write) (lat : Nat) : (s.land w lat).core.accWm = s.core.accWm := rfl
@[simp] theorem State.land_core_accLast (s : State) (w : Write) (lat : Nat) : (s.land w lat).core.accLast = s.core.accLast := rfl
@[simp] theorem State.land_core_ops (s : State) (w : Write) (lat : Nat) : (s.land w lat).core.ops = s.core.ops := rfl
@[simp] theorem State.land_core_wbuf (s : State) (w : Write) (lat : Nat) : (s.land w lat).core.wbuf = s.core.wbuf := rfl
@[simp] theorem State.land_core_l1 (s : State) (w : Write) (lat : Nat) : (s.land w lat).core.l1 = s.core.l1 := rfl
@[simp] theorem State.land_core_icache (s : State) (w : Write) (lat : Nat) : (s.land w lat).core.icache = s.core.icache := rfl
@[simp] theorem State.land_core_flaws (s : State) (w : Write) (lat : Nat) : (s.land w lat).core.flaws = s.core.flaws := rfl
@[simp] theorem State.land_core_retired (s : State) (w : Write) (lat : Nat) : (s.land w lat).core.retired = s.core.retired := rfl
@[simp] theorem State.land_core_fixed (s : State) (w : Write) (lat : Nat) : (s.land w lat).core.fixed = s.core.fixed := rfl
@[simp] theorem State.land_core_restored (s : State) (w : Write) (lat : Nat) : (s.land w lat).core.restored = s.core.restored := rfl
@[simp] theorem State.land_core_flying (s : State) (w : Write) (lat : Nat) : (s.land w lat).core.flying = s.core.flying := rfl
@[simp] theorem State.land_core_acked (s : State) (w : Write) (lat : Nat) : (s.land w lat).core.acked = s.core.acked := rfl

/-! ### `State.landPart` -/

@[simp] theorem State.landPart_cl (s : State) (w : Write) (lat id : Nat) (need : List Nat) : (s.landPart w lat id need).cl = s.cl := rfl
@[simp] theorem State.landPart_dm (s : State) (w : Write) (lat id : Nat) (need : List Nat) : (s.landPart w lat id need).dm = s.dm := rfl
@[simp] theorem State.landPart_dl (s : State) (w : Write) (lat id : Nat) (need : List Nat) : (s.landPart w lat id need).dl = s.dl := rfl
@[simp] theorem State.landPart_pk (s : State) (w : Write) (lat id : Nat) (need : List Nat) : (s.landPart w lat id need).pk = s.pk := rfl
@[simp] theorem State.landPart_fi (s : State) (w : Write) (lat id : Nat) (need : List Nat) : (s.landPart w lat id need).fi = s.fi := rfl
@[simp] theorem State.landPart_agenda (s : State) (w : Write) (lat id : Nat) (need : List Nat) : (s.landPart w lat id need).agenda = s.agenda := rfl
@[simp] theorem State.landPart_free (s : State) (w : Write) (lat id : Nat) (need : List Nat) : (s.landPart w lat id need).free = s.free := rfl
@[simp] theorem State.landPart_tags (s : State) (w : Write) (lat id : Nat) (need : List Nat) : (s.landPart w lat id need).tags = s.tags := rfl
@[simp] theorem State.landPart_verdict (s : State) (w : Write) (lat id : Nat) (need : List Nat) : (s.landPart w lat id need).verdict = s.verdict := rfl
@[simp] theorem State.landPart_issue (s : State) (w : Write) (lat id : Nat) (need : List Nat) : (s.landPart w lat id need).issue = s.issue := rfl
@[simp] theorem State.landPart_core_cur (s : State) (w : Write) (lat id : Nat) (need : List Nat) : (s.landPart w lat id need).core.cur = s.core.cur := rfl
@[simp] theorem State.landPart_core_irq (s : State) (w : Write) (lat id : Nat) (need : List Nat) : (s.landPart w lat id need).core.irq = s.core.irq := rfl
@[simp] theorem State.landPart_core_serving (s : State) (w : Write) (lat id : Nat) (need : List Nat) : (s.landPart w lat id need).core.serving = s.core.serving := rfl
@[simp] theorem State.landPart_core_resumeAt (s : State) (w : Write) (lat id : Nat) (need : List Nat) : (s.landPart w lat id need).core.resumeAt = s.core.resumeAt := rfl
@[simp] theorem State.landPart_core_svcRun (s : State) (w : Write) (lat id : Nat) (need : List Nat) : (s.landPart w lat id need).core.svcRun = s.core.svcRun := rfl
@[simp] theorem State.landPart_core_banks (s : State) (w : Write) (lat id : Nat) (need : List Nat) : (s.landPart w lat id need).core.banks = s.core.banks := rfl
@[simp] theorem State.landPart_core_demotions (s : State) (w : Write) (lat id : Nat) (need : List Nat) : (s.landPart w lat id need).core.demotions = s.core.demotions := rfl
@[simp] theorem State.landPart_core_spad (s : State) (w : Write) (lat id : Nat) (need : List Nat) : (s.landPart w lat id need).core.spad = s.core.spad := rfl
@[simp] theorem State.landPart_core_coreErr (s : State) (w : Write) (lat id : Nat) (need : List Nat) : (s.landPart w lat id need).core.coreErr = s.core.coreErr := rfl
@[simp] theorem State.landPart_core_svcEn (s : State) (w : Write) (lat id : Nat) (need : List Nat) : (s.landPart w lat id need).core.svcEn = s.core.svcEn := rfl
@[simp] theorem State.landPart_core_selReg (s : State) (w : Write) (lat id : Nat) (need : List Nat) : (s.landPart w lat id need).core.selReg = s.core.selReg := rfl
@[simp] theorem State.landPart_core_partA (s : State) (w : Write) (lat id : Nat) (need : List Nat) : (s.landPart w lat id need).core.partA = s.core.partA := rfl
@[simp] theorem State.landPart_core_partB (s : State) (w : Write) (lat id : Nat) (need : List Nat) : (s.landPart w lat id need).core.partB = s.core.partB := rfl
@[simp] theorem State.landPart_core_arenaBase (s : State) (w : Write) (lat id : Nat) (need : List Nat) : (s.landPart w lat id need).core.arenaBase = s.core.arenaBase := rfl
@[simp] theorem State.landPart_core_arenaBound (s : State) (w : Write) (lat id : Nat) (need : List Nat) : (s.landPart w lat id need).core.arenaBound = s.core.arenaBound := rfl
@[simp] theorem State.landPart_core_die (s : State) (w : Write) (lat id : Nat) (need : List Nat) : (s.landPart w lat id need).core.die = s.core.die := rfl
@[simp] theorem State.landPart_core_cluster (s : State) (w : Write) (lat id : Nat) (need : List Nat) : (s.landPart w lat id need).core.cluster = s.core.cluster := rfl
@[simp] theorem State.landPart_core_core (s : State) (w : Write) (lat id : Nat) (need : List Nat) : (s.landPart w lat id need).core.core = s.core.core := rfl
@[simp] theorem State.landPart_core_rings (s : State) (w : Write) (lat id : Nat) (need : List Nat) : (s.landPart w lat id need).core.rings = s.core.rings := rfl
@[simp] theorem State.landPart_core_acc (s : State) (w : Write) (lat id : Nat) (need : List Nat) : (s.landPart w lat id need).core.acc = s.core.acc := rfl
@[simp] theorem State.landPart_core_accWm (s : State) (w : Write) (lat id : Nat) (need : List Nat) : (s.landPart w lat id need).core.accWm = s.core.accWm := rfl
@[simp] theorem State.landPart_core_accLast (s : State) (w : Write) (lat id : Nat) (need : List Nat) : (s.landPart w lat id need).core.accLast = s.core.accLast := rfl
@[simp] theorem State.landPart_core_ops (s : State) (w : Write) (lat id : Nat) (need : List Nat) : (s.landPart w lat id need).core.ops = s.core.ops := rfl
@[simp] theorem State.landPart_core_wbuf (s : State) (w : Write) (lat id : Nat) (need : List Nat) : (s.landPart w lat id need).core.wbuf = s.core.wbuf := rfl
@[simp] theorem State.landPart_core_l1 (s : State) (w : Write) (lat id : Nat) (need : List Nat) : (s.landPart w lat id need).core.l1 = s.core.l1 := rfl
@[simp] theorem State.landPart_core_icache (s : State) (w : Write) (lat id : Nat) (need : List Nat) : (s.landPart w lat id need).core.icache = s.core.icache := rfl
@[simp] theorem State.landPart_core_flaws (s : State) (w : Write) (lat id : Nat) (need : List Nat) : (s.landPart w lat id need).core.flaws = s.core.flaws := rfl
@[simp] theorem State.landPart_core_retired (s : State) (w : Write) (lat id : Nat) (need : List Nat) : (s.landPart w lat id need).core.retired = s.core.retired := rfl
@[simp] theorem State.landPart_core_fixed (s : State) (w : Write) (lat id : Nat) (need : List Nat) : (s.landPart w lat id need).core.fixed = s.core.fixed := rfl
@[simp] theorem State.landPart_core_restored (s : State) (w : Write) (lat id : Nat) (need : List Nat) : (s.landPart w lat id need).core.restored = s.core.restored := rfl
@[simp] theorem State.landPart_core_flying (s : State) (w : Write) (lat id : Nat) (need : List Nat) : (s.landPart w lat id need).core.flying = s.core.flying := rfl
@[simp] theorem State.landPart_core_acked (s : State) (w : Write) (lat id : Nat) (need : List Nat) : (s.landPart w lat id need).core.acked = s.core.acked := rfl

/-! ### `State.setPort` -/

@[simp] theorem State.setPort_cl (s : State) (c : Fin 5) (n : Fin 16) (p : Port) : (s.setPort c n p).cl = s.cl := rfl
@[simp] theorem State.setPort_dm (s : State) (c : Fin 5) (n : Fin 16) (p : Port) : (s.setPort c n p).dm = s.dm := rfl
@[simp] theorem State.setPort_dl (s : State) (c : Fin 5) (n : Fin 16) (p : Port) : (s.setPort c n p).dl = s.dl := rfl
@[simp] theorem State.setPort_pk (s : State) (c : Fin 5) (n : Fin 16) (p : Port) : (s.setPort c n p).pk = s.pk := rfl
@[simp] theorem State.setPort_fi (s : State) (c : Fin 5) (n : Fin 16) (p : Port) : (s.setPort c n p).fi = s.fi := rfl
@[simp] theorem State.setPort_agenda (s : State) (c : Fin 5) (n : Fin 16) (p : Port) : (s.setPort c n p).agenda = s.agenda := rfl
@[simp] theorem State.setPort_free (s : State) (c : Fin 5) (n : Fin 16) (p : Port) : (s.setPort c n p).free = s.free := rfl
@[simp] theorem State.setPort_tags (s : State) (c : Fin 5) (n : Fin 16) (p : Port) : (s.setPort c n p).tags = s.tags := rfl
@[simp] theorem State.setPort_verdict (s : State) (c : Fin 5) (n : Fin 16) (p : Port) : (s.setPort c n p).verdict = s.verdict := rfl
@[simp] theorem State.setPort_issue (s : State) (c : Fin 5) (n : Fin 16) (p : Port) : (s.setPort c n p).issue = s.issue := rfl
@[simp] theorem State.setPort_core_cur (s : State) (c : Fin 5) (n : Fin 16) (p : Port) : (s.setPort c n p).core.cur = s.core.cur := rfl
@[simp] theorem State.setPort_core_irq (s : State) (c : Fin 5) (n : Fin 16) (p : Port) : (s.setPort c n p).core.irq = s.core.irq := rfl
@[simp] theorem State.setPort_core_serving (s : State) (c : Fin 5) (n : Fin 16) (p : Port) : (s.setPort c n p).core.serving = s.core.serving := rfl
@[simp] theorem State.setPort_core_resumeAt (s : State) (c : Fin 5) (n : Fin 16) (p : Port) : (s.setPort c n p).core.resumeAt = s.core.resumeAt := rfl
@[simp] theorem State.setPort_core_svcRun (s : State) (c : Fin 5) (n : Fin 16) (p : Port) : (s.setPort c n p).core.svcRun = s.core.svcRun := rfl
@[simp] theorem State.setPort_core_banks (s : State) (c : Fin 5) (n : Fin 16) (p : Port) : (s.setPort c n p).core.banks = s.core.banks := rfl
@[simp] theorem State.setPort_core_demotions (s : State) (c : Fin 5) (n : Fin 16) (p : Port) : (s.setPort c n p).core.demotions = s.core.demotions := rfl
@[simp] theorem State.setPort_core_spad (s : State) (c : Fin 5) (n : Fin 16) (p : Port) : (s.setPort c n p).core.spad = s.core.spad := rfl
@[simp] theorem State.setPort_core_coreErr (s : State) (c : Fin 5) (n : Fin 16) (p : Port) : (s.setPort c n p).core.coreErr = s.core.coreErr := rfl
@[simp] theorem State.setPort_core_svcEn (s : State) (c : Fin 5) (n : Fin 16) (p : Port) : (s.setPort c n p).core.svcEn = s.core.svcEn := rfl
@[simp] theorem State.setPort_core_selReg (s : State) (c : Fin 5) (n : Fin 16) (p : Port) : (s.setPort c n p).core.selReg = s.core.selReg := rfl
@[simp] theorem State.setPort_core_partA (s : State) (c : Fin 5) (n : Fin 16) (p : Port) : (s.setPort c n p).core.partA = s.core.partA := rfl
@[simp] theorem State.setPort_core_partB (s : State) (c : Fin 5) (n : Fin 16) (p : Port) : (s.setPort c n p).core.partB = s.core.partB := rfl
@[simp] theorem State.setPort_core_arenaBase (s : State) (c : Fin 5) (n : Fin 16) (p : Port) : (s.setPort c n p).core.arenaBase = s.core.arenaBase := rfl
@[simp] theorem State.setPort_core_arenaBound (s : State) (c : Fin 5) (n : Fin 16) (p : Port) : (s.setPort c n p).core.arenaBound = s.core.arenaBound := rfl
@[simp] theorem State.setPort_core_die (s : State) (c : Fin 5) (n : Fin 16) (p : Port) : (s.setPort c n p).core.die = s.core.die := rfl
@[simp] theorem State.setPort_core_cluster (s : State) (c : Fin 5) (n : Fin 16) (p : Port) : (s.setPort c n p).core.cluster = s.core.cluster := rfl
@[simp] theorem State.setPort_core_core (s : State) (c : Fin 5) (n : Fin 16) (p : Port) : (s.setPort c n p).core.core = s.core.core := rfl
@[simp] theorem State.setPort_core_rings (s : State) (c : Fin 5) (n : Fin 16) (p : Port) : (s.setPort c n p).core.rings = s.core.rings := rfl
@[simp] theorem State.setPort_core_acc (s : State) (c : Fin 5) (n : Fin 16) (p : Port) : (s.setPort c n p).core.acc = s.core.acc := rfl
@[simp] theorem State.setPort_core_accWm (s : State) (c : Fin 5) (n : Fin 16) (p : Port) : (s.setPort c n p).core.accWm = s.core.accWm := rfl
@[simp] theorem State.setPort_core_accLast (s : State) (c : Fin 5) (n : Fin 16) (p : Port) : (s.setPort c n p).core.accLast = s.core.accLast := rfl
@[simp] theorem State.setPort_core_ops (s : State) (c : Fin 5) (n : Fin 16) (p : Port) : (s.setPort c n p).core.ops = s.core.ops := rfl
@[simp] theorem State.setPort_core_wbuf (s : State) (c : Fin 5) (n : Fin 16) (p : Port) : (s.setPort c n p).core.wbuf = s.core.wbuf := rfl
@[simp] theorem State.setPort_core_l1 (s : State) (c : Fin 5) (n : Fin 16) (p : Port) : (s.setPort c n p).core.l1 = s.core.l1 := rfl
@[simp] theorem State.setPort_core_icache (s : State) (c : Fin 5) (n : Fin 16) (p : Port) : (s.setPort c n p).core.icache = s.core.icache := rfl
@[simp] theorem State.setPort_core_flaws (s : State) (c : Fin 5) (n : Fin 16) (p : Port) : (s.setPort c n p).core.flaws = s.core.flaws := rfl
@[simp] theorem State.setPort_core_retired (s : State) (c : Fin 5) (n : Fin 16) (p : Port) : (s.setPort c n p).core.retired = s.core.retired := rfl
@[simp] theorem State.setPort_core_fixed (s : State) (c : Fin 5) (n : Fin 16) (p : Port) : (s.setPort c n p).core.fixed = s.core.fixed := rfl
@[simp] theorem State.setPort_core_restored (s : State) (c : Fin 5) (n : Fin 16) (p : Port) : (s.setPort c n p).core.restored = s.core.restored := rfl
@[simp] theorem State.setPort_core_flying (s : State) (c : Fin 5) (n : Fin 16) (p : Port) : (s.setPort c n p).core.flying = s.core.flying := rfl
@[simp] theorem State.setPort_core_acked (s : State) (c : Fin 5) (n : Fin 16) (p : Port) : (s.setPort c n p).core.acked = s.core.acked := rfl

/-! ### `State.setChan` -/

@[simp] theorem State.setChan_cl (s : State) (c : Fin 4) (ch : Fin 8) (x : Chan) : (s.setChan c ch x).cl = s.cl := rfl
@[simp] theorem State.setChan_dm (s : State) (c : Fin 4) (ch : Fin 8) (x : Chan) : (s.setChan c ch x).dm = s.dm := rfl
@[simp] theorem State.setChan_dl (s : State) (c : Fin 4) (ch : Fin 8) (x : Chan) : (s.setChan c ch x).dl = s.dl := rfl
@[simp] theorem State.setChan_pk (s : State) (c : Fin 4) (ch : Fin 8) (x : Chan) : (s.setChan c ch x).pk = s.pk := rfl
@[simp] theorem State.setChan_fi (s : State) (c : Fin 4) (ch : Fin 8) (x : Chan) : (s.setChan c ch x).fi = s.fi := rfl
@[simp] theorem State.setChan_agenda (s : State) (c : Fin 4) (ch : Fin 8) (x : Chan) : (s.setChan c ch x).agenda = s.agenda := rfl
@[simp] theorem State.setChan_free (s : State) (c : Fin 4) (ch : Fin 8) (x : Chan) : (s.setChan c ch x).free = s.free := rfl
@[simp] theorem State.setChan_tags (s : State) (c : Fin 4) (ch : Fin 8) (x : Chan) : (s.setChan c ch x).tags = s.tags := rfl
@[simp] theorem State.setChan_verdict (s : State) (c : Fin 4) (ch : Fin 8) (x : Chan) : (s.setChan c ch x).verdict = s.verdict := rfl
@[simp] theorem State.setChan_issue (s : State) (c : Fin 4) (ch : Fin 8) (x : Chan) : (s.setChan c ch x).issue = s.issue := rfl
@[simp] theorem State.setChan_core_cur (s : State) (c : Fin 4) (ch : Fin 8) (x : Chan) : (s.setChan c ch x).core.cur = s.core.cur := rfl
@[simp] theorem State.setChan_core_irq (s : State) (c : Fin 4) (ch : Fin 8) (x : Chan) : (s.setChan c ch x).core.irq = s.core.irq := rfl
@[simp] theorem State.setChan_core_serving (s : State) (c : Fin 4) (ch : Fin 8) (x : Chan) : (s.setChan c ch x).core.serving = s.core.serving := rfl
@[simp] theorem State.setChan_core_resumeAt (s : State) (c : Fin 4) (ch : Fin 8) (x : Chan) : (s.setChan c ch x).core.resumeAt = s.core.resumeAt := rfl
@[simp] theorem State.setChan_core_svcRun (s : State) (c : Fin 4) (ch : Fin 8) (x : Chan) : (s.setChan c ch x).core.svcRun = s.core.svcRun := rfl
@[simp] theorem State.setChan_core_banks (s : State) (c : Fin 4) (ch : Fin 8) (x : Chan) : (s.setChan c ch x).core.banks = s.core.banks := rfl
@[simp] theorem State.setChan_core_demotions (s : State) (c : Fin 4) (ch : Fin 8) (x : Chan) : (s.setChan c ch x).core.demotions = s.core.demotions := rfl
@[simp] theorem State.setChan_core_spad (s : State) (c : Fin 4) (ch : Fin 8) (x : Chan) : (s.setChan c ch x).core.spad = s.core.spad := rfl
@[simp] theorem State.setChan_core_coreErr (s : State) (c : Fin 4) (ch : Fin 8) (x : Chan) : (s.setChan c ch x).core.coreErr = s.core.coreErr := rfl
@[simp] theorem State.setChan_core_svcEn (s : State) (c : Fin 4) (ch : Fin 8) (x : Chan) : (s.setChan c ch x).core.svcEn = s.core.svcEn := rfl
@[simp] theorem State.setChan_core_selReg (s : State) (c : Fin 4) (ch : Fin 8) (x : Chan) : (s.setChan c ch x).core.selReg = s.core.selReg := rfl
@[simp] theorem State.setChan_core_partA (s : State) (c : Fin 4) (ch : Fin 8) (x : Chan) : (s.setChan c ch x).core.partA = s.core.partA := rfl
@[simp] theorem State.setChan_core_partB (s : State) (c : Fin 4) (ch : Fin 8) (x : Chan) : (s.setChan c ch x).core.partB = s.core.partB := rfl
@[simp] theorem State.setChan_core_arenaBase (s : State) (c : Fin 4) (ch : Fin 8) (x : Chan) : (s.setChan c ch x).core.arenaBase = s.core.arenaBase := rfl
@[simp] theorem State.setChan_core_arenaBound (s : State) (c : Fin 4) (ch : Fin 8) (x : Chan) : (s.setChan c ch x).core.arenaBound = s.core.arenaBound := rfl
@[simp] theorem State.setChan_core_die (s : State) (c : Fin 4) (ch : Fin 8) (x : Chan) : (s.setChan c ch x).core.die = s.core.die := rfl
@[simp] theorem State.setChan_core_cluster (s : State) (c : Fin 4) (ch : Fin 8) (x : Chan) : (s.setChan c ch x).core.cluster = s.core.cluster := rfl
@[simp] theorem State.setChan_core_core (s : State) (c : Fin 4) (ch : Fin 8) (x : Chan) : (s.setChan c ch x).core.core = s.core.core := rfl
@[simp] theorem State.setChan_core_rings (s : State) (c : Fin 4) (ch : Fin 8) (x : Chan) : (s.setChan c ch x).core.rings = s.core.rings := rfl
@[simp] theorem State.setChan_core_acc (s : State) (c : Fin 4) (ch : Fin 8) (x : Chan) : (s.setChan c ch x).core.acc = s.core.acc := rfl
@[simp] theorem State.setChan_core_accWm (s : State) (c : Fin 4) (ch : Fin 8) (x : Chan) : (s.setChan c ch x).core.accWm = s.core.accWm := rfl
@[simp] theorem State.setChan_core_accLast (s : State) (c : Fin 4) (ch : Fin 8) (x : Chan) : (s.setChan c ch x).core.accLast = s.core.accLast := rfl
@[simp] theorem State.setChan_core_ops (s : State) (c : Fin 4) (ch : Fin 8) (x : Chan) : (s.setChan c ch x).core.ops = s.core.ops := rfl
@[simp] theorem State.setChan_core_wbuf (s : State) (c : Fin 4) (ch : Fin 8) (x : Chan) : (s.setChan c ch x).core.wbuf = s.core.wbuf := rfl
@[simp] theorem State.setChan_core_l1 (s : State) (c : Fin 4) (ch : Fin 8) (x : Chan) : (s.setChan c ch x).core.l1 = s.core.l1 := rfl
@[simp] theorem State.setChan_core_icache (s : State) (c : Fin 4) (ch : Fin 8) (x : Chan) : (s.setChan c ch x).core.icache = s.core.icache := rfl
@[simp] theorem State.setChan_core_flaws (s : State) (c : Fin 4) (ch : Fin 8) (x : Chan) : (s.setChan c ch x).core.flaws = s.core.flaws := rfl
@[simp] theorem State.setChan_core_retired (s : State) (c : Fin 4) (ch : Fin 8) (x : Chan) : (s.setChan c ch x).core.retired = s.core.retired := rfl
@[simp] theorem State.setChan_core_fixed (s : State) (c : Fin 4) (ch : Fin 8) (x : Chan) : (s.setChan c ch x).core.fixed = s.core.fixed := rfl
@[simp] theorem State.setChan_core_restored (s : State) (c : Fin 4) (ch : Fin 8) (x : Chan) : (s.setChan c ch x).core.restored = s.core.restored := rfl
@[simp] theorem State.setChan_core_flying (s : State) (c : Fin 4) (ch : Fin 8) (x : Chan) : (s.setChan c ch x).core.flying = s.core.flying := rfl
@[simp] theorem State.setChan_core_acked (s : State) (c : Fin 4) (ch : Fin 8) (x : Chan) : (s.setChan c ch x).core.acked = s.core.acked := rfl

/-! ### `State.setRing` -/

@[simp] theorem State.setRing_cl (s : State) (n : Fin 32) (r : Ring) : (s.setRing n r).cl = s.cl := rfl
@[simp] theorem State.setRing_dm (s : State) (n : Fin 32) (r : Ring) : (s.setRing n r).dm = s.dm := rfl
@[simp] theorem State.setRing_dl (s : State) (n : Fin 32) (r : Ring) : (s.setRing n r).dl = s.dl := rfl
@[simp] theorem State.setRing_pk (s : State) (n : Fin 32) (r : Ring) : (s.setRing n r).pk = s.pk := rfl
@[simp] theorem State.setRing_fi (s : State) (n : Fin 32) (r : Ring) : (s.setRing n r).fi = s.fi := rfl
@[simp] theorem State.setRing_agenda (s : State) (n : Fin 32) (r : Ring) : (s.setRing n r).agenda = s.agenda := rfl
@[simp] theorem State.setRing_free (s : State) (n : Fin 32) (r : Ring) : (s.setRing n r).free = s.free := rfl
@[simp] theorem State.setRing_tags (s : State) (n : Fin 32) (r : Ring) : (s.setRing n r).tags = s.tags := rfl
@[simp] theorem State.setRing_verdict (s : State) (n : Fin 32) (r : Ring) : (s.setRing n r).verdict = s.verdict := rfl
@[simp] theorem State.setRing_issue (s : State) (n : Fin 32) (r : Ring) : (s.setRing n r).issue = s.issue := rfl
@[simp] theorem State.setRing_core_ctxs (s : State) (n : Fin 32) (r : Ring) : (s.setRing n r).core.ctxs = s.core.ctxs := rfl
@[simp] theorem State.setRing_core_cur (s : State) (n : Fin 32) (r : Ring) : (s.setRing n r).core.cur = s.core.cur := rfl
@[simp] theorem State.setRing_core_irq (s : State) (n : Fin 32) (r : Ring) : (s.setRing n r).core.irq = s.core.irq := rfl
@[simp] theorem State.setRing_core_serving (s : State) (n : Fin 32) (r : Ring) : (s.setRing n r).core.serving = s.core.serving := rfl
@[simp] theorem State.setRing_core_resumeAt (s : State) (n : Fin 32) (r : Ring) : (s.setRing n r).core.resumeAt = s.core.resumeAt := rfl
@[simp] theorem State.setRing_core_svcRun (s : State) (n : Fin 32) (r : Ring) : (s.setRing n r).core.svcRun = s.core.svcRun := rfl
@[simp] theorem State.setRing_core_banks (s : State) (n : Fin 32) (r : Ring) : (s.setRing n r).core.banks = s.core.banks := rfl
@[simp] theorem State.setRing_core_demotions (s : State) (n : Fin 32) (r : Ring) : (s.setRing n r).core.demotions = s.core.demotions := rfl
@[simp] theorem State.setRing_core_spad (s : State) (n : Fin 32) (r : Ring) : (s.setRing n r).core.spad = s.core.spad := rfl
@[simp] theorem State.setRing_core_coreErr (s : State) (n : Fin 32) (r : Ring) : (s.setRing n r).core.coreErr = s.core.coreErr := rfl
@[simp] theorem State.setRing_core_svcEn (s : State) (n : Fin 32) (r : Ring) : (s.setRing n r).core.svcEn = s.core.svcEn := rfl
@[simp] theorem State.setRing_core_selReg (s : State) (n : Fin 32) (r : Ring) : (s.setRing n r).core.selReg = s.core.selReg := rfl
@[simp] theorem State.setRing_core_partA (s : State) (n : Fin 32) (r : Ring) : (s.setRing n r).core.partA = s.core.partA := rfl
@[simp] theorem State.setRing_core_partB (s : State) (n : Fin 32) (r : Ring) : (s.setRing n r).core.partB = s.core.partB := rfl
@[simp] theorem State.setRing_core_arenaBase (s : State) (n : Fin 32) (r : Ring) : (s.setRing n r).core.arenaBase = s.core.arenaBase := rfl
@[simp] theorem State.setRing_core_arenaBound (s : State) (n : Fin 32) (r : Ring) : (s.setRing n r).core.arenaBound = s.core.arenaBound := rfl
@[simp] theorem State.setRing_core_die (s : State) (n : Fin 32) (r : Ring) : (s.setRing n r).core.die = s.core.die := rfl
@[simp] theorem State.setRing_core_cluster (s : State) (n : Fin 32) (r : Ring) : (s.setRing n r).core.cluster = s.core.cluster := rfl
@[simp] theorem State.setRing_core_core (s : State) (n : Fin 32) (r : Ring) : (s.setRing n r).core.core = s.core.core := rfl
@[simp] theorem State.setRing_core_acc (s : State) (n : Fin 32) (r : Ring) : (s.setRing n r).core.acc = s.core.acc := rfl
@[simp] theorem State.setRing_core_accWm (s : State) (n : Fin 32) (r : Ring) : (s.setRing n r).core.accWm = s.core.accWm := rfl
@[simp] theorem State.setRing_core_accLast (s : State) (n : Fin 32) (r : Ring) : (s.setRing n r).core.accLast = s.core.accLast := rfl
@[simp] theorem State.setRing_core_ops (s : State) (n : Fin 32) (r : Ring) : (s.setRing n r).core.ops = s.core.ops := rfl
@[simp] theorem State.setRing_core_wbuf (s : State) (n : Fin 32) (r : Ring) : (s.setRing n r).core.wbuf = s.core.wbuf := rfl
@[simp] theorem State.setRing_core_l1 (s : State) (n : Fin 32) (r : Ring) : (s.setRing n r).core.l1 = s.core.l1 := rfl
@[simp] theorem State.setRing_core_icache (s : State) (n : Fin 32) (r : Ring) : (s.setRing n r).core.icache = s.core.icache := rfl
@[simp] theorem State.setRing_core_flaws (s : State) (n : Fin 32) (r : Ring) : (s.setRing n r).core.flaws = s.core.flaws := rfl
@[simp] theorem State.setRing_core_retired (s : State) (n : Fin 32) (r : Ring) : (s.setRing n r).core.retired = s.core.retired := rfl
@[simp] theorem State.setRing_core_fixed (s : State) (n : Fin 32) (r : Ring) : (s.setRing n r).core.fixed = s.core.fixed := rfl
@[simp] theorem State.setRing_core_restored (s : State) (n : Fin 32) (r : Ring) : (s.setRing n r).core.restored = s.core.restored := rfl
@[simp] theorem State.setRing_core_flying (s : State) (n : Fin 32) (r : Ring) : (s.setRing n r).core.flying = s.core.flying := rfl
@[simp] theorem State.setRing_core_acked (s : State) (n : Fin 32) (r : Ring) : (s.setRing n r).core.acked = s.core.acked := rfl

/-! ### `State.setL1` -/

@[simp] theorem State.setL1_cl (s : State) (k : Nat) (e : L1Sector) : (s.setL1 k e).cl = s.cl := rfl
@[simp] theorem State.setL1_dm (s : State) (k : Nat) (e : L1Sector) : (s.setL1 k e).dm = s.dm := rfl
@[simp] theorem State.setL1_dl (s : State) (k : Nat) (e : L1Sector) : (s.setL1 k e).dl = s.dl := rfl
@[simp] theorem State.setL1_pk (s : State) (k : Nat) (e : L1Sector) : (s.setL1 k e).pk = s.pk := rfl
@[simp] theorem State.setL1_fi (s : State) (k : Nat) (e : L1Sector) : (s.setL1 k e).fi = s.fi := rfl
@[simp] theorem State.setL1_agenda (s : State) (k : Nat) (e : L1Sector) : (s.setL1 k e).agenda = s.agenda := rfl
@[simp] theorem State.setL1_free (s : State) (k : Nat) (e : L1Sector) : (s.setL1 k e).free = s.free := rfl
@[simp] theorem State.setL1_tags (s : State) (k : Nat) (e : L1Sector) : (s.setL1 k e).tags = s.tags := rfl
@[simp] theorem State.setL1_verdict (s : State) (k : Nat) (e : L1Sector) : (s.setL1 k e).verdict = s.verdict := rfl
@[simp] theorem State.setL1_issue (s : State) (k : Nat) (e : L1Sector) : (s.setL1 k e).issue = s.issue := rfl
@[simp] theorem State.setL1_core_ctxs (s : State) (k : Nat) (e : L1Sector) : (s.setL1 k e).core.ctxs = s.core.ctxs := rfl
@[simp] theorem State.setL1_core_cur (s : State) (k : Nat) (e : L1Sector) : (s.setL1 k e).core.cur = s.core.cur := rfl
@[simp] theorem State.setL1_core_irq (s : State) (k : Nat) (e : L1Sector) : (s.setL1 k e).core.irq = s.core.irq := rfl
@[simp] theorem State.setL1_core_serving (s : State) (k : Nat) (e : L1Sector) : (s.setL1 k e).core.serving = s.core.serving := rfl
@[simp] theorem State.setL1_core_resumeAt (s : State) (k : Nat) (e : L1Sector) : (s.setL1 k e).core.resumeAt = s.core.resumeAt := rfl
@[simp] theorem State.setL1_core_svcRun (s : State) (k : Nat) (e : L1Sector) : (s.setL1 k e).core.svcRun = s.core.svcRun := rfl
@[simp] theorem State.setL1_core_banks (s : State) (k : Nat) (e : L1Sector) : (s.setL1 k e).core.banks = s.core.banks := rfl
@[simp] theorem State.setL1_core_demotions (s : State) (k : Nat) (e : L1Sector) : (s.setL1 k e).core.demotions = s.core.demotions := rfl
@[simp] theorem State.setL1_core_spad (s : State) (k : Nat) (e : L1Sector) : (s.setL1 k e).core.spad = s.core.spad := rfl
@[simp] theorem State.setL1_core_coreErr (s : State) (k : Nat) (e : L1Sector) : (s.setL1 k e).core.coreErr = s.core.coreErr := rfl
@[simp] theorem State.setL1_core_svcEn (s : State) (k : Nat) (e : L1Sector) : (s.setL1 k e).core.svcEn = s.core.svcEn := rfl
@[simp] theorem State.setL1_core_selReg (s : State) (k : Nat) (e : L1Sector) : (s.setL1 k e).core.selReg = s.core.selReg := rfl
@[simp] theorem State.setL1_core_partA (s : State) (k : Nat) (e : L1Sector) : (s.setL1 k e).core.partA = s.core.partA := rfl
@[simp] theorem State.setL1_core_partB (s : State) (k : Nat) (e : L1Sector) : (s.setL1 k e).core.partB = s.core.partB := rfl
@[simp] theorem State.setL1_core_arenaBase (s : State) (k : Nat) (e : L1Sector) : (s.setL1 k e).core.arenaBase = s.core.arenaBase := rfl
@[simp] theorem State.setL1_core_arenaBound (s : State) (k : Nat) (e : L1Sector) : (s.setL1 k e).core.arenaBound = s.core.arenaBound := rfl
@[simp] theorem State.setL1_core_die (s : State) (k : Nat) (e : L1Sector) : (s.setL1 k e).core.die = s.core.die := rfl
@[simp] theorem State.setL1_core_cluster (s : State) (k : Nat) (e : L1Sector) : (s.setL1 k e).core.cluster = s.core.cluster := rfl
@[simp] theorem State.setL1_core_core (s : State) (k : Nat) (e : L1Sector) : (s.setL1 k e).core.core = s.core.core := rfl
@[simp] theorem State.setL1_core_rings (s : State) (k : Nat) (e : L1Sector) : (s.setL1 k e).core.rings = s.core.rings := rfl
@[simp] theorem State.setL1_core_acc (s : State) (k : Nat) (e : L1Sector) : (s.setL1 k e).core.acc = s.core.acc := rfl
@[simp] theorem State.setL1_core_accWm (s : State) (k : Nat) (e : L1Sector) : (s.setL1 k e).core.accWm = s.core.accWm := rfl
@[simp] theorem State.setL1_core_accLast (s : State) (k : Nat) (e : L1Sector) : (s.setL1 k e).core.accLast = s.core.accLast := rfl
@[simp] theorem State.setL1_core_ops (s : State) (k : Nat) (e : L1Sector) : (s.setL1 k e).core.ops = s.core.ops := rfl
@[simp] theorem State.setL1_core_wbuf (s : State) (k : Nat) (e : L1Sector) : (s.setL1 k e).core.wbuf = s.core.wbuf := rfl
@[simp] theorem State.setL1_core_icache (s : State) (k : Nat) (e : L1Sector) : (s.setL1 k e).core.icache = s.core.icache := rfl
@[simp] theorem State.setL1_core_flaws (s : State) (k : Nat) (e : L1Sector) : (s.setL1 k e).core.flaws = s.core.flaws := rfl
@[simp] theorem State.setL1_core_retired (s : State) (k : Nat) (e : L1Sector) : (s.setL1 k e).core.retired = s.core.retired := rfl
@[simp] theorem State.setL1_core_fixed (s : State) (k : Nat) (e : L1Sector) : (s.setL1 k e).core.fixed = s.core.fixed := rfl
@[simp] theorem State.setL1_core_restored (s : State) (k : Nat) (e : L1Sector) : (s.setL1 k e).core.restored = s.core.restored := rfl
@[simp] theorem State.setL1_core_flying (s : State) (k : Nat) (e : L1Sector) : (s.setL1 k e).core.flying = s.core.flying := rfl
@[simp] theorem State.setL1_core_acked (s : State) (k : Nat) (e : L1Sector) : (s.setL1 k e).core.acked = s.core.acked := rfl

/-! ### `State.setL2` -/

@[simp] theorem State.setL2_core (s : State) (k : Nat) (e : L2Sector) : (s.setL2 k e).core = s.core := rfl
@[simp] theorem State.setL2_dm (s : State) (k : Nat) (e : L2Sector) : (s.setL2 k e).dm = s.dm := rfl
@[simp] theorem State.setL2_dl (s : State) (k : Nat) (e : L2Sector) : (s.setL2 k e).dl = s.dl := rfl
@[simp] theorem State.setL2_pk (s : State) (k : Nat) (e : L2Sector) : (s.setL2 k e).pk = s.pk := rfl
@[simp] theorem State.setL2_fi (s : State) (k : Nat) (e : L2Sector) : (s.setL2 k e).fi = s.fi := rfl
@[simp] theorem State.setL2_agenda (s : State) (k : Nat) (e : L2Sector) : (s.setL2 k e).agenda = s.agenda := rfl
@[simp] theorem State.setL2_free (s : State) (k : Nat) (e : L2Sector) : (s.setL2 k e).free = s.free := rfl
@[simp] theorem State.setL2_tags (s : State) (k : Nat) (e : L2Sector) : (s.setL2 k e).tags = s.tags := rfl
@[simp] theorem State.setL2_verdict (s : State) (k : Nat) (e : L2Sector) : (s.setL2 k e).verdict = s.verdict := rfl
@[simp] theorem State.setL2_issue (s : State) (k : Nat) (e : L2Sector) : (s.setL2 k e).issue = s.issue := rfl

/-! ### `State.modCore` -/

@[simp] theorem State.modCore_cl (s : State) (f : Core → Core) : (s.modCore f).cl = s.cl := rfl
@[simp] theorem State.modCore_dm (s : State) (f : Core → Core) : (s.modCore f).dm = s.dm := rfl
@[simp] theorem State.modCore_dl (s : State) (f : Core → Core) : (s.modCore f).dl = s.dl := rfl
@[simp] theorem State.modCore_pk (s : State) (f : Core → Core) : (s.modCore f).pk = s.pk := rfl
@[simp] theorem State.modCore_fi (s : State) (f : Core → Core) : (s.modCore f).fi = s.fi := rfl
@[simp] theorem State.modCore_agenda (s : State) (f : Core → Core) : (s.modCore f).agenda = s.agenda := rfl
@[simp] theorem State.modCore_free (s : State) (f : Core → Core) : (s.modCore f).free = s.free := rfl
@[simp] theorem State.modCore_tags (s : State) (f : Core → Core) : (s.modCore f).tags = s.tags := rfl
@[simp] theorem State.modCore_verdict (s : State) (f : Core → Core) : (s.modCore f).verdict = s.verdict := rfl
@[simp] theorem State.modCore_issue (s : State) (f : Core → Core) : (s.modCore f).issue = s.issue := rfl

/-! ### `State.modDm` -/

@[simp] theorem State.modDm_core (s : State) (f : DieMem → DieMem) : (s.modDm f).core = s.core := rfl
@[simp] theorem State.modDm_cl (s : State) (f : DieMem → DieMem) : (s.modDm f).cl = s.cl := rfl
@[simp] theorem State.modDm_dl (s : State) (f : DieMem → DieMem) : (s.modDm f).dl = s.dl := rfl
@[simp] theorem State.modDm_pk (s : State) (f : DieMem → DieMem) : (s.modDm f).pk = s.pk := rfl
@[simp] theorem State.modDm_fi (s : State) (f : DieMem → DieMem) : (s.modDm f).fi = s.fi := rfl
@[simp] theorem State.modDm_agenda (s : State) (f : DieMem → DieMem) : (s.modDm f).agenda = s.agenda := rfl
@[simp] theorem State.modDm_free (s : State) (f : DieMem → DieMem) : (s.modDm f).free = s.free := rfl
@[simp] theorem State.modDm_tags (s : State) (f : DieMem → DieMem) : (s.modDm f).tags = s.tags := rfl
@[simp] theorem State.modDm_verdict (s : State) (f : DieMem → DieMem) : (s.modDm f).verdict = s.verdict := rfl
@[simp] theorem State.modDm_issue (s : State) (f : DieMem → DieMem) : (s.modDm f).issue = s.issue := rfl

/-! ### `State.modDl` -/

@[simp] theorem State.modDl_core (s : State) (f : DieLaunch → DieLaunch) : (s.modDl f).core = s.core := rfl
@[simp] theorem State.modDl_cl (s : State) (f : DieLaunch → DieLaunch) : (s.modDl f).cl = s.cl := rfl
@[simp] theorem State.modDl_dm (s : State) (f : DieLaunch → DieLaunch) : (s.modDl f).dm = s.dm := rfl
@[simp] theorem State.modDl_pk (s : State) (f : DieLaunch → DieLaunch) : (s.modDl f).pk = s.pk := rfl
@[simp] theorem State.modDl_fi (s : State) (f : DieLaunch → DieLaunch) : (s.modDl f).fi = s.fi := rfl
@[simp] theorem State.modDl_agenda (s : State) (f : DieLaunch → DieLaunch) : (s.modDl f).agenda = s.agenda := rfl
@[simp] theorem State.modDl_free (s : State) (f : DieLaunch → DieLaunch) : (s.modDl f).free = s.free := rfl
@[simp] theorem State.modDl_tags (s : State) (f : DieLaunch → DieLaunch) : (s.modDl f).tags = s.tags := rfl
@[simp] theorem State.modDl_verdict (s : State) (f : DieLaunch → DieLaunch) : (s.modDl f).verdict = s.verdict := rfl
@[simp] theorem State.modDl_issue (s : State) (f : DieLaunch → DieLaunch) : (s.modDl f).issue = s.issue := rfl

/-! ### `State.modPk` -/

@[simp] theorem State.modPk_core (s : State) (f : Package → Package) : (s.modPk f).core = s.core := rfl
@[simp] theorem State.modPk_cl (s : State) (f : Package → Package) : (s.modPk f).cl = s.cl := rfl
@[simp] theorem State.modPk_dm (s : State) (f : Package → Package) : (s.modPk f).dm = s.dm := rfl
@[simp] theorem State.modPk_dl (s : State) (f : Package → Package) : (s.modPk f).dl = s.dl := rfl
@[simp] theorem State.modPk_fi (s : State) (f : Package → Package) : (s.modPk f).fi = s.fi := rfl
@[simp] theorem State.modPk_agenda (s : State) (f : Package → Package) : (s.modPk f).agenda = s.agenda := rfl
@[simp] theorem State.modPk_free (s : State) (f : Package → Package) : (s.modPk f).free = s.free := rfl
@[simp] theorem State.modPk_tags (s : State) (f : Package → Package) : (s.modPk f).tags = s.tags := rfl
@[simp] theorem State.modPk_verdict (s : State) (f : Package → Package) : (s.modPk f).verdict = s.verdict := rfl
@[simp] theorem State.modPk_issue (s : State) (f : Package → Package) : (s.modPk f).issue = s.issue := rfl

/-! ### `State.modPv` -/

@[simp] theorem State.modPv_core (s : State) (f : Pavane → Pavane) : (s.modPv f).core = s.core := rfl
@[simp] theorem State.modPv_cl (s : State) (f : Pavane → Pavane) : (s.modPv f).cl = s.cl := rfl
@[simp] theorem State.modPv_dm (s : State) (f : Pavane → Pavane) : (s.modPv f).dm = s.dm := rfl
@[simp] theorem State.modPv_dl (s : State) (f : Pavane → Pavane) : (s.modPv f).dl = s.dl := rfl
@[simp] theorem State.modPv_fi (s : State) (f : Pavane → Pavane) : (s.modPv f).fi = s.fi := rfl
@[simp] theorem State.modPv_agenda (s : State) (f : Pavane → Pavane) : (s.modPv f).agenda = s.agenda := rfl
@[simp] theorem State.modPv_free (s : State) (f : Pavane → Pavane) : (s.modPv f).free = s.free := rfl
@[simp] theorem State.modPv_tags (s : State) (f : Pavane → Pavane) : (s.modPv f).tags = s.tags := rfl
@[simp] theorem State.modPv_verdict (s : State) (f : Pavane → Pavane) : (s.modPv f).verdict = s.verdict := rfl
@[simp] theorem State.modPv_issue (s : State) (f : Pavane → Pavane) : (s.modPv f).issue = s.issue := rfl

/-! ### `State.modFi` -/

@[simp] theorem State.modFi_core (s : State) (f : Fabric → Fabric) : (s.modFi f).core = s.core := rfl
@[simp] theorem State.modFi_cl (s : State) (f : Fabric → Fabric) : (s.modFi f).cl = s.cl := rfl
@[simp] theorem State.modFi_dm (s : State) (f : Fabric → Fabric) : (s.modFi f).dm = s.dm := rfl
@[simp] theorem State.modFi_dl (s : State) (f : Fabric → Fabric) : (s.modFi f).dl = s.dl := rfl
@[simp] theorem State.modFi_pk (s : State) (f : Fabric → Fabric) : (s.modFi f).pk = s.pk := rfl
@[simp] theorem State.modFi_agenda (s : State) (f : Fabric → Fabric) : (s.modFi f).agenda = s.agenda := rfl
@[simp] theorem State.modFi_free (s : State) (f : Fabric → Fabric) : (s.modFi f).free = s.free := rfl
@[simp] theorem State.modFi_tags (s : State) (f : Fabric → Fabric) : (s.modFi f).tags = s.tags := rfl
@[simp] theorem State.modFi_verdict (s : State) (f : Fabric → Fabric) : (s.modFi f).verdict = s.verdict := rfl
@[simp] theorem State.modFi_issue (s : State) (f : Fabric → Fabric) : (s.modFi f).issue = s.issue := rfl

/-! ### `State.modJob` -/

@[simp] theorem State.modJob_core (s : State) (j : BitVec 12) (f : Job → Job) : (s.modJob j f).core = s.core := rfl
@[simp] theorem State.modJob_cl (s : State) (j : BitVec 12) (f : Job → Job) : (s.modJob j f).cl = s.cl := rfl
@[simp] theorem State.modJob_dm (s : State) (j : BitVec 12) (f : Job → Job) : (s.modJob j f).dm = s.dm := rfl
@[simp] theorem State.modJob_dl (s : State) (j : BitVec 12) (f : Job → Job) : (s.modJob j f).dl = s.dl := rfl
@[simp] theorem State.modJob_pk (s : State) (j : BitVec 12) (f : Job → Job) : (s.modJob j f).pk = s.pk := rfl
@[simp] theorem State.modJob_agenda (s : State) (j : BitVec 12) (f : Job → Job) : (s.modJob j f).agenda = s.agenda := rfl
@[simp] theorem State.modJob_free (s : State) (j : BitVec 12) (f : Job → Job) : (s.modJob j f).free = s.free := rfl
@[simp] theorem State.modJob_tags (s : State) (j : BitVec 12) (f : Job → Job) : (s.modJob j f).tags = s.tags := rfl
@[simp] theorem State.modJob_verdict (s : State) (j : BitVec 12) (f : Job → Job) : (s.modJob j f).verdict = s.verdict := rfl
@[simp] theorem State.modJob_issue (s : State) (j : BitVec 12) (f : Job → Job) : (s.modJob j f).issue = s.issue := rfl

/-! ### `State.setLink` -/

@[simp] theorem State.setLink_core (s : State) (i : Fin 16) (l : Link) : (s.setLink i l).core = s.core := rfl
@[simp] theorem State.setLink_cl (s : State) (i : Fin 16) (l : Link) : (s.setLink i l).cl = s.cl := rfl
@[simp] theorem State.setLink_dm (s : State) (i : Fin 16) (l : Link) : (s.setLink i l).dm = s.dm := rfl
@[simp] theorem State.setLink_dl (s : State) (i : Fin 16) (l : Link) : (s.setLink i l).dl = s.dl := rfl
@[simp] theorem State.setLink_pk (s : State) (i : Fin 16) (l : Link) : (s.setLink i l).pk = s.pk := rfl
@[simp] theorem State.setLink_agenda (s : State) (i : Fin 16) (l : Link) : (s.setLink i l).agenda = s.agenda := rfl
@[simp] theorem State.setLink_free (s : State) (i : Fin 16) (l : Link) : (s.setLink i l).free = s.free := rfl
@[simp] theorem State.setLink_tags (s : State) (i : Fin 16) (l : Link) : (s.setLink i l).tags = s.tags := rfl
@[simp] theorem State.setLink_verdict (s : State) (i : Fin 16) (l : Link) : (s.setLink i l).verdict = s.verdict := rfl
@[simp] theorem State.setLink_issue (s : State) (i : Fin 16) (l : Link) : (s.setLink i l).issue = s.issue := rfl

/-! ### `State.setQueue` -/

@[simp] theorem State.setQueue_core (s : State) (q : Nat) (k : Queue) : (s.setQueue q k).core = s.core := rfl
@[simp] theorem State.setQueue_cl (s : State) (q : Nat) (k : Queue) : (s.setQueue q k).cl = s.cl := rfl
@[simp] theorem State.setQueue_dm (s : State) (q : Nat) (k : Queue) : (s.setQueue q k).dm = s.dm := rfl
@[simp] theorem State.setQueue_pk (s : State) (q : Nat) (k : Queue) : (s.setQueue q k).pk = s.pk := rfl
@[simp] theorem State.setQueue_fi (s : State) (q : Nat) (k : Queue) : (s.setQueue q k).fi = s.fi := rfl
@[simp] theorem State.setQueue_agenda (s : State) (q : Nat) (k : Queue) : (s.setQueue q k).agenda = s.agenda := rfl
@[simp] theorem State.setQueue_free (s : State) (q : Nat) (k : Queue) : (s.setQueue q k).free = s.free := rfl
@[simp] theorem State.setQueue_tags (s : State) (q : Nat) (k : Queue) : (s.setQueue q k).tags = s.tags := rfl
@[simp] theorem State.setQueue_verdict (s : State) (q : Nat) (k : Queue) : (s.setQueue q k).verdict = s.verdict := rfl
@[simp] theorem State.setQueue_issue (s : State) (q : Nat) (k : Queue) : (s.setQueue q k).issue = s.issue := rfl

/-! ### `State.send` -/

@[simp] theorem State.send_core (s : State) (p : Packet) : (s.send p).core = s.core := rfl
@[simp] theorem State.send_cl (s : State) (p : Packet) : (s.send p).cl = s.cl := rfl
@[simp] theorem State.send_dm (s : State) (p : Packet) : (s.send p).dm = s.dm := rfl
@[simp] theorem State.send_dl (s : State) (p : Packet) : (s.send p).dl = s.dl := rfl
@[simp] theorem State.send_pk (s : State) (p : Packet) : (s.send p).pk = s.pk := rfl
@[simp] theorem State.send_agenda (s : State) (p : Packet) : (s.send p).agenda = s.agenda := rfl
@[simp] theorem State.send_free (s : State) (p : Packet) : (s.send p).free = s.free := rfl
@[simp] theorem State.send_tags (s : State) (p : Packet) : (s.send p).tags = s.tags := rfl
@[simp] theorem State.send_verdict (s : State) (p : Packet) : (s.send p).verdict = s.verdict := rfl
@[simp] theorem State.send_issue (s : State) (p : Packet) : (s.send p).issue = s.issue := rfl

/-! ### `State.enqueue` -/

@[simp] theorem State.enqueue_core (s : State) (e : Event) : (s.enqueue e).core = s.core := rfl
@[simp] theorem State.enqueue_cl (s : State) (e : Event) : (s.enqueue e).cl = s.cl := rfl
@[simp] theorem State.enqueue_dm (s : State) (e : Event) : (s.enqueue e).dm = s.dm := rfl
@[simp] theorem State.enqueue_dl (s : State) (e : Event) : (s.enqueue e).dl = s.dl := rfl
@[simp] theorem State.enqueue_pk (s : State) (e : Event) : (s.enqueue e).pk = s.pk := rfl
@[simp] theorem State.enqueue_fi (s : State) (e : Event) : (s.enqueue e).fi = s.fi := rfl
@[simp] theorem State.enqueue_free (s : State) (e : Event) : (s.enqueue e).free = s.free := rfl
@[simp] theorem State.enqueue_tags (s : State) (e : Event) : (s.enqueue e).tags = s.tags := rfl
@[simp] theorem State.enqueue_verdict (s : State) (e : Event) : (s.enqueue e).verdict = s.verdict := rfl
@[simp] theorem State.enqueue_issue (s : State) (e : Event) : (s.enqueue e).issue = s.issue := rfl

/-! ### `State.later` -/

@[simp] theorem State.later_core (s : State) (e : Event) : (s.later e).core = s.core := rfl
@[simp] theorem State.later_cl (s : State) (e : Event) : (s.later e).cl = s.cl := rfl
@[simp] theorem State.later_dm (s : State) (e : Event) : (s.later e).dm = s.dm := rfl
@[simp] theorem State.later_dl (s : State) (e : Event) : (s.later e).dl = s.dl := rfl
@[simp] theorem State.later_pk (s : State) (e : Event) : (s.later e).pk = s.pk := rfl
@[simp] theorem State.later_fi (s : State) (e : Event) : (s.later e).fi = s.fi := rfl
@[simp] theorem State.later_free (s : State) (e : Event) : (s.later e).free = s.free := rfl
@[simp] theorem State.later_tags (s : State) (e : Event) : (s.later e).tags = s.tags := rfl
@[simp] theorem State.later_verdict (s : State) (e : Event) : (s.later e).verdict = s.verdict := rfl
@[simp] theorem State.later_issue (s : State) (e : Event) : (s.later e).issue = s.issue := rfl

/-! ### `State.stop` -/

@[simp] theorem State.stop_core (s : State) : (s.stop).core = s.core := rfl
@[simp] theorem State.stop_cl (s : State) : (s.stop).cl = s.cl := rfl
@[simp] theorem State.stop_dm (s : State) : (s.stop).dm = s.dm := rfl
@[simp] theorem State.stop_dl (s : State) : (s.stop).dl = s.dl := rfl
@[simp] theorem State.stop_pk (s : State) : (s.stop).pk = s.pk := rfl
@[simp] theorem State.stop_fi (s : State) : (s.stop).fi = s.fi := rfl
@[simp] theorem State.stop_agenda (s : State) : (s.stop).agenda = s.agenda := rfl
@[simp] theorem State.stop_free (s : State) : (s.stop).free = s.free := rfl
@[simp] theorem State.stop_tags (s : State) : (s.stop).tags = s.tags := rfl
@[simp] theorem State.stop_issue (s : State) : (s.stop).issue = s.issue := rfl

/-! ### What an update writes -/

@[simp] theorem State.modDm_dm (s : State) (f : DieMem → DieMem) : (s.modDm f).dm = f s.dm := rfl
@[simp] theorem State.modDl_dl (s : State) (f : DieLaunch → DieLaunch) : (s.modDl f).dl = f s.dl := rfl
@[simp] theorem State.modPk_pk (s : State) (f : Package → Package) : (s.modPk f).pk = f s.pk := rfl
@[simp] theorem State.modPv_pv (s : State) (f : Pavane → Pavane) : (s.modPv f).pk.pv = f s.pk.pv := rfl
@[simp] theorem State.modFi_fi (s : State) (f : Fabric → Fabric) : (s.modFi f).fi = f s.fi := rfl
@[simp] theorem State.modCore_core (s : State) (f : Core → Core) : (s.modCore f).core = f s.core := rfl
@[simp] theorem State.send_outbox (s : State) (p : Packet) : (s.send p).fi.outbox = s.fi.outbox ++ [p] := rfl
@[simp] theorem State.enqueue_agenda (s : State) (e : Event) : (s.enqueue e).agenda = e :: s.agenda := rfl
@[simp] theorem State.later_agenda (s : State) (e : Event) : (s.later e).agenda = s.agenda ++ [e] := rfl
@[simp] theorem State.stop_verdict (s : State) : s.stop.verdict = .trapped := rfl

/-- A context read after one is replaced. -/
theorem State.ctx_setCtx (s : State) (c d : Fin 5) (x : Ctx) : (s.setCtx c x).ctx d = if c = d then x else s.ctx d := by
  simp only [State.ctx, State.setCtx, Vector.get_eq_getElem, Vector.getElem_set, Fin.ext_iff]

@[simp] theorem State.ctx_setCtx_self (s : State) (c : Fin 5) (x : Ctx) : (s.setCtx c x).ctx c = x := by simp [State.ctx_setCtx]

theorem State.ctx_setCtx_of_ne (s : State) {c d : Fin 5} (h : c ≠ d) (x : Ctx) : (s.setCtx c x).ctx d = s.ctx d := by
  simp [State.ctx_setCtx, h]

theorem State.ctx_modCtx (s : State) (c d : Fin 5) (f : Ctx → Ctx) : (s.modCtx c f).ctx d = if c = d then f (s.ctx c) else s.ctx d :=
  s.ctx_setCtx c d _

@[simp] theorem State.ctx_modCtx_self (s : State) (c : Fin 5) (f : Ctx → Ctx) : (s.modCtx c f).ctx c = f (s.ctx c) := by
  simp [State.ctx_modCtx]

@[simp] theorem State.me_modMe (s : State) (f : Ctx → Ctx) : (s.modMe f).me = f s.me := by
  simp [State.me, State.modMe]

/-- A ring read after one is replaced. -/
theorem State.ring_setRing (s : State) (n m : Fin 32) (r : Ring) : (s.setRing n r).ring m = if n = m then r else s.ring m := by
  simp only [State.ring, State.setRing, Vector.get_eq_getElem, Vector.getElem_set, Fin.ext_iff]

@[simp] theorem State.ring_setRing_self (s : State) (n : Fin 32) (r : Ring) : (s.setRing n r).ring n = r := by simp [State.ring_setRing]

@[simp] theorem State.ring_setCtx (s : State) (c : Fin 5) (x : Ctx) (n : Fin 32) : (s.setCtx c x).ring n = s.ring n := rfl
@[simp] theorem State.ring_modCtx (s : State) (c : Fin 5) (f : Ctx → Ctx) (n : Fin 32) : (s.modCtx c f).ring n = s.ring n := rfl
@[simp] theorem State.ctx_setRing (s : State) (c : Fin 5) (n : Fin 32) (r : Ring) : (s.setRing n r).ctx c = s.ctx c := rfl
@[simp] theorem State.me_setRing (s : State) (n : Fin 32) (r : Ring) : (s.setRing n r).me = s.me := rfl

/-- A link read after one is replaced. -/
theorem State.link_setLink (s : State) (i j : Fin 16) (l : Link) : (s.setLink i l).link j = if i = j then l else s.link j := by
  simp only [State.link, State.setLink, State.modFi, Vector.get_eq_getElem, Vector.getElem_set, Fin.ext_iff]

/-! ### A context: the results in flight -/

@[simp] theorem Ctx.flight_setFlight (x : Ctx) (l : List Pend) : (x.setFlight l).flight = l := by
  by_cases h : x.hm <;> simp [Ctx.setFlight, Ctx.flight, h]

@[simp] theorem Ctx.setFlight_hm (x : Ctx) (l : List Pend) : (x.setFlight l).hm = x.hm := by
  by_cases h : x.hm <;> simp [Ctx.setFlight, h]

@[simp] theorem Ctx.setFlight_x (q : Ctx) (l : List Pend) : (q.setFlight l).x = q.x := by
  simp only [Ctx.setFlight]; split <;> rfl
@[simp] theorem Ctx.setFlight_y (q : Ctx) (l : List Pend) : (q.setFlight l).y = q.y := by
  simp only [Ctx.setFlight]; split <;> rfl
@[simp] theorem Ctx.setFlight_v (q : Ctx) (l : List Pend) : (q.setFlight l).v = q.v := by
  simp only [Ctx.setFlight]; split <;> rfl
@[simp] theorem Ctx.setFlight_m (q : Ctx) (l : List Pend) : (q.setFlight l).m = q.m := by
  simp only [Ctx.setFlight]; split <;> rfl
@[simp] theorem Ctx.setFlight_c (q : Ctx) (l : List Pend) : (q.setFlight l).c = q.c := by
  simp only [Ctx.setFlight]; split <;> rfl
@[simp] theorem Ctx.setFlight_e (q : Ctx) (l : List Pend) : (q.setFlight l).e = q.e := by
  simp only [Ctx.setFlight]; split <;> rfl
@[simp] theorem Ctx.setFlight_k (q : Ctx) (l : List Pend) : (q.setFlight l).k = q.k := by
  simp only [Ctx.setFlight]; split <;> rfl
@[simp] theorem Ctx.setFlight_p (q : Ctx) (l : List Pend) : (q.setFlight l).p = q.p := by
  simp only [Ctx.setFlight]; split <;> rfl
@[simp] theorem Ctx.setFlight_h (q : Ctx) (l : List Pend) : (q.setFlight l).h = q.h := by
  simp only [Ctx.setFlight]; split <;> rfl
@[simp] theorem Ctx.setFlight_pc (q : Ctx) (l : List Pend) : (q.setFlight l).pc = q.pc := by
  simp only [Ctx.setFlight]; split <;> rfl
@[simp] theorem Ctx.setFlight_nat (q : Ctx) (l : List Pend) : (q.setFlight l).nat = q.nat := by
  simp only [Ctx.setFlight]; split <;> rfl
@[simp] theorem Ctx.setFlight_strand (q : Ctx) (l : List Pend) : (q.setFlight l).strand = q.strand := by
  simp only [Ctx.setFlight]; split <;> rfl
@[simp] theorem Ctx.setFlight_ports (q : Ctx) (l : List Pend) : (q.setFlight l).ports = q.ports := by
  simp only [Ctx.setFlight]; split <;> rfl
@[simp] theorem Ctx.setFlight_waits (q : Ctx) (l : List Pend) : (q.setFlight l).waits = q.waits := by
  simp only [Ctx.setFlight]; split <;> rfl
@[simp] theorem Ctx.setFlight_xb (q : Ctx) (l : List Pend) : (q.setFlight l).xb = q.xb := by
  simp only [Ctx.setFlight]; split <;> rfl
@[simp] theorem Ctx.setFlight_yb (q : Ctx) (l : List Pend) : (q.setFlight l).yb = q.yb := by
  simp only [Ctx.setFlight]; split <;> rfl
@[simp] theorem Ctx.setFlight_vb (q : Ctx) (l : List Pend) : (q.setFlight l).vb = q.vb := by
  simp only [Ctx.setFlight]; split <;> rfl
@[simp] theorem Ctx.setFlight_cb (q : Ctx) (l : List Pend) : (q.setFlight l).cb = q.cb := by
  simp only [Ctx.setFlight]; split <;> rfl
@[simp] theorem Ctx.setFlight_fflags (q : Ctx) (l : List Pend) : (q.setFlight l).fflags = q.fflags := by
  simp only [Ctx.setFlight]; split <;> rfl
@[simp] theorem Ctx.setFlight_ccyc (q : Ctx) (l : List Pend) : (q.setFlight l).ccyc = q.ccyc := by
  simp only [Ctx.setFlight]; split <;> rfl
@[simp] theorem Ctx.setFlight_hcyc (q : Ctx) (l : List Pend) : (q.setFlight l).hcyc = q.hcyc := by
  simp only [Ctx.setFlight]; split <;> rfl
@[simp] theorem Ctx.setFlight_xfer (q : Ctx) (l : List Pend) : (q.setFlight l).xfer = q.xfer := by
  simp only [Ctx.setFlight]; split <;> rfl
@[simp] theorem Ctx.setFlight_hxfer (q : Ctx) (l : List Pend) : (q.setFlight l).hxfer = q.hxfer := by
  simp only [Ctx.setFlight]; split <;> rfl
@[simp] theorem Ctx.setFlight_loops (q : Ctx) (l : List Pend) : (q.setFlight l).loops = q.loops := by
  simp only [Ctx.setFlight]; split <;> rfl
@[simp] theorem Ctx.setFlight_hloops (q : Ctx) (l : List Pend) : (q.setFlight l).hloops = q.hloops := by
  simp only [Ctx.setFlight]; split <;> rfl

/-- A scheduled result joins the results in flight of its context; portable code sees it at the next word (R41). -/
theorem State.ctx_landIn (s : State) (c : Fin 5) (w : Write) (lat : Nat) :
    (s.landIn c w lat).ctx c = (s.ctx c).setFlight ((s.ctx c).flight ++ [⟨0, if (s.ctx c).nat then lat else 1, w, []⟩]) := by
  simp [State.landIn]

theorem State.me_land (s : State) (w : Write) (lat : Nat) :
    (s.land w lat).me = s.me.setFlight (s.me.flight ++ [⟨0, if s.me.nat then lat else 1, w, []⟩]) :=
  s.ctx_landIn s.core.cur w lat

end Sys2Proof.Machine
end

