-- ==== Sys2Proof/Laws/Ops.lean ====
section
/-! SUPPORT. What each shared operation of the machine can do, said once. -/

namespace Sys2Proof.Machine

/-! ### The frame of an instruction word -/

/-- An unperformed word changes nothing (R45). -/
theorem perform_of_guard_false {i : Instr} {g : BitVec 4} {s : State} {body : State → Option State} (h : s.me.getP g = false) :
    perform i g s body = .next s := by simp [perform, h]

/-- A performed word that fails a check takes the trap of the first (R52). -/
theorem perform_of_check {i : Instr} {g : BitVec 4} {s : State} {body : State → Option State} {t : TrapRec}
    (h : s.me.getP g = true) (hc : slotCheck i s = some t) : perform i g s body = .next (s.takeTrap t) := by simp [perform, h, hc]

/-- A performed word that passes its checks has its effect. -/
theorem perform_of_body {i : Instr} {g : BitVec 4} {s t : State} {body : State → Option State}
    (h : s.me.getP g = true) (hc : slotCheck i s = none) (hb : body s = some t) : perform i g s body = .next t := by
  simp [perform, h, hc, runBody, hb]

/-- A performed word whose body has to wait holds its bundle (R57). -/
theorem perform_of_held {i : Instr} {g : BitVec 4} {s : State} {body : State → Option State}
    (h : s.me.getP g = true) (hc : slotCheck i s = none) (hb : body s = none) : perform i g s body = .next { s with verdict := .held } := by
  simp [perform, h, hc, runBody, hb]

/-- Everything a performed or unperformed word can answer. -/
theorem perform_cases {i : Instr} {g : BitVec 4} {s t : State} {body : State → Option State} (h : perform i g s body = .next t) :
    (s.me.getP g = false ∧ t = s) ∨
    (s.me.getP g = true ∧ ∃ r, slotCheck i s = some r ∧ t = s.takeTrap r) ∨
    (s.me.getP g = true ∧ slotCheck i s = none ∧ body s = some t) ∨
    (s.me.getP g = true ∧ slotCheck i s = none ∧ body s = none ∧ t = { s with verdict := .held }) := by
  simp only [perform] at h
  split at h
  · rename_i hg
    split at h
    · rename_i r hc
      cases h
      exact .inr (.inl ⟨hg, r, hc, rfl⟩)
    · rename_i hc
      simp only [runBody] at h
      split at h
      · rename_i u hb
        cases h
        exact .inr (.inr (.inl ⟨hg, hc, hb⟩))
      · rename_i hb
        cases h
        exact .inr (.inr (.inr ⟨hg, hc, hb, rfl⟩))
  · rename_i hg
    cases h
    exact .inl ⟨by simpa using hg, rfl⟩

/-- A word always answers a next state. -/
theorem perform_goes (i : Instr) (g : BitVec 4) (s : State) (body : State → Option State) : ∃ t, perform i g s body = .next t := by
  simp only [perform, runBody]
  split
  · split
    · exact ⟨_, rfl⟩
    · split <;> exact ⟨_, rfl⟩
  · exact ⟨_, rfl⟩

/-! ### Operands -/

/-- A field that names no bound port reads its register (R46, R54). -/
theorem readX_plain {s : State} {i : Bool} {a : BitVec 5} (h : s.portField i a = none) :
    s.readX i a = some (s.me.getX (rebase i a s.me.xb), s) := by simp [State.readX, h]

/-- A field that names a bound port with an arrived word pops it (R47). -/
theorem readX_port {s : State} {i : Bool} {a : BitVec 5} {n : Fin 16} {w : Word} (h : s.portField i a = some n)
    (hw : (s.me.ports.get n).peek = some w) :
    s.readX i a = some (w, s.modMe fun x => { x with ports := x.ports.set n.val { x.ports.get n with read := (x.ports.get n).read + 1 } n.isLt }) := by
  simp [State.readX, h, hw]

/-- A port without an arrived word holds the bundle (R57). -/
theorem readX_empty {s : State} {i : Bool} {a : BitVec 5} {n : Fin 16} (h : s.portField i a = some n) (hw : (s.me.ports.get n).peek = none) :
    s.readX i a = none := by simp [State.readX, h, hw]

/-- A destination field that names no bound port schedules its register. -/
theorem writeX_plain {s : State} {i : Bool} {d : BitVec 5} (h : s.portField i d = none) (v : Word) (lat : Nat) :
    s.writeX i d v lat = some (s.land (.x (bank s.me.hm (rebase i d s.me.xb)) v) lat) := by simp [State.writeX, h]

/-- A bound port with 64 buffered words holds the bundle (R57). -/
theorem writeX_full {s : State} {i : Bool} {d : BitVec 5} {n : Fin 16} (h : s.portField i d = some n)
    (hf : 64 ≤ (s.me.ports.get n).buffered) (v : Word) (lat : Nat) : s.writeX i d v lat = none := by
  simp [State.writeX, h, Nat.not_lt.mpr hf]

/-- In handler mode no field names a port (R65). -/
theorem portField_handler {s : State} (h : s.me.hm = true) (i : Bool) (a : BitVec 5) : s.portField i a = none := by simp [State.portField, h]

/-- A rebased field names no port (R46). -/
theorem portField_rebased (s : State) (a : BitVec 5) : s.portField true a = none := by simp [State.portField]

@[simp] theorem getX_zero (x : Ctx) : x.getX 0 = 0 := by simp [Ctx.getX]
@[simp] theorem getY_zero (x : Ctx) : x.getY 0 = 0 := by simp [Ctx.getY]
@[simp] theorem getP_zero (x : Ctx) : x.getP 0 = true := by simp [Ctx.getP]
@[simp] theorem getK_zero (x : Ctx) : x.getK 0 = BitVec.allOnes 512 := by simp [Ctx.getK]

/-! ### Taking an exception -/

/-- A precise trap taken by the context handler: the saved registers, then TRAP_VEC (R64). -/
theorem takeTrapIn_handler {s : State} {c : Fin 5} {t : TrapRec} (hc : c ≠ svc) (hm : (s.ctx c).hm = false)
    (h5 : t.cause ≠ 5) (h9 : t.cause ≠ 9) :
    s.takeTrapIn c t = ({ s with verdict := .trapped } : State).modCtx c fun x =>
      (x.record t false (pcWord s.issue.addr x.nat) (pcWord (s.trapNext c) x.nat)).toHandler := by
  simp only [State.takeTrapIn, hc, if_false, hm, h5, h9, or_self, Bool.false_eq_true]
  simp only [State.modCtx, State.setCtx, State.ctx, State.trapNext]
  simp [Vector.get_eq_getElem]

/-- A precise trap in handler mode ends the strand (R65). -/
theorem takeTrapIn_nested {s : State} {c : Fin 5} {t : TrapRec} (hc : c ≠ svc) (hm : (s.ctx c).hm = true) :
    s.takeTrapIn c t = ({ s with verdict := .trapped } : State).strandFault c 7 (s.ctx c).trapCause (causeWord t false (s.ctx c).sealed)
      (s.ctx c).trapPc := by
  simp [State.takeTrapIn, hc, hm]

@[simp] theorem toHandler_hm (x : Ctx) : x.toHandler.hm = true := rfl
@[simp] theorem toHandler_pc (x : Ctx) : x.toHandler.pc = BitVec.ofNat 64 (bits x.trapVec.toNat 39 2 * 4) := rfl
@[simp] theorem record_trapPc (x : Ctx) (t : TrapRec) (a : Bool) (pc npc : Word) : (x.record t a pc npc).trapPc = pc := rfl
@[simp] theorem record_trapNpc (x : Ctx) (t : TrapRec) (a : Bool) (pc npc : Word) : (x.record t a pc npc).trapNpc = npc := rfl
@[simp] theorem record_trapCause (x : Ctx) (t : TrapRec) (a : Bool) (pc npc : Word) : (x.record t a pc npc).trapCause = causeWord t a x.sealed := rfl

/-! ### Memory of the die and of the core -/

@[simp] theorem setTag_mem (d : DieMem) (sec : Nat) (t : SecTag) : (d.setTag sec t).mem = d.mem := rfl

@[simp] theorem markFrom_mem (d : DieMem) (key a len sec n : Nat) : (DieMem.markFrom d key a len sec n).mem = d.mem := by
  induction n generalizing d sec with
  | zero => rfl
  | succ n ih => simp only [DieMem.markFrom]; rw [ih]; rfl

/-- A write of the die's memory writes its bytes and nothing else. -/
theorem write_mem (d : DieMem) (key a : Nat) (bs : List Byte) : (d.write key a bs).mem = Memory.setAll d.mem a bs := by
  cases bs with
  | nil => rfl
  | cons b r => simp [DieMem.write]

theorem wf_write {d : DieMem} (h : Memory.wf d.mem = true) (key a : Nat) (bs : List Byte) : Memory.wf (d.write key a bs).mem = true := by
  rw [write_mem]; exact Memory.wf_setAll h a bs

theorem wf_writeSector {d : DieMem} (h : Memory.wf d.mem = true) (key sec : Nat) (mask : BitVec 32) (v : Sector) :
    Memory.wf (d.writeSector key sec mask v).mem = true := by
  simp only [DieMem.writeSector, setTag_mem]
  exact Memory.wf_setWhere h _ _ _

theorem wf_spadWrite {k : Core} (h : Memory.wf k.spad = true) (o : Nat) (bs : List Byte) : Memory.wf (k.spadWrite o bs).spad = true := by
  simp only [Core.spadWrite]
  exact Memory.wf_setWhere h _ _ _

/-- Filling a sector before a partial write changes its memory and takes a free draw, nothing else. -/
theorem refill_frame (s : State) (key sec : Nat) :
    ∃ m n, s.refill key sec = { s with dm := { s.dm with mem := m }, free := n } ∧ (Memory.wf s.dm.mem = true → Memory.wf m = true) := by
  simp only [State.refill]
  split
  · exact ⟨s.dm.mem, s.free, rfl, id⟩
  · exact ⟨_, _, rfl, fun h => Memory.wf_setAll h _ _⟩

/-- A sector that stands under the writer's key is written in place. -/
theorem refill_plain {s : State} {key sec : Nat} (h : s.dm.plain key sec = true) : s.refill key sec = s := by simp [State.refill, h]

/-- The device's own store reaches the memory side of the die and takes free draws, nothing else; the memory keeps its form. -/
theorem devWrite_frame (s : State) (a : Nat) (bs : List Byte) :
    ∃ d n, s.devWrite a bs = { s with dm := d, free := n } ∧ (Memory.wf s.dm.mem = true → Memory.wf d.mem = true) := by
  simp only [State.devWrite]
  split
  · exact ⟨s.dm, s.free, rfl, id⟩
  · obtain ⟨m, n, h, hw⟩ := refill_frame s (s.dm.keyTag 0) (a / 32)
    have hs : ∃ m n, (if a % 32 = 0 then s else s.refill (s.dm.keyTag 0) (a / 32)) = { s with dm := { s.dm with mem := m }, free := n } ∧
        (Memory.wf s.dm.mem = true → Memory.wf m = true) := by
      split
      · exact ⟨s.dm.mem, s.free, rfl, id⟩
      · exact ⟨m, n, h, hw⟩
    obtain ⟨m1, n1, h1, w1⟩ := hs
    rw [h1]
    split
    · exact ⟨_, _, rfl, fun h => wf_write (w1 h) _ _ _⟩
    · obtain ⟨m2, n2, h2, w2⟩ := refill_frame { s with dm := { s.dm with mem := m1 }, free := n1 } (s.dm.keyTag 0)
        ((a + (bs.take (s.dm.room a)).length - 1) / 32)
      rw [h2]
      exact ⟨_, _, rfl, fun h => wf_write (w2 (w1 h)) _ _ _⟩

/-- A store of whole sectors within a range of storage writes its bytes in place. -/
theorem devWrite_mem {s : State} {a : Nat} {bs : List Byte} (ha : a % 32 = 0) (hb : bs.length % 32 = 0) (hr : bs.length ≤ s.dm.room a) :
    (s.devWrite a bs).dm.mem = Memory.setAll s.dm.mem a bs := by
  cases bs with
  | nil => simp [State.devWrite, Memory.setAll]
  | cons b r =>
    have : (a + (b :: r).length) % 32 = 0 := by omega
    simp only [State.devWrite, List.take_of_length_le hr, List.isEmpty_cons, Bool.false_eq_true, if_false, ha, if_true, this]
    exact write_mem _ _ _ _

@[simp] theorem devWrite_core (s : State) (a : Nat) (bs : List Byte) : (s.devWrite a bs).core = s.core := by
  obtain ⟨_, _, h, -⟩ := devWrite_frame s a bs; rw [h]
@[simp] theorem devWrite_cl (s : State) (a : Nat) (bs : List Byte) : (s.devWrite a bs).cl = s.cl := by
  obtain ⟨_, _, h, -⟩ := devWrite_frame s a bs; rw [h]
@[simp] theorem devWrite_dl (s : State) (a : Nat) (bs : List Byte) : (s.devWrite a bs).dl = s.dl := by
  obtain ⟨_, _, h, -⟩ := devWrite_frame s a bs; rw [h]
@[simp] theorem devWrite_pk (s : State) (a : Nat) (bs : List Byte) : (s.devWrite a bs).pk = s.pk := by
  obtain ⟨_, _, h, -⟩ := devWrite_frame s a bs; rw [h]
@[simp] theorem devWrite_fi (s : State) (a : Nat) (bs : List Byte) : (s.devWrite a bs).fi = s.fi := by
  obtain ⟨_, _, h, -⟩ := devWrite_frame s a bs; rw [h]

/-! ### A step -/

/-- A halted package with nothing on its agenda takes no step (R314). -/
theorem step_halted {s : State} (h : s.pk.halted.isSome = true) (ha : s.agenda = []) : step s = .fault .halted := by
  simp only [step, State.advance, ha, h, if_true]

/-- An event to which the package is deaf passes without effect (R309, R314). -/
theorem step_deaf {s : State} {e : Event} {r : List Event} (hd : s.deaf e = true) (ha : s.agenda = e :: r) : step s = .next { s with agenda := r } := by
  simp only [step, State.advance, ha, hd, if_true]

/-- The event at the head of the agenda runs first. -/
theorem step_agenda {s : State} {e : Event} {r : List Event} (hd : s.deaf e = false) (ha : s.agenda = e :: r) :
    step s = runEvent e { s with agenda := r } := by
  simp [step, State.advance, ha, hd]

/-- A package that runs, and whose boot has not failed, hears every event. -/
theorem deaf_running {s : State} (h : s.pk.halted = none) (hf : s.pk.fail = 0) (e : Event) : s.deaf e = false := by
  cases e <;> simp [State.deaf, h, hf]
  rename_i w _ _
  cases w <;> simp [h, hf]

/-- With nothing on the agenda and no interrupt to take, a core cycle passes. -/
theorem step_turn {s : State} (h : s.pk.halted = none) (ha : s.agenda = []) (hi : s.core.irq = false) : step s = s.turn := by
  simp [step, State.advance, ha, h, hi]

/-! ### The end of a Lantern cycle, the dark interval, the links -/

/-- With no change to recompute and no request, the end of a Lantern cycle changes nothing (R313, R318). -/
theorem lanternTurn_idle {s : State} (h : s.pk.recount = false) (ha : s.pk.asking = []) : s.lanternTurn = s := by
  simp [State.lanternTurn, h, ha]

/-- A fibre without dead wavelengths loses nothing (R357). -/
theorem loseLight_none {s : State} {i : Fin 16} {k : Fin 4} (h : (s.link i).failing.get k = 0) : s.loseLight i k = s := by
  simp [State.loseLight, h]

/-- Outside the dark interval its end changes nothing (R352). -/
theorem clearDark_light {s : State} (h : s.fi.dark = false) : s.clearDark = s := by simp [State.clearDark, h]

/-- In light no port waits for the end of the interval (R351). -/
theorem darkFor_light {s : State} (h : s.fi.dark = false) (job : BitVec 12) (ld : Nat) : s.darkFor job ld = false := by simp [State.darkFor, h]

/-- A store of which a piece lies outside the Mirror frame is not made in any part (R206, R224). -/
theorem storeFor_off {s : State} {c : Fin 5} {w : Who} {frame : Option Nat} {asks : Bool} {n v : Nat} {l : List Piece}
    (h : l.any (s.pieceOff frame) = true) : s.storeFor c w frame asks n v l = (.noFrame, s) := by simp [State.storeFor, h]

end Sys2Proof.Machine
end

