-- ==== Sys2Proof/Tests/Slice0.lean ====
section
/-! SUPPORT. Tests: ill-formed terms refused, words of the spec's tables decoded, one step on a small state, and for every statement
with hypotheses a state that meets them. Expected values are the spec's own examples, or worked out by hand from its rules. -/

open Sys2Proof Sys2Proof.Machine Sys2Proof.Stated

set_option Elab.async false

namespace Sys2Proof.Tests

/-! ### A small state -/

def unit0 : UnitId := ⟨0, 0, 0, 0, 0⟩
/-- A unit on logical die 1 of job 1, another die of the package. -/
def far1 : UnitId := ⟨1, 0, 0, 0, 0⟩

/-- A pinned strand of virtual function 1, ASID 3, job 1. -/
def strand1 : Strand := ⟨3, 1, 0, 1, 0x1000, 0, 0, 0, 0, 5, true, none, .kernel, 0x2000⟩

/-- A leaf of 64 KiB at frame `f` that admits every access, under key slot 1 (R244). -/
def leafWord (f : Nat) : Word := BitVec.ofNat 64 (f * 2 ^ 16 + 2 ^ 8 + 0x1F)

/-- Context 0 in native user mode holds `strand1`; its page 0 stands in frame 2, page 1 in frame 3, its weight
page 2 in frame 4; job 1 spans this die, logical die 0, and
die 1 of the package, logical die 1. -/
def base : State :=
  let s := State.reset
  let s := { s with
    dm := { s.dm with
      roots := [(3, 1 + 4)], keys := s.dm.keys.set 1 ⟨1, 1, 0⟩, regions := s.dm.regions.set 0 ⟨1, false, 7, 0, s.dm.regions[0].matrix⟩
      tlb := [⟨3, 0, 2 ^ 16, leafWord 2⟩, ⟨3, 1, 2 ^ 16, leafWord 3⟩, ⟨3, 2, 2 ^ 16, 0x4013B⟩]
      mem := [(8, 0x40), (13, 1), (15, 0x80), (48, 5), (0x40, 2), (0x4F, 0x80), (0x50, 1), (0x57, 0x80)] } }
  s.setCtx 0 { s.ctx 0 with strand := some strand1, nat := true, pc := 0x8100000000, trapVec := 0x8100000801 }

/-- Context 0 changed. -/
def on (f : Ctx → Ctx) : State := base.setCtx 0 (f (base.ctx 0))

/-- X, Y and C registers given by number. -/
def xs (l : List (Nat × Word)) (c : Ctx) : Ctx := { c with x := Vector.ofFn fun i => ((l.find? fun e => e.1 == i.val).map (·.2)).getD (c.x.get i) }
def ys (l : List (Nat × Word)) (c : Ctx) : Ctx := { c with y := Vector.ofFn fun i => ((l.find? fun e => e.1 == i.val).map (·.2)).getD (c.y.get i) }
def ms (l : List (Nat × Word)) (c : Ctx) : Ctx := { c with m := Vector.ofFn fun i => ((l.find? fun e => e.1 == i.val).map (·.2)).getD (c.m.get i) }
def cs (l : List (Nat × Word)) (c : Ctx) : Ctx := { c with c := Vector.ofFn fun i => ((l.find? fun e => e.1 == i.val).map (·.2)).getD (c.c.get i) }
def es (l : List (Nat × Word)) (c : Ctx) : Ctx := { c with e := Vector.ofFn fun i => ((l.find? fun e => e.1 == i.val).map (·.2)).getD (c.e.get i) }
def vs (l : List (Nat × Vec)) (c : Ctx) : Ctx := { c with v := Vector.ofFn fun i => ((l.find? fun e => e.1 == i.val).map (·.2)).getD (c.v.get i) }
def ps (l : List Nat) (c : Ctx) : Ctx := { c with p := Vector.ofFn fun i => l.contains i.val }
def hmode (c : Ctx) : Ctx := { c with hm := true }
def portable (c : Ctx) : Ctx := { c with nat := false }

/-- The instruction answers a next state of which `p` holds. -/
def ran (i : Instr) (s : State) (p : State → Bool) : Bool := match exec i s with | .next t => p t | _ => false

/-- The last result in flight of context 0. -/
def flight (t : State) : Option (Nat × Write) := (t.ctx 0).pend.getLast?.map fun p => (p.off, p.w)
/-- X result `v` for register `r` at latency `lat`. -/
def lx (r : Fin 38) (v : Word) (lat : Nat) (t : State) : Bool := flight t == some (lat, .x r v)
def ly (r : Fin 38) (v : Word) (lat : Nat) (t : State) : Bool := flight t == some (lat, .y r v)
def lp (r : Fin 16) (v : Bool) (t : State) : Bool := flight t == some (1, .p r v)

/-- The first operands in registers 1 and 2, the guard true, the destination register 3. -/
def r3 : Reg3 := ⟨false, 0, 3, 1, 2⟩
def r2 : Reg2 := ⟨false, 0, 3, 1⟩
def x12 (a b : Word) : State := on (xs [(1, a), (2, b)])
/-- Nothing changes. -/
def idle (i : Instr) (s : State) : Bool := ran i s fun t => decide (t = s)
/-- Bytes of memory from an address, through the model's read of one byte. -/
def memAt (t : State) (a n : Nat) : List Byte := (List.range n).map fun i => Memory.get t.dm.mem (a + i)
/-- `base` with the 8 bytes of a word at a physical address (written under key slot 1). -/
def withMem (s : State) (a : Nat) (bs : List Byte) : State := { s with dm := s.dm.write (s.dm.keyTag 1) a bs }
/-- Bytes that a load result brings. -/
def ld (r : Fin 38) (raw n : Nat) (sx : Bool) (lat : Nat) (t : State) : Bool := flight t == some (lat, .yload r (BitVec.ofNat 2048 raw) n sx)
/-- The last vector result in flight of context 0: register, enabled bits, the enabled bits of the value, latency. -/
def vres (t : State) : Option (Nat × Fin 32 × Vec × Vec) :=
  ((t.ctx 0).pend.reverse.findSome? fun p => match p.w with | .v r en v => some (p.off, r, en, v &&& en) | _ => none)
/-- Lanes of `w` bits, lowest first. -/
def lanes (w : Nat) (l : List Nat) : Vec := BitVec.ofNat 2048 (l.reverse.foldl (fun a v => a * 2 ^ w + v) 0)
/-- The vector result lands in register 3 with these low lanes. -/
def lv (lat w : Nat) (l : List Nat) (t : State) : Bool :=
  match vres t with
  | some (p, 3, _, v) => p == lat && (List.range l.length).map (fun j => v.toNat / 2 ^ (w * j) % 2 ^ w) == l
  | _ => false
/-- The flags that land last. -/
def fl (f : BitVec 5) (t : State) : Bool := (flight t).any fun p => p.2 == .flags f
/-- Vectors in registers 1 and 2. -/
def v12 (w : Nat) (a b : List Nat) : State := on (vs [(1, lanes w a), (2, lanes w b)])
/-- Two vector sources in v1 and v2, the destination v3. -/
def w3 (t : LaneType) : Vec3 := ⟨false, 0, 3, 1, 2, t⟩
def w2 (t : LaneType) : Vec2 := ⟨false, 0, 3, 1, t⟩
/-- Context 0 has tiles 8 to 11, rings 2 to 5, 64 weight blocks and the first 64 KiB of the scratchpad; ring 2 has four slots of 256 bytes at 0x1000, for
engine operations, ring 3 four at 0x2000, bound to z1; two slots of each are filled. Engines 0 and 1 are healthy. -/
def eng (f : Ctx → Ctx) : State :=
  let s := on f
  { s with
    core := { s.core with
      partA := s.core.partA.set 0 (BitVec.ofNat 64 (64 * 2 ^ 32 + 4 * 2 ^ 8 + 8)), partB := s.core.partB.set 0 (BitVec.ofNat 64 (256 * 2 ^ 45 + 4 * 2 ^ 5 + 2))
      rings := (s.core.rings.set 2 ⟨true, 0, 0, true, 0, 3, 0, 0x10, 0, 2, 2, 0, 2, [], [], 0, 2, none⟩).set 3 ⟨true, 0, 0, false, 1, 3, 0, 0x20, 0, 2, 2, 0, 2, [], [], 0, 2, none⟩ }
    cl := { s.cl with engines := (s.cl.engines.set 0 ⟨0, 0, 0, 0x1F, none⟩).set 1 ⟨0, 0, 0, 0x1F, none⟩ } }
/-- A shape register set 0, and a copy pattern 0, from their fields in order. -/
def shape (l : List Nat) (c : Ctx) : Ctx := { c with h := c.h.set 0 (Vector.ofFn fun i => BitVec.ofNat 32 (l.getD i.val 0)) }
def pattern (l : List Nat) (c : Ctx) : Ctx := { c with g := c.g.set 0 (Vector.ofFn fun i => BitVec.ofNat 32 (l.getD i.val 0)) }
/-! ### Well-formedness: a term that each check refuses (R43, R44, R50, R75, R81, R98, R104, R153, R154, R163, R355) -/

/-- LOOP with a displacement of 0 (R90); a system register that no chapter assigns (R75); fields that leave the 64 bits (R81). -/
theorem test_wf_control : (Instr.loop 0 1 0).wellFormed = false ∧ (Instr.loop 0 1 1).wellFormed = true ∧
    (Instr.mfs ⟨false, 0, 1, 0x7FF⟩).wellFormed = false ∧ (Instr.mts ⟨false, 0, 1, 0x017⟩).wellFormed = false ∧
    (Instr.extr ⟨false, 0, 1, 1, 40, 24⟩).wellFormed = false ∧ (Instr.extr ⟨false, 0, 1, 1, 40, 23⟩).wellFormed = true ∧
    (Instr.extrs ⟨false, 0, 1, 1, 63, 1⟩).wellFormed = false ∧ (Instr.insr ⟨false, 0, 1, 1, 63, 1⟩).wellFormed = false := by decide

/-- Sign extension of an 8-byte load (R98, R99); an ALD that releases, an AST that acquires (R104). -/
theorem test_wf_memory : (Instr.ld ⟨false, 0, 1, 1, 3, true, 0⟩).wellFormed = false ∧
    (Instr.ldx ⟨false, 0, 1, 1, 2, 0, true, 3⟩).wellFormed = false ∧ (Instr.ld ⟨false, 0, 1, 1, 2, true, 0⟩).wellFormed = true ∧
    (Instr.ald false 0 1 1 .rel false).wellFormed = false ∧ (Instr.ast false 0 1 1 .acq false).wellFormed = false := by decide

/-- TWAIT without rows takes no row count (R233). -/
theorem test_wf_twait : (Instr.twait 0 1 3 false).wellFormed = false ∧ (Instr.twait 0 1 3 true).wellFormed = true := by decide

/-- The lane types of the vector families (R153, R154, R163). -/
theorem test_wf_types : (Instr.vadd ⟨false, 0, 1, 1, 1, .b8⟩).wellFormed = false ∧ (Instr.vdiv ⟨false, 0, 1, 1, 1, .i32⟩).wellFormed = false ∧
    (Instr.vsqrt ⟨false, 0, 1, 1, .n64⟩).wellFormed = false ∧ (Instr.vneg ⟨false, 0, 1, 1, .n8⟩).wellFormed = false ∧
    (Instr.vmulh ⟨false, 0, 1, 1, 1, .f32⟩).wellFormed = false ∧ (Instr.vshl ⟨false, 0, 1, 1, 1, .f16⟩).wellFormed = false ∧
    (Instr.vcmp ⟨false, 0, 1, 1, 1, .i32, .unord⟩).wellFormed = false ∧ (Instr.vcmp ⟨false, 0, 1, 1, 1, .e4m3, .eq⟩).wellFormed = false ∧
    (Instr.vperm ⟨false, 0, 1, 1, 1, .e2m1⟩).wellFormed = false ∧ (Instr.vbcast ⟨false, 0, 1, 1, .e2m1⟩ 0).wellFormed = false ∧
    (Instr.vslide ⟨false, 0, 1, 1, .e2m1⟩ true 0).wellFormed = false ∧ (Instr.vslide ⟨false, 0, 1, 1, .n8⟩ true 10).wellFormed = false ∧
    (Instr.viota false 0 1 .f32).wellFormed = false ∧ (Instr.vclmul ⟨false, 0, 1, 1, 1, .n32⟩).wellFormed = false ∧
    (Instr.vcvt ⟨false, 0, 1, 1, false, .f32, .b8, .rne⟩).wellFormed = false ∧
    (Instr.vcvt ⟨false, 0, 1, 1, false, .b8, .f32, .rne⟩).wellFormed = false ∧ (Instr.vmovi false 0 1 0 .bf16).wellFormed = false := by decide

/-- The packets of the fabric (R343, R355) and the record of a sub-launch (R294). -/
theorem test_wf_packets : (Instr.remoteReadRequest ⟨unit0, 1, 1, 1, 0, 993, false, false, 0⟩).wellFormed = false ∧
    (Instr.copyRowSegment ⟨unit0, true, 1, 1, 1, 0, [], none, true, 0⟩).wellFormed = false ∧
    (Instr.pavaneOutput ⟨1, 0, 0, 0, [], true⟩).wellFormed = false ∧ (Instr.sublaunchCreate ⟨0, none, 1, 1, 1, []⟩).wellFormed = false ∧
    (Instr.portMessageArrive ⟨unit0, 1, 0, 0, []⟩).wellFormed = false ∧ (Instr.portMessageArrive ⟨unit0, 1, 0, 0, [5]⟩).wellFormed = true ∧
    (Instr.portCredit 0 0 65).wellFormed = false := by decide

/-! ### Words of the spec's own tables, decoded (R70 to R190, R191, R216, R235, R326, R362 and the chapters that follow) -/

/-- XSYS, X arithmetic, fields and constants (R50, R70, R77, R78, R81, R82, R83). -/
theorem test_decode_x :
    decodeAny 0x00000000 = some (.nop 0) ∧ decodeAny 0x00000006 = some (.yield 0) ∧ decodeAny 0x00000008 = some (.done 0) ∧
    decodeAny 0x00000005 = some (.eret 0) ∧ decodeAny 0x04040010 = some (.mfs ⟨false, 0, 4, 0x010⟩) ∧
    decodeAny 0x0C021040 = some (.add ⟨false, 0, 2, 2, 1⟩) ∧ decodeAny 0x0C0A5187 = some (.shl ⟨false, 0, 10, 10, 6⟩) ∧
    decodeAny 0x0C722000 = some (.add ⟨false, 3, 18, 4, 0⟩) ∧ decodeAny 0x10030840 = some (.mul ⟨false, 0, 3, 1, 1⟩) ∧
    decodeAny 0x1807310B = some (.extr ⟨false, 0, 7, 6, 8, 11⟩) ∧ decodeAny 0x18094FC0 = some (.extr ⟨false, 0, 9, 9, 62, 0⟩) ∧
    decodeAny 0x24010FFF = some (.addi ⟨false, 0, 1, 1, 0x7FF⟩) ∧ decodeAny 0x34011005 = some (.shli ⟨false, 0, 1, 2, 5⟩) ∧
    decodeAny 0x3801000A = some (.movi ⟨false, 0, 1, 10⟩) := by decide +kernel

/-- Compares, transfers, loops and moves (R84, R87, R90, R91, R93), the fabric and Pavane words (R326, R359). -/
theorem test_decode_control :
    decodeAny 0x40022142 = some (.cmp ⟨false, 0, 2, 4, 5, .lt⟩) ∧ decodeAny 0x44044200 = some (.cmpi ⟨0, 1, .ne, 1, 0⟩) ∧
    decodeAny 0x507FFFFD = some (.br 1 0x3FFFFD) ∧ decodeAny 0x5C020003 = some (.loop 0 1 3) ∧
    decodeAny 0x60030801 = some (.xmov ⟨false, 0, 1, .m 3⟩) ∧ decodeAny 0x60164003 = some (.xmov ⟨false, 0, 8, .vb 22⟩) ∧
    decodeAny 0x68015803 = some (.hset ⟨false, 0, 1, 11, .apitch⟩) ∧ decodeAny 0x6C000007 = some (.gset ⟨false, 0, 0, 0, .opt⟩) ∧
    decodeAny 0x70003804 = some (.qmark ⟨false, 0, 7⟩) ∧ decodeAny 0x70005001 = some (.jset ⟨false, 0, 10⟩) ∧
    decodeAny 0x74003000 = some (.pvpost ⟨false, 0, 6⟩) ∧ decodeAny 0x74204001 = some (.pvstash ⟨false, 1, 8⟩) ∧
    decodeAny 0x74005002 = some (.pvtake ⟨false, 0, 10⟩) ∧ decodeAny 0x74080043 = some (.pvbub false 0 8 .dest) ∧
    decodeAny 0x740A0004 = some (.pvstat false 0 10) := by decide +kernel

/-- Memory words (R98 to R110). -/
theorem test_decode_memory :
    decodeAny 0x80020E01 = some (.ld ⟨false, 0, 2, 1, 3, false, 1⟩) ∧ decodeAny 0x84020E04 = some (.st ⟨false, 0, 2, 1, 3, 4⟩) ∧
    decodeAny 0x880208D6 = some (.ldx ⟨false, 0, 2, 1, 3, 2, true, 2⟩) ∧ decodeAny 0x94010840 = some (.yaddi ⟨false, 0, 1, 1, 64⟩) ∧
    decodeAny 0x9C003997 = some (.ast false 0 7 6 .rel true) ∧ decodeAny 0x9C05380E = some (.ald false 0 5 7 .acq true) ∧
    decodeAny 0x9C2009D7 = some (.ast false 1 1 7 .rel true) ∧ decodeAny 0xA0000080 = some (.phase 0 .die) ∧
    decodeAny 0xA0000040 = some (.phase 0 .cluster) ∧ decodeAny 0xA0000100 = some (.phase 0 .fabric) ∧
    decodeAny 0xA0000001 = some (.fence 0 .eng) ∧ decodeAny 0xA4051800 = some (.ymov ⟨false, 0, 3, .file 5⟩) ∧
    decodeAny 0xA8031000 = some (.vld ⟨false, 0, 3, 2, 0⟩) ∧ decodeAny 0xA8112801 = some (.vst ⟨false, 0, 17, 5, 0⟩) ∧
    decodeAny 0xA8041194 = some (.vgath ⟨false, 0, 4, 2, 2⟩ 6) := by decide +kernel

/-- Tile, copy and scale words (R169, R190, R216, R228). -/
theorem test_decode_engines :
    decodeAny 0xB0048800 = some (.mma ⟨0, 1, 2, 0, true⟩ .bf16) ∧ decodeAny 0xB015A900 = some (.mma ⟨0, 5, 6, 2, true⟩ .e4m3) ∧
    decodeAny 0xB00D1380 = some (.mma ⟨0, 3, 4, 1, false⟩ .i8) ∧ decodeAny 0xB4040000 = some (.tzero 0 1) ∧
    decodeAny 0xB404D802 = some (.tstore ⟨0, 1, 3, 1, true⟩) ∧ decodeAny 0xB40D1384 = some (.tadd ⟨0, 3, 4, 1, false⟩ true) ∧
    decodeAny 0xB404D006 = some (.twait 0 1 3 true) ∧ decodeAny 0xB4000007 = some (.tfence 0) ∧
    decodeAny 0xB8048000 = some (.cpyMm ⟨0, 1, 2, 0, 0⟩) ∧ decodeAny 0xB8048010 = some (.cpyMr ⟨0, 1, 2, 0, 0⟩) ∧
    decodeAny 0xB8158302 = some (.subs ⟨0, 5, 6, 0, 3⟩) ∧ decodeAny 0xB80C0015 = some (.cwaitWm 0 3 0) ∧
    decodeAny 0xBC081002 = some (.sld 0 4 1 2) ∧ decodeAny 0xBC0A047F = some (.ssetB 0 5 0x7F) := by decide +kernel

/-- Vector words (R152 to R167) and the empty bundle (R37). -/
theorem test_decode_vector :
    decodeAny 0xC0038158 = some (.vadd ⟨false, 0, 1, 24, 2, .f32⟩) ∧ decodeAny 0xC08C7453 = some (.vfma ⟨false, 2, 6, 7, 8, .bf16⟩) ∧
    decodeAny 0xC8078001 = some (.vor ⟨false, 0, 3, 24, 0, .b8⟩) ∧ decodeAny 0xCC038490 = some (.vcmp ⟨false, 0, 1, 24, 9, .n8, .eq⟩) ∧
    decodeAny 0xCC024055 = some (.vcmp ⟨false, 0, 1, 4, 0, .bf16, .gt⟩) ∧ decodeAny 0xD00E5041 = some (.vslide ⟨false, 0, 7, 5, .n64⟩ false 0) ∧
    decodeAny 0xD028C910 = some (.vperm ⟨false, 0, 20, 12, 18, .n8⟩) ∧ decodeAny 0xD0E90014 = some (.vcmpr ⟨false, 3, 20, 16, .n8⟩) ∧
    decodeAny 0xD4488006 = some (.vmsb ⟨false, 1, 4, 8, .b8⟩) ∧ decodeAny 0xD40A4440 = some (.vclmul ⟨false, 0, 5, 4, 8, .n64⟩) ∧
    decodeAny 0xD44E3055 = some (.vsel ⟨false, 1, 7, 3, 0, .bf16⟩) ∧ decodeAny 0xDC062E5C = some (.vcvt ⟨false, 0, 3, 2, true, .e4m3, .f32, .sr⟩) ∧
    decodeAny 0xE42A3195 = some (.kpopc false 21 3 3 .n8) ∧ decodeAny 0xE8121110 = some (.vmovi false 0 9 0x22 .n8) ∧
    decodeAny 0xEC0850C0 = some (.vext false 5 1 (.x 4)) ∧ decodeAny 0xFC010000 = some (.bnop false true) := by decide +kernel

/-! ### One step on a small state: the X slot (R78 to R93) -/

theorem test_xalu :
    ran (.add r3) (x12 0xFFFFFFFFFFFFFFFF 1) (lx 3 0 1) = true ∧ ran (.sub r3) (x12 0 1) (lx 3 0xFFFFFFFFFFFFFFFF 1) = true ∧
    ran (.and r3) (x12 0xC 0xA) (lx 3 8 1) = true ∧ ran (.or r3) (x12 0xC 0xA) (lx 3 0xE 1) = true ∧ ran (.xor r3) (x12 0xC 0xA) (lx 3 6 1) = true ∧
    ran (.andn r3) (x12 0xC 0xA) (lx 3 4 1) = true ∧ ran (.orn r3) (x12 0xC 0xA) (lx 3 0xFFFFFFFFFFFFFFFD 1) = true := by decide +kernel
/-- Shift amounts use six bits: a shift by 64 shifts by 0 (R78). ABSD never wraps: the example of R78. -/
theorem test_xalu_shifts :
    ran (.shl r3) (x12 3 64) (lx 3 3 1) = true ∧ ran (.shl r3) (x12 3 63) (lx 3 0x8000000000000000 1) = true ∧
    ran (.shr r3) (x12 0x8000000000000000 63) (lx 3 1 1) = true ∧ ran (.sra r3) (x12 0x8000000000000000 63) (lx 3 0xFFFFFFFFFFFFFFFF 1) = true ∧
    ran (.rotl r3) (x12 0x8000000000000001 1) (lx 3 3 1) = true ∧ ran (.min r3) (x12 0xFFFFFFFFFFFFFFFF 1) (lx 3 0xFFFFFFFFFFFFFFFF 1) = true ∧
    ran (.max r3) (x12 0xFFFFFFFFFFFFFFFF 1) (lx 3 1 1) = true ∧ ran (.minn r3) (x12 0xFFFFFFFFFFFFFFFF 1) (lx 3 1 1) = true ∧
    ran (.maxn r3) (x12 0xFFFFFFFFFFFFFFFF 1) (lx 3 0xFFFFFFFFFFFFFFFF 1) = true ∧
    ran (.absd r3) (x12 0x8000000000000000 0x7FFFFFFFFFFFFFFF) (lx 3 0xFFFFFFFFFFFFFFFF 1) = true := by decide +kernel
/-- The corners of R79. -/
theorem test_xmul :
    ran (.mul r3) (x12 0x100000001 0x100000001) (lx 3 0x200000001 3) = true ∧ ran (.mulh r3) (x12 0xFFFFFFFFFFFFFFFF 2) (lx 3 0xFFFFFFFFFFFFFFFF 3) = true ∧
    ran (.mulhn r3) (x12 0xFFFFFFFFFFFFFFFF 2) (lx 3 1 3) = true ∧
    ran (.div r3) (x12 0x8000000000000000 0xFFFFFFFFFFFFFFFF) (lx 3 0x8000000000000000 18) = true ∧
    ran (.rem r3) (x12 0x8000000000000000 0xFFFFFFFFFFFFFFFF) (lx 3 0 18) = true ∧ ran (.div r3) (x12 7 0) (lx 3 0xFFFFFFFFFFFFFFFF 18) = true ∧
    ran (.rem r3) (x12 0xFFFFFFFFFFFFFFF9 2) (lx 3 0xFFFFFFFFFFFFFFFF 18) = true ∧ ran (.divn r3) (x12 0xFFFFFFFFFFFFFFFF 2) (lx 3 0x7FFFFFFFFFFFFFFF 18) = true ∧
    ran (.remn r3) (x12 7 0) (lx 3 7 18) = true := by decide +kernel
theorem test_xbit :
    ran (.clz r2) (x12 0 0) (lx 3 64 1) = true ∧ ran (.clz r2) (x12 1 0) (lx 3 63 1) = true ∧ ran (.ctz r2) (x12 0 0) (lx 3 64 1) = true ∧
    ran (.ctz r2) (x12 0x8000000000000000 0) (lx 3 63 1) = true ∧ ran (.popc r2) (x12 0xFF01 0) (lx 3 9 1) = true ∧
    ran (.brev r2) (x12 1 0) (lx 3 0x8000000000000000 1) = true ∧ ran (.bswap r2) (x12 0x0102030405060708 0) (lx 3 0x0807060504030201 1) = true ∧
    ran (.sextb r2) (x12 0x180 0) (lx 3 0xFFFFFFFFFFFFFF80 1) = true ∧ ran (.sexth r2) (x12 0x18000 0) (lx 3 0xFFFFFFFFFFFF8000 1) = true ∧
    ran (.sextw r2) (x12 0x180000000 0) (lx 3 0xFFFFFFFF80000000 1) = true ∧ ran (.zextw r2) (x12 0x180000000 0) (lx 3 0x80000000 1) = true := by decide +kernel
/-- The example of R81. -/
theorem test_fields :
    ran (.extr ⟨false, 0, 7, 6, 8, 11⟩) (on (xs [(6, 0xABCDEF)])) (lx 7 0xBCD 1) = true ∧
    ran (.extrs ⟨false, 0, 7, 6, 8, 11⟩) (on (xs [(6, 0xABCDEF)])) (lx 7 0xFFFFFFFFFFFFFBCD 1) = true ∧
    ran (.insr ⟨false, 0, 6, 0, 8, 11⟩) (on (xs [(6, 0xABCDEF)])) (lx 6 0xA000EF 1) = true := by decide +kernel
theorem test_immediates :
    ran (.addi ⟨false, 0, 1, 1, 0x7FF⟩) (x12 0 0) (lx 1 0xFFFFFFFFFFFFFFFF 1) = true ∧ ran (.andi ⟨false, 0, 1, 1, 0x7FE⟩) (x12 3 0) (lx 1 2 1) = true ∧
    ran (.ori ⟨false, 0, 1, 1, 0x400⟩) (x12 1 0) (lx 1 0xFFFFFFFFFFFFFC01 1) = true ∧ ran (.xori ⟨false, 0, 1, 1, 0x7FF⟩) (x12 5 0) (lx 1 0xFFFFFFFFFFFFFFFA 1) = true ∧
    ran (.shli ⟨false, 0, 3, 1, 5⟩) (x12 3 0) (lx 3 96 1) = true ∧ ran (.shri ⟨false, 0, 3, 1, 5⟩) (x12 96 0) (lx 3 3 1) = true ∧
    ran (.srai ⟨false, 0, 3, 1, 63⟩) (x12 0x8000000000000000 0) (lx 3 0xFFFFFFFFFFFFFFFF 1) = true ∧ ran (.rotli ⟨false, 0, 3, 1, 0⟩) (x12 9 0) (lx 3 9 1) = true ∧
    ran (.movi ⟨false, 0, 1, 0xFFFF⟩) base (lx 1 0xFFFFFFFFFFFFFFFF 1) = true ∧ ran (.movsh ⟨false, 0, 1, 0x8001⟩) (x12 0xFFFF000000000001 0) (lx 1 0x18001 1) = true := by decide +kernel
theorem test_predicates :
    ran (.cmp ⟨false, 0, 2, 1, 2, .lt⟩) (x12 0xFFFFFFFFFFFFFFFF 1) (lp 2 true) = true ∧ ran (.cmp ⟨false, 0, 2, 1, 2, .ltn⟩) (x12 0xFFFFFFFFFFFFFFFF 1) (lp 2 false) = true ∧
    ran (.cmpi ⟨0, 1, .ge, 1, 0x1FF⟩) (x12 0xFFFFFFFFFFFFFFFF 0) (lp 1 true) = true ∧ ran (.cmpi ⟨0, 1, .le, 1, 0x1FE⟩) (x12 0xFFFFFFFFFFFFFFFF 0) (lp 1 false) = true ∧
    ran (.pand ⟨0, 3, 1, 2⟩) (on (ps [1])) (lp 3 false) = true ∧ ran (.por ⟨0, 3, 1, 2⟩) (on (ps [1])) (lp 3 true) = true ∧
    ran (.pxor ⟨0, 3, 1, 0⟩) (on (ps [1])) (lp 3 false) = true ∧ ran (.pandn ⟨0, 3, 1, 2⟩) (on (ps [1])) (lp 3 true) = true ∧
    ran (.pnot ⟨0, 3, 1⟩) (on (ps [1])) (lp 3 false) = true ∧ ran (.pmov ⟨0, 3, 1⟩) (on (ps [1])) (lp 3 true) = true ∧
    ran (.sel ⟨false, 0, 3, 1, 2, 1⟩) (x12 5 6) (lx 3 6 1) = true ∧ ran (.sel ⟨false, 0, 3, 1, 2, 0⟩) (x12 5 6) (lx 3 5 1) = true := by decide +kernel
/-- A false guard: nothing (R45). x0 reads zero; a rebased register (R46); the handler bank (R65). -/
theorem test_operand_forms :
    idle (.add ⟨false, 1, 3, 1, 2⟩) (x12 5 6) = true ∧ ran (.add ⟨false, 0, 3, 1, 0⟩) (x12 5 6) (lx 3 5 1) = true ∧
    ran (.add ⟨true, 0, 3, 31, 1⟩) (on fun c => { xs [(1, 5), (3, 9)] c with xb := 2 }) (lx 5 14 1) = true ∧
    ran (.add ⟨false, 0, 26, 31, 1⟩) (on fun c => hmode (xs [(1, 5), (31, 100), (37, 9)] c))
      (fun t => (t.ctx 0).hpend.getLast?.map (·.w) == some (.x 32 14)) = true := by decide +kernel
/-- The BR example of R87, and the LOOP example of R90: `last` is at byte 32. -/
theorem test_transfers :
    ran (.br 0 0x3FFFFD) { base with issue := ⟨20, 24, 20, 0, 0, true, 0⟩ } (fun t => (t.ctx 0).xfer == some ⟨8, false⟩) = true ∧
    ran (.call 0 2) ({ on portable with issue := ⟨20, 24, 20, 0, 0, true, 0⟩ }) (fun t => (t.ctx 0).xfer == some ⟨28, false⟩ && lx 31 24 1 t) = true ∧
    ran (.jmpr ⟨false, 0, 1⟩) (x12 0x1003 0) (fun t => (t.ctx 0).xfer == some ⟨0x1000, false⟩) = true ∧
    ran (.ret ⟨false, 0, 1⟩) (x12 0x1003 0) (fun t => (t.ctx 0).xfer == some ⟨0x1000, true⟩) = true ∧
    ran (.callr ⟨false, 0, 3, 1⟩) ({ on (portable ∘ xs [(1, 0x1000)]) with issue := ⟨20, 24, 20, 0, 0, true, 0⟩ })
      (fun t => (t.ctx 0).xfer == some ⟨0x1000, false⟩ && lx 3 24 1 t) = true ∧
    ran (.loop 0 1 3) ({ x12 4 0 with issue := ⟨16, 24, 20, 0, 0, false, 0⟩ }) (fun t => (t.ctx 0).loops.get 0 == ⟨true, 24, 32, 4⟩) = true := by decide +kernel
theorem test_moves_and_bases :
    ran (.xmov ⟨false, 0, 1, .file 3⟩) (x12 7 0) (ly 3 7 2) = true ∧ ran (.xmov ⟨false, 0, 1, .m 3⟩) (x12 7 0) (fun t => flight t == some (2, .m 3 7)) = true ∧
    ran (.xmov ⟨false, 0, 1, .vl 3 31⟩) (x12 7 0)
      (fun t => flight t == some (2, .v 3 (BitVec.ofNat 2048 (0xFFFFFFFFFFFFFFFF * 2 ^ 1984)) (BitVec.ofNat 2048 (7 * 2 ^ 1984)))) = true ∧
    ran (.setib ⟨false, 0, .cb, 1, 0x7FF⟩) (x12 17 0) (fun t => flight t == some (3, .base .cb 16)) = true ∧
    ran (.hset ⟨false, 0, 1, 1, .apitch⟩) (x12 0x100000005 0) (fun t => flight t == some (1, .shape 1 .apitch 5)) = true ∧
    ran (.gset ⟨false, 0, 6, 1, .n2⟩) (x12 9 0) (fun t => flight t == some (1, .pattern 6 .n2 9)) = true := by decide +kernel

/-! ### Control and system (R66, R71 to R77) -/

/-- A trap enters at TRAP_VEC in its code mode, with the record of R62. -/
theorem test_traps :
    ran (.svc 0 0x41) base (fun t => let c := t.ctx 0
      c.hm && c.pc == 0x8100000800 && c.nat && c.trapCause == 0x410008 && t.verdict == .trapped) = true ∧
    ran (.brk 0 1) base (fun t => (t.ctx 0).trapCause == 0x10006) = true ∧ ran (.trap 0 2) base (fun t => (t.ctx 0).trapCause == 0x20007) = true ∧
    ran (.hcall 0 3) base (fun t => (t.ctx 0).svcHeld && t.core.irq && (t.ctx 0).trapCause == 0x30009 && !(t.ctx 0).hm) = true ∧
    ran (.eret 0) base (fun t => (t.ctx 0).hm && (t.ctx 0).trapCause == 4) = true := by decide +kernel
theorem test_eret : ran (.eret 0) (on fun c => { hmode c with trapPc := 0x8100000010 }) (fun t => !(t.ctx 0).hm && (t.ctx 0).pc == 0x8100000010 && !(t.ctx 0).nat) = true := by
  decide +kernel
theorem test_system :
    idle (.nop 0) base = true ∧ idle (.bnop true true) base = true ∧
    ran (.mfs ⟨false, 0, 4, 0x011⟩) (on fun c => { c with ccyc := 77 }) (lx 4 77 2) = true ∧
    ran (.mts ⟨false, 0, 1, 0x010⟩) (x12 0x3F 0) (fun t => flight t == some (1, .fflags 0x1F)) = true ∧
    ran (.mfs ⟨false, 0, 4, 0x01D⟩) base (fun t => (t.ctx 0).hm && (t.ctx 0).trapCause == 0x1D0004) = true := by decide +kernel
/-- A close with nothing outstanding ends at once: PHASE unseals; YIELD starts the next iteration; DONE and SUSP free the context. -/
theorem test_closes :
    ran (.phase 0 .core) (on fun c => { c with sealed := true }) (fun t => !(t.ctx 0).sealed && (t.ctx 0).waits.isEmpty) = true ∧
    ran (.done 0) base (fun t => (t.ctx 0).strand.isNone || !(t.ctx 0).waits.isEmpty) = true := by decide +kernel

/-! ### Memory words (R94 to R111) -/

/-- A load from the home (R95), little-endian; sign extension is named in the result. -/
theorem test_loads :
    ran (.ld ⟨false, 0, 2, 1, 3, false, 1⟩) (withMem (on (ys [(1, 8)])) 0x20010 [1, 2, 3, 4, 5, 6, 7, 8]) (ld 2 0x0807060504030201 8 false 6) = true ∧
    ran (.ldx ⟨false, 0, 2, 1, 3, 2, true, 2⟩) (withMem (on (ys [(1, 0x1E), (3, 0)])) 0x2001E [1, 2, 3, 4]) (ld 2 0x04030201 4 true 6) = true := by decide +kernel
/-- A store enters the phase buffer, which a load sees first (R95, R96); memory is unchanged. -/
theorem test_stores :
    ran (.st ⟨false, 0, 2, 1, 3, 4⟩) (on (ys [(1, 0), (2, 0x1122)]))
      (fun t => (t.ctx 0).buf == [(1, ⟨0xFF, 0x1122, false⟩)] && decide (t.dm.mem = base.dm.mem)) = true ∧
    ran (.stx ⟨false, 0, 2, 1, 3, 3, 0⟩) (on (ys [(1, 0), (2, 0x1122), (3, 4)])) (fun t => (t.ctx 0).buf == [(1, ⟨1, 0x22, false⟩)]) = true := by decide +kernel
theorem test_yalu :
    ran (.yadd ⟨false, 0, 3, 1, 2⟩) (on (ys [(1, 5), (2, 7)])) (ly 3 12 1) = true ∧ ran (.ysub ⟨false, 0, 3, 1, 2⟩) (on (ys [(1, 5), (2, 7)])) (ly 3 0xFFFFFFFFFFFFFFFE 1) = true ∧
    ran (.yshl ⟨false, 0, 3, 1, 2⟩) (on (ys [(1, 5), (2, 65)])) (ly 3 10 1) = true ∧ ran (.yshr ⟨false, 0, 3, 1, 2⟩) (on (ys [(1, 5), (2, 1)])) (ly 3 2 1) = true ∧
    ran (.yand ⟨false, 0, 3, 1, 2⟩) (on (ys [(1, 5), (2, 6)])) (ly 3 4 1) = true ∧ ran (.yaddi ⟨false, 0, 1, 1, 64⟩) (on (ys [(1, 5)])) (ly 1 69 1) = true ∧
    ran (.ymov ⟨false, 0, 3, .file 5⟩) (on (ys [(3, 9)])) (lx 5 9 2) = true := by decide +kernel
/-- Atomics at the home (R102): the old value returns, the new one stands in memory. -/
theorem test_atomics :
    ran (.atom ⟨false, 0, 3, 1, 2, .plain, false⟩ .min) (withMem (on (ys [(1, 16), (2, 0xFFFFFFFF)])) 0x20010 [5, 0, 0, 0])
      (fun t => ld 3 5 4 false 6 t && memAt t 0x20010 4 == [255, 255, 255, 255] && (t.ctx 0).sealed) = true ∧
    ran (.aswp ⟨false, 0, 3, 1, 2, .plain, true⟩) (withMem (on (ys [(1, 16), (2, 0x0102)])) 0x20010 [5])
      (fun t => ld 3 5 8 false 6 t && memAt t 0x20010 3 == [2, 1, 0]) = true ∧
    ran (.acas ⟨false, 0, 3, 1, 2, .plain, false⟩) (withMem (on (ys [(1, 16), (2, 9), (3, 4)])) 0x20010 [5]) (fun t => ld 3 5 4 false 6 t && memAt t 0x20010 1 == [5]) = true ∧
    ran (.acas ⟨false, 0, 3, 1, 2, .plain, false⟩) (withMem (on (ys [(1, 16), (2, 9), (3, 5)])) 0x20010 [5]) (fun t => memAt t 0x20010 1 == [9]) = true ∧
    ran (.ald false 0 5 1 .plain true) (withMem (on (ys [(1, 16)])) 0x20010 [5, 6]) (ld 5 0x0605 8 false 6) = true ∧
    ran (.ast false 0 1 2 .rel true) (withMem (on (ys [(1, 16), (2, 7)])) 0x20010 [5]) (fun t => memAt t 0x20010 1 == [7]) = true := by decide +kernel
/-- A close publishes the buffer at its scope (R106): core scope in L1, die scope at the home. -/
theorem test_phase :
    ran (.phase 0 .die) (on fun c => { c with buf := [(0, ⟨1, 0x77, false⟩)], sealed := true }) (fun t => memAt t 0x20000 2 == [0x77, 0] && (t.ctx 0).buf.isEmpty && !(t.ctx 0).sealed) = true ∧
    ran (.phase 0 .core) (on fun c => { c with buf := [(0, ⟨1, 0x77, false⟩)] }) (fun t => memAt t 0x20000 1 == [0] && t.core.l1.length == 1) = true := by decide +kernel
theorem test_hints :
    ran (.fence 0 .eng) base (fun t => (t.ctx 0).waits == [.fence .eng]) = true ∧
    ran (.pref ⟨false, 0, 1⟩ .l2) base (fun t => t.cl.l2.length == 8 && t.core.l1.isEmpty) = true ∧ idle (.pref ⟨false, 0, 1⟩ .ms) base = true ∧
    ran (.flsh ⟨false, 0, 1⟩) { base with core := { base.core with l1 := [(3 * 2 ^ 59, ⟨0x55, 1, 1, 0, 1, 1, false⟩)] } }
      (fun t => memAt t 0x20000 1 == [0x55] && t.core.l1.isEmpty) = true ∧
    ran (.invl ⟨false, 0, 1⟩ false) { base with core := { base.core with l1 := [(3 * 2 ^ 59, ⟨0x55, 1, 0, 0, 1, 1, false⟩)] } } (fun t => t.core.l1.isEmpty) = true := by
  decide +kernel
/-- The example of R110: four enabled elements at stride 16 from 0x40100; here the page is page 0. -/
theorem test_vector_memory :
    ran (.vlds ⟨false, 0, 3, 2, 1⟩ 3) (withMem (on fun c => ys [(2, 0x102), (3, 0x10)] { c with k := c.k.set 1 0xF }) 0x20110 [7])
      (fun t => vres t == some (8, 3, lanes 32 [0xFFFFFFFF, 0xFFFFFFFF, 0xFFFFFFFF, 0xFFFFFFFF], lanes 32 [0, 7])) = true ∧
    ran (.vld ⟨false, 0, 3, 2, 1⟩) (withMem (on fun c => ys [(2, 0x102)] { c with k := c.k.set 1 2 }) 0x20104 [7]) (fun t => vres t == some (8, 3, lanes 32 [0, 0xFFFFFFFF], lanes 32 [0, 7])) = true ∧
    ran (.vgath ⟨false, 0, 3, 2, 1⟩ 1) (withMem (on fun c => ys [(2, 0x100)] (vs [(1, lanes 32 [0xFFFFFFFC])] { c with k := c.k.set 1 1 })) 0x200FC [7])
      (fun t => vres t == some (12, 3, lanes 32 [0xFFFFFFFF], lanes 32 [7])) = true ∧
    ran (.vst ⟨false, 0, 1, 2, 1⟩) (on fun c => ys [(2, 0x20)] (vs [(1, lanes 32 [1, 2])] { c with k := c.k.set 1 2 })) (fun t => (t.ctx 0).buf == [(1, ⟨0xF0, 2 * 2 ^ 32, false⟩)]) = true ∧
    ran (.vsts ⟨false, 0, 1, 2, 1⟩ 3) (on fun c => ys [(2, 0x20), (3, 8)] (vs [(1, lanes 32 [1, 2])] { c with k := c.k.set 1 2 })) (fun t => (t.ctx 0).buf == [(1, ⟨0xF00, 2 * 2 ^ 64, false⟩)]) = true ∧
    ran (.vscat ⟨false, 0, 1, 2, 1⟩ 4) (on fun c => ys [(2, 0x20)] (vs [(1, lanes 32 [1, 2]), (4, lanes 32 [0, 4])] { c with k := c.k.set 1 2 })) (fun t => (t.ctx 0).buf == [(1, ⟨0xF0, 2 * 2 ^ 32, false⟩)]) = true := by
  decide +kernel

/-! ### Tile, copy and scale words (R169 to R190, R216 to R233) -/

/-- A 4-byte aligned rectangle of 2 rows by 2 columns, pitch 8, in tile 9; `t` names the tile of R216. -/
def tileSt (t b : Nat) (l : List Nat) : State := eng (shape l ∘ ms [(1, BitVec.ofNat 64 (t * 256)), (2, BitVec.ofNat 64 b)])
def op1 : TileOp := ⟨0, 1, 2, 0, false⟩
/-- A forked operation and the watermark of its tile (R144, R222). -/
def forked (k : TileKind) (dst count : Nat) (t : State) : Bool :=
  t.core.ops.any fun o => o.kind == k && o.dst == dst && o.count == count && (t.tileWm 0 dst).infl == 1 && (t.tileWm 0 dst).lastm == count

theorem test_tile_forks :
    ran (.tload op1) (tileSt 1 0x100 [2, 2, 0, 8]) (forked .load 9 2) = true ∧ ran (.tstore op1) (tileSt 1 0x100 [2, 2, 0, 8]) (forked .store 9 2) = true ∧
    ran (.tzero 0 1) (tileSt 1 0 []) (forked .zero 9 64) = true ∧ ran (.ttrp op1) (tileSt 1 0x200 [2, 3]) (forked .transpose 9 3) = true ∧
    ran (.tadd op1 true) (tileSt 1 0x200 [2, 3]) (forked .addI32 9 2) = true := by decide +kernel
/-- An MMA of M = N = 4, K = 4 in BF16 with A and B in ring 0 of the partition pops a slot for each operand (R217). -/
theorem test_mma : ran (.mma op1 .bf16) (tileSt 1 0x20 [4, 4, 4, 8, 8])
    (fun t => forked (.mma .bf16) 9 4 t && (t.ring 2).filled == 0 && (t.ring 2).held == 2) = true := by decide +kernel
/-- A tile outside the partition is SUB 6, a pitch below 4 × N SUB 5 (R218, R224). -/
theorem test_tile_errors :
    ran (.tload op1) (tileSt 4 0x100 [2, 2, 0, 8]) (fun t => (t.ctx 0).asyncs.map (fun a => (a.trap.cause, a.trap.sub)) == [(12, 6)]) = true ∧
    ran (.tload op1) (tileSt 1 0x100 [2, 2, 0, 4]) (fun t => (t.ctx 0).asyncs.map (fun a => (a.trap.cause, a.trap.sub)) == [(12, 5)]) = true := by decide +kernel
theorem test_tile_waits :
    ran (.twm 0 3 1) (tileSt 1 0 []) (fun t => flight t == some (2, .m 3 0)) = true ∧ ran (.twait 0 1 0 false) (tileSt 1 0 []) (fun t => (t.ctx 0).waits == [.tile 9 none]) = true ∧
    ran (.twait 0 1 2 true) (tileSt 1 127 []) (fun t => (t.ctx 0).waits == [.tile 9 (some 64)]) = true ∧
    ran (.tfence 0) (tileSt 1 0 []) (fun t => (t.ctx 0).waits == [.allTiles]) = true := by decide +kernel

def copySt (a b : Nat) (l : List Nat) : State := eng (pattern l ∘ cs [(1, BitVec.ofNat 64 a), (2, BitVec.ofNat 64 b)])
def cp : CopyOp := ⟨0, 1, 2, 0, 3⟩
def chanIs (o : ChanOp) (st : ChanState) (rows : Nat) (sld : Bool) (t : State) : Bool :=
  let x := t.chan 0 3
  x.op == o && x.state == st && x.rows == rows && x.complete == 0 && (t.ctx 0).sealed == sld
theorem test_copy_forks :
    ran (.cpyMm cp) (copySt 0 0x100 [64, 2, 3, 64, 128, 64, 128]) (chanIs .mm .running 6 true) = true ∧
    ran (.cpyMr cp) (copySt 0 0 [64, 2, 2, 64, 128]) (chanIs .mr .running 4 false) = true ∧
    ran (.cpyMs cp) (copySt 0 0x100 [64, 1, 1]) (chanIs .ms .running 1 false) = true ∧ ran (.cpySm cp) (copySt 0 0x100 [64, 1, 1]) (chanIs .sm .running 1 true) = true ∧
    ran (.cpyr cp .add32) (copySt 0 0x100 [64, 1, 1]) (chanIs (.red .add32) .running 1 true) = true ∧
    ran (.subs cp) (copySt 0 1 [64, 1, 4]) (chanIs .subs .standing 4 true) = true ∧
    ran (.drn cp) (copySt 0 0x100 [64, 4, 1, 0, 0, 64]) (fun t => chanIs .drn .running 4 true t && (t.chan 0 3).held == [(0, 0)] && (t.ring 2).filled == 1) = true ∧
    ran (.wload cp) (copySt 0 0x100 [256, 1, 1]) (chanIs .wload .running 1 false) = true ∧ ran (.wloadZb32 cp) (copySt 0 0x100 [256, 1, 1]) (chanIs .zb32 .running 1 false) = true := by
  decide +kernel
/-- A pattern with N1 = 0 is refused at the fork: kind 1, an asynchronous trap (R171, R185). -/
theorem test_copy_refused : ran (.cpyMm cp) (copySt 0 0 [64, 0, 1])
    (fun t => (t.chan 0 3).state == .stopped && (t.ctx 0).asyncs.map (fun a => (a.trap.cause, a.trap.sub)) == [(11, 1)]) = true := by decide +kernel
def chSt (x : Chan) (f : Ctx → Ctx) : State := eng fun c => f { c with chans := c.chans.set 3 x }
theorem test_channels :
    ran (.cwait 0 3) base (fun t => (t.ctx 0).waits == [.channel 3 none]) = true ∧ ran (.cwaitWm 0 1 3) (on (cs [(1, 9)])) (fun t => (t.ctx 0).waits == [.channel 3 (some 9)]) = true ∧
    ran (.cstat 0 1 3) (chSt { Chan.reset with state := .stopped, fault := 7, complete := 5, word := 0xB8048010 } id) (fun t => flight t == some (2, .c 1 0x501000702)) = true ∧
    ran (.cstatWm 0 1 3) (chSt { Chan.reset with wm := 77 } id) (fun t => flight t == some (2, .c 1 77)) = true ∧
    ran (.cfixRetry 0 3) (chSt { Chan.reset with state := .stopped, fault := 8 } hmode) (fun t => (t.chan 0 3).state == .running) = true ∧
    ran (.cfixSkip 0 3) (chSt { Chan.reset with state := .stopped, fault := 7, op := .mm } hmode) (fun t => (t.chan 0 3).state == .idle) = true ∧
    ran (.cfixPatch 0 1 3) (chSt { Chan.reset with state := .stopped, fault := 5 } (hmode ∘ cs [(1, 9)])) (fun t => (t.chan 0 3).patch == some 9) = true ∧
    ran (.cfixRetry 0 3) base (fun t => (t.ctx 0).hm && (t.ctx 0).trapCause % 256 == 4) = true ∧
    ran (.subsCancel 0 3) (chSt { Chan.reset with state := .standing, op := .subs } id) (fun t => (t.chan 0 3).state == .idle && (t.ctx 0).sealed) = true := by decide +kernel
/-- The word of R190's example, SSET.B; a byte shifted in; a window of 64 KiB read at its last 8 bytes, and past them. -/
theorem test_scales :
    ran (.ssetB 0 5 0x7F) base (fun t => flight t == some (1, .e 5 0x7F7F7F7F7F7F7F7F)) = true ∧ ran (.ssetSh 0 5 1 0x80) (on (es [(1, 0x0102030405060708)])) (fun t => flight t == some (1, .e 5 0x0203040506070880)) = true ∧
    ran (.smov 0 5 1) (on (es [(1, 9)])) (fun t => flight t == some (1, .e 5 9)) = true ∧
    ran (.sld 0 4 1 2) { eng (es [(1, 0xFFE8)]) with core := { (eng (es [(1, 0xFFE8)])).core with spad := [(0xFFF8, 7)] } } (fun t => flight t == some (5, .e 4 7)) = true ∧
    ran (.sld 0 4 1 3) (eng (es [(1, 0xFFE8)])) (fun t => flight t == some (5, .e 4 0xFFFFFFFFFFFFFFFF) && (t.ctx 0).asyncs.map (fun a => (a.trap.cause, a.trap.sub)) == [(12, 1)]) = true := by decide +kernel

/-! ### Vector words (R152 to R167) -/

/-- Integer lanes wrap; FP32: 1 + 2^−24 is a tie to even, with NX; a division by zero raises DZ, a root of −1 NV (R113, R115, R156). -/
theorem test_var1 :
    ran (.vadd (w3 .n8)) (v12 8 [255, 7] [1, 1]) (lv 3 8 [0, 8, 0]) = true ∧
    ran (.vadd (w3 .f32)) (v12 32 [0x3F800000] [0x33800000]) (fun t => lv 3 32 [0x3F800000] t && fl 1 t) = true ∧
    ran (.vsub (w3 .i16)) (v12 16 [0, 5] [1, 5]) (lv 3 16 [0xFFFF, 0]) = true ∧ ran (.vmul (w3 .n16)) (v12 16 [0x101] [0x101]) (lv 4 16 [0x201]) = true ∧
    ran (.vfma (w3 .i32)) (on (vs [(1, 3), (2, 4), (3, 5)])) (lv 4 32 [17]) = true ∧
    ran (.vfma (w3 .f32)) (on (vs [(1, 0x40000000), (2, 0x40400000), (3, 0x3F800000)])) (lv 4 32 [0x40E00000]) = true ∧
    ran (.vmin (w3 .i8)) (v12 8 [0x80, 1] [0x7F, 2]) (lv 3 8 [0x80, 1]) = true ∧ ran (.vmax (w3 .n8)) (v12 8 [0x80] [0x7F]) (lv 3 8 [0x80]) = true ∧
    ran (.vabsd (w3 .i8)) (v12 8 [0x80] [0x7F]) (lv 3 8 [0xFF]) = true := by decide +kernel
theorem test_var2 :
    ran (.vdiv (w3 .f32)) (v12 32 [0x3F800000] [0x40400000]) (fun t => lv 14 32 [0x3EAAAAAB] t) = true ∧
    ran (.vdiv ⟨false, 1, 3, 1, 2, .f32⟩) (on fun c => vs [(1, 0x3F800000)] { c with k := c.k.set 1 1 }) (fun t => lv 14 32 [0x7F800000] t && fl 8 t) = true ∧
    ran (.vsqrt (w2 .f32)) (v12 32 [0x40800000] []) (lv 16 32 [0x40000000, 0]) = true ∧ ran (.vsqrt (w2 .f32)) (v12 32 [0xBF800000] []) (fun t => lv 16 32 [0x7FC00000] t && fl 16 t) = true ∧
    ran (.vexp2 (w2 .f32)) (v12 32 [0x40400000] []) (lv 10 32 [0x41000000, 0x3F800000]) = true ∧
    ran (.vlog2 ⟨false, 1, 3, 1, .f32⟩) (on fun c => vs [(1, 0x41000000)] { c with k := c.k.set 1 1 }) (lv 10 32 [0x40400000]) = true ∧
    ran (.vneg (w2 .i8)) (v12 8 [0x80, 1] []) (lv 1 8 [0x80, 0xFF]) = true ∧ ran (.vabs (w2 .f32)) (v12 32 [0xBF800000] []) (lv 1 32 [0x3F800000]) = true ∧
    ran (.vscale (w3 .f32)) (v12 32 [0x3F800000] [3]) (lv 3 32 [0x41000000]) = true ∧ ran (.vmulh (w3 .i8)) (v12 8 [0x80] [0x80]) (lv 4 8 [64]) = true ∧
    ran (.vadds (w3 .i8)) (v12 8 [127, 0x80] [1, 0xFF]) (lv 3 8 [127, 0x80]) = true := by decide +kernel
theorem test_vlog :
    ran (.vand (w3 .b8)) (v12 8 [0xC] [0xA]) (lv 1 8 [8]) = true ∧ ran (.vor (w3 .b8)) (v12 8 [0xC] [0xA]) (lv 1 8 [0xE]) = true ∧ ran (.vxor (w3 .b8)) (v12 8 [0xC] [0xA]) (lv 1 8 [6]) = true ∧
    ran (.vandn (w3 .b8)) (v12 8 [0xC] [0xA]) (lv 1 8 [4]) = true ∧ ran (.vshl (w3 .n8)) (v12 8 [0x81] [9]) (lv 2 8 [2]) = true ∧ ran (.vshr (w3 .n16)) (v12 16 [0x8000] [15]) (lv 2 16 [1]) = true ∧
    ran (.vsra (w3 .i16)) (v12 16 [0x8000] [15]) (lv 2 16 [0xFFFF]) = true ∧ ran (.vrotl (w3 .n8)) (v12 8 [0x81] [1]) (lv 2 8 [3]) = true := by decide +kernel
/-- The example of R168: quotes at bytes 1, 5 and 70; VCMP makes their bitmap, VMSB packs it, VCLMUL with all ones marks the quoted bytes. -/
theorem test_quotes :
    ran (.vcmp ⟨false, 0, 1, 24, 9, .n8, .eq⟩) (on (vs [(9, lanes 8 (List.replicate 256 0x22))])) (fun t => (flight t).map (·.1) == some 2) = true ∧
    ran (.vmsb ⟨false, 1, 3, 1, .b8⟩) (on fun c => vs [(1, BitVec.allOnes 2048)] { c with k := c.k.set 1 (BitVec.ofNat 512 (0x22 + 2 ^ 70)) }) (lv 2 64 [0x22, 0x40, 0]) = true ∧
    ran (.vclmul (w3 .n64)) (on (vs [(1, lanes 64 [0x22, 0x40]), (2, BitVec.allOnes 2048)])) (lv 3 64 [0x1E, 0xFFFFFFFFFFFFFFC0]) = true := by decide +kernel
theorem test_vcmp :
    ran (.vcmp ⟨false, 0, 1, 1, 2, .i8, .lt⟩) (v12 8 [0xFF, 1] [0, 0]) (fun t => flight t == some (2, .k 1 1)) = true ∧
    ran (.vcmp ⟨false, 2, 1, 1, 2, .f32, .unord⟩) (on fun c => vs [(1, lanes 32 [0x7FC00000, 0])] { c with k := c.k.set 2 3 }) (fun t => flight t == some (2, .k 1 1)) = true := by decide +kernel
theorem test_vprm :
    ran (.vperm (w3 .n8)) (v12 8 [10, 20, 30] [2, 0, 1]) (lv 3 8 [30, 10, 20, 10]) = true ∧ ran (.vslide (w2 .n64) false 0) (v12 64 [1, 2, 3] []) (lv 3 64 [0, 1, 2, 3]) = true ∧
    ran (.vslide (w2 .n64) true 1) (v12 64 [1, 2, 3, 4] []) (lv 3 64 [3, 4, 0]) = true ∧ ran (.vbcast (w2 .n64) 2) (v12 64 [1, 2, 3] []) (lv 3 64 [3, 3, 3]) = true ∧
    ran (.viota false 0 3 .n8) base (lv 3 8 [0, 1, 2, 3]) = true ∧ ran (.vcmpr ⟨false, 1, 3, 1, .n8⟩) (on fun c => vs [(1, lanes 8 [1, 2, 3, 4])] { c with k := c.k.set 1 0xA }) (lv 3 8 [2, 4, 0]) = true ∧
    ran (.vexpd ⟨false, 1, 3, 1, .n8⟩) (on fun c => vs [(1, lanes 8 [1, 2, 3, 4])] { c with k := c.k.set 1 0xA }) (lv 3 8 [0, 1, 0, 2, 0]) = true ∧
    ran (.vzip (w3 .n64)) (v12 64 [1, 2] [3, 4]) (lv 3 64 [1, 3, 2, 4]) = true ∧ ran (.vunzip (w2 .n64)) (v12 64 [1, 2, 3, 4] []) (lv 3 64 [1, 3, 0]) = true := by decide +kernel
theorem test_vbit :
    ran (.vclmulh (w3 .n64)) (v12 64 [0x8000000000000000] [2]) (lv 3 64 [1]) = true ∧ ran (.vpopc (w2 .n8)) (v12 8 [0xFF, 1] []) (lv 2 8 [8, 1, 0]) = true ∧
    ran (.vclz (w2 .n8)) (v12 8 [1, 0x80] []) (lv 2 8 [7, 0, 8]) = true ∧ ran (.vctz (w2 .n16)) (v12 16 [0x8000, 2] []) (lv 2 16 [15, 1, 16]) = true ∧
    ran (.vsel ⟨false, 1, 3, 1, 2, .n8⟩) (on fun c => vs [(1, lanes 8 [1, 2]), (2, lanes 8 [3, 4])] { c with k := c.k.set 1 2 }) (lv 2 8 [3, 2]) = true ∧
    ran (.vktov false 3 1 .n8) (on fun c => { c with k := c.k.set 1 2 }) (lv 2 8 [0, 0xFF, 0]) = true := by decide +kernel
/-- Reductions write lane 0 and zero above it; disabled lanes enter as the identity (R129, R161). -/
theorem test_vred :
    ran (.vredadd (w2 .n64)) (v12 64 [1, 2, 3] []) (lv 6 64 [6, 0]) = true ∧ ran (.vredmin ⟨false, 1, 3, 1, .n64⟩) (on fun c => vs [(1, lanes 64 [9, 2])] { c with k := c.k.set 1 1 }) (lv 6 64 [9, 0]) = true ∧
    ran (.vredmax (w2 .i64)) (v12 64 [0xFFFFFFFFFFFFFFFF, 5] []) (lv 6 64 [5]) = true ∧ ran (.vredand ⟨false, 1, 3, 1, .n64⟩) (on fun c => vs [(1, lanes 64 [6, 3])] { c with k := c.k.set 1 3 }) (lv 6 64 [2]) = true ∧
    ran (.vredor (w2 .n64)) (v12 64 [4, 1] []) (lv 6 64 [5]) = true ∧ ran (.vredxor (w2 .n64)) (v12 64 [4, 5] []) (lv 6 64 [1]) = true := by decide +kernel
/-- The cell counts in units of 2^−149: 1.0 adds 2^149, and rounds back to 1.0 (R123, R124). -/
theorem test_vsumx :
    ran (.vsumx false 1 3 1) (on fun c => vs [(1, 0x3F800000)] { c with k := c.k.set 1 1 }) (fun t => (vres t).any fun r => r.1 == 8 && r.2.2.2 == BitVec.ofNat 2048 (2 ^ 149)) = true ∧
    ran (.vsumxc false 3 1) (on (vs [(1, BitVec.ofNat 2048 (2 ^ 149))])) (lv 8 32 [0x3F800000, 0]) = true := by decide +kernel
/-- FP32 1.0 is 0x38 in E4M3; −1 saturates to 0 in n8; the counter and key of zero and of 1 to 6 through Reel-10, worked out by hand (R113, R130). -/
theorem test_vcvt_vrand :
    ran (.vcvt ⟨false, 0, 3, 1, false, .e4m3, .f32, .rne⟩) (v12 32 [0x3F800000] []) (lv 3 8 [0x38, 0]) = true ∧
    ran (.vcvt ⟨false, 1, 3, 1, true, .n8, .i32, .rne⟩) (on fun c => vs [(1, lanes 32 [0xFFFFFFFF])] { c with k := c.k.set 1 1 }) (lv 3 8 [0]) = true ∧
    ran (.vrand false 0 3 1 2) (v12 32 [0, 0, 0, 0, 0, 0, 0, 0] []) (lv 8 32 [0x7FAEC704, 0xCFBDC87D, 0x5C177400, 0xC5B6BA46, 0x7FAEC704]) = true ∧
    ran (.vrand false 0 3 1 2) (v12 32 [1, 2, 3, 4] [5, 6]) (lv 8 32 [0x0A28674F, 0xB90F1B30, 0x18B539A2, 0x1BCB4E83]) = true := by decide +kernel
def k12 (a b : Mask) : State := on fun c => { c with k := (c.k.set 1 a).set 2 b }
def lk (v : Mask) (t : State) : Bool := flight t == some (1, .k 3 v)
theorem test_masks :
    ran (.kand 3 1 2 .n64) (k12 0xC 0xA) (lk 8) = true ∧ ran (.kor 3 1 2 .n64) (k12 0xC 0xA) (lk 0xE) = true ∧ ran (.kxor 3 1 2 .n64) (k12 0xC 0xA) (lk 6) = true ∧
    ran (.knot 3 1 .n64) (k12 0xC 0xA) (lk 0xFFFFFFF3) = true ∧ ran (.kmov 3 1 .n64) (k12 0x10000000C 0xA) (lk 0xC) = true ∧
    ran (.kpopc false 3 1 3 .n8) (k12 0xF0 0) (fun t => lv 1 64 [4, 0] t && lp 3 true t) = true ∧ ran (.kfirst false 3 1 3 .n8) (k12 0 0) (fun t => lv 1 64 [256] t && lp 3 false t) = true ∧
    ran (.vmovi false 0 3 0x3FF .n8) base (lv 1 8 [255, 255]) = true ∧ ran (.vext false 1 1 (.x 4)) (v12 64 [5, 6] []) (lx 4 6 3) = true ∧
    ran (.vext false 1 0 (.m 4)) (v12 64 [5, 6] []) (fun t => flight t == some (3, .m 4 5)) = true := by decide +kernel

/-! ### The step (R36 to R42, R52, R56, R61) -/

def stepped (s : State) (p : State → Bool) : Bool := match step s with | .next t => p t | _ => false
/-- movi x1, 10 as a portable word: the result is read by the next word. -/
theorem test_step_portable : stepped (State.reset.withFetchWord 32 0x3801000A) (fun t => (t.ctx 0).pc == 0x8100000004 && (t.ctx 0).x.get 1 == 10 && (t.ctx 0).ccyc == 1) = true := by
  decide +kernel
/-- The bundle of R50's example: a header, MUL and VADD; the results land at latencies 3 and 3. -/
def bundle : State := { State.reset.withFetchWord 32 0xFE820000 with dm := (State.reset.withFetchWord 32 0xFE820000).dm.write 1 0x10000004 (wordBytes 0x10030840 ++ wordBytes 0xC0038158) }
theorem test_step_native : stepped bundle (fun t => (t.ctx 0).pc == 0x810000000C && (t.ctx 0).pend.map (·.off) == [3, 3]) = true := by decide +kernel
/-- A word that decodes to nothing traps as an illegal instruction, cause 1 (R51, R52). -/
theorem test_step_illegal : stepped (State.reset.withFetchWord 32 0x7BFFFFFF) (fun t => (t.ctx 0).hm && (t.ctx 0).trapCause % 256 == 1 && (t.ctx 0).trapWord == 0x7BFFFFFF) = true := by decide +kernel
/-- A halted package stops (R314); a package reset restarts it. -/
theorem test_step_halted : (match step { State.reset with pk := { State.reset.pk with halted := some 1 } } with | .fault .halted => true | _ => false) = true ∧
    stepped { State.reset with pk := { State.reset.pk with halted := some 1 }, agenda := [.packageReset ⟨0, [], 0x103⟩] } (fun t => t.pk.halted.isNone && t.pk.stage == 1) = true := by decide +kernel

/-! ### Fabric and Pavane words (R326 to R330, R359) -/

theorem test_fab :
    ran (.qstat ⟨false, 0, 3, 1⟩) { x12 0 0 with fi := { base.fi with jobs := [(1, { Job.reset with i := 7 })] } } (fun t => (flight t).map (·.1) == some 2) = true ∧
    ran (.grpq ⟨false, 0, 3, 1⟩) { x12 0x8000000000000000 0 with fi := { base.fi with seq := 3, idx := 1, table := some [9, 0] } } (lx 3 0x300010002 2) = true ∧
    ran (.grpq ⟨false, 0, 3, 1⟩) { x12 0 0 with fi := { base.fi with table := some [9, 0] } } (lx 3 9 2) = true ∧
    ran (.lstat ⟨false, 0, 3, 1⟩) (x12 2 0) (fun t => (flight t).map (·.1) == some 2) = true ∧
    ran (.rflush 0) base (fun t => (t.ctx 0).waits.isEmpty) = true ∧ ran (.rwait 0) base (fun t => (t.ctx 0).waits == [.acks true]) = true ∧
    ran (.qwait 0) base (fun t => (t.ctx 0).waits.length == 1) = true ∧
    ran (.jset ⟨false, 0, 1⟩) (x12 5 0) (fun t => (t.fi.job 1).jflags == 5 && (t.ctx 0).sealed) = true ∧
    ran (.qmark ⟨false, 0, 1⟩) (x12 1 0) (fun t => (t.ctx 0).sealed) = true := by decide +kernel
/-- A strand that is no task fails the check of PVPOST with a strand fault (R328); bubble counters and the status are read. -/
def pav : State := { base with pk := { base.pk with pv := { base.pk.pv with bub := #v[4, 5, 6] } } }
theorem test_pav :
    ran (.pvpost ⟨false, 0, 1⟩) base (fun t => (t.ctx 0).strand.isNone) = true ∧ ran (.pvstash ⟨false, 0, 1⟩) base (fun t => (t.ctx 0).strand.isNone) = true ∧
    ran (.pvtake ⟨false, 0, 1⟩) base (fun t => (t.ctx 0).strand.isNone) = true ∧ ran (.pvbub false 0 3 .dest) pav (lx 3 5 2) = true ∧
    ran (.pvstat false 0 3) pav (fun t => (flight t).map (·.1) == some 2) = true := by decide +kernel

/-! ### Witnesses: for each statement with hypotheses, concrete states and operands that meet them -/

theorem some_pair {α β : Type} {o : Option (α × β)} (h : o.isSome = true) : ∃ a b, o = some (a, b) := by
  cases o with
  | none => simp at h
  | some p => exact ⟨p.1, p.2, rfl⟩
theorem some_one {α : Type} {o : Option α} (h : o.isSome = true) : ∃ a, o = some a := by
  cases o with
  | none => simp at h
  | some p => exact ⟨p, rfl⟩
theorem pair_fst {α β : Type} {p : α × β} {a : α} (h : p.1 = a) : ∃ b, p = (a, b) := ⟨p.2, by cases p; simp_all⟩
def nexts (o : Out) : Bool := match o with | .next _ => true | _ => false
theorem nexts_some {o : Out} (h : nexts o = true) : ∃ t, o = .next t := by
  cases o <;> simp_all [nexts]

theorem witness_DecodeOfEncode : (Instr.add ⟨false, 0, 2, 2, 1⟩).wellFormed = true ∧ encode (.add ⟨false, 0, 2, 2, 1⟩) = some 0x0C021040 := by decide +kernel

/-- A word of each clause, at its least function code. -/
theorem witness_OnlyEncodingsDecode : decodeAny 0x0C021040 = some (.add ⟨false, 0, 2, 2, 1⟩) ∧
    ∀ p ∈ ([(0x1E, 0), (0x1F, 0), (0x2B, 0), (0x3C, 0), (0x3E, 0), (0x00, 9), (0x03, 16), (0x04, 7), (0x05, 9), (0x10, 7), (0x12, 6), (0x16, 3), (0x1C, 8), (0x1D, 5),
      (0x24, 5), (0x28, 5), (0x2A, 6), (0x33, 7)] : List (Nat × Nat)), let w := p.1 * 2 ^ 26 + p.2
      w < 2 ^ 32 ∧ w / 2 ^ 26 = p.1 ∧ w % 64 = p.2 ∧ decodeAny w = none := by decide +kernel

theorem base_inv : base.Inv := by unfold State.Inv; decide +kernel
theorem witness_StepKeepsInvariant : base.Inv ∧ ∃ t, step base = .next t := ⟨base_inv, nexts_some (by decide +kernel)⟩

theorem witness_EventsGoFirst :
    (base.pk.halted = none ∧ ({ base with agenda := [.interrupt] } : State).agenda = [.interrupt]) ∧
    (let s : State := { base with pk := { base.pk with halted := some 1 } }
     s.pk.halted = some 1 ∧ s.agenda = [] ∧ ({ s with agenda := [.packageReset ⟨0, [], 0x103⟩] } : State).agenda = [.packageReset ⟨0, [], 0x103⟩]) ∧
    (let s : State := { base with core := { base.core with irq := true } }
     s.agenda = [] ∧ s.pk.halted = none ∧ s.core.irq = true ∧ (s.ctx svc).hm = false) := by decide +kernel

/-- movi x1, 10 at the pc of a portable strand. -/
def pw : State := State.reset.withFetchWord 32 0x3801000A
def pw1 : State := { pw.cycle with verdict := .ok }
def pwu : State := (pw1.fetch 0x8100000000).2
def pwi : State := ({ pwu with issue := ⟨0x8100000000, 0x8100000004, 0x8100000000, 0x3801000A, 0, false, pwu.tags⟩ } : State).modMe Ctx.drain
theorem witness_StepRunsPortableWord :
    AboutToIssue pw ∧ pw.me.nat = false ∧ pw.me.allReady = true ∧ pw.me.pc = 0x8100000000 ∧ pw1.fetchable pw.core.cur 0x8100000000 = true ∧
    (pw1.fetch 0x8100000000).1 = 0x3801000A ∧ decode 0x3801000A = .ok (.movi ⟨false, 0, 1, 10⟩) ∧ lateForm (.movi ⟨false, 0, 1, 10⟩) = none ∧
    slotNum 0x3801000A = 0 ∧ slotCheck (.movi ⟨false, 0, 1, 10⟩) pwi = none ∧ softCheck (.movi ⟨false, 0, 1, 10⟩) pwi = none ∧ ran (.movi ⟨false, 0, 1, 10⟩) pwi (fun t => t.verdict == .ok) = true := by
  refine ⟨by unfold AboutToIssue; decide +kernel, ?_⟩
  and_intros <;> decide +kernel

def runL : State → List Placed → Option State
  | s, [] => some s
  | s, p :: r => match exec p.i (s.atWord p) with
    | .next u => if u.verdict = .ok then runL u r else none
    | _ => none
theorem runs_of (s t : State) (l : List Placed) (h : runL s l = some t) : Runs s l t := by
  induction l generalizing s with
  | nil => simpa [runL, Runs] using h.symm
  | cons p r ih =>
    simp only [runL] at h
    split at h
    · rename_i u hu
      split at h
      · exact ⟨u, hu, ‹_›, ih u h⟩
      · cases h
    · cases h
def bw : Bundle := ⟨[⟨.mul ⟨false, 0, 3, 1, 1⟩, 0x10030840, 0x8100000004, 0⟩, ⟨.vadd ⟨false, 0, 1, 24, 2, .f32⟩, 0xC0038158, 0x8100000008, 2⟩], 0x810000000C⟩
def bfetch : Except TrapRec Bundle × State := ({ bundle.cycle with verdict := .ok } : State).nativeBundle bundle.core.cur 0x8100000000 (bundle.me.first && !bundle.me.hm)
def bu1 : State := ({ bfetch.2 with issue := ⟨0x8100000000, bw.next, bfetch.2.issue.at_, bfetch.2.issue.word, bfetch.2.issue.slot, false, bfetch.2.tags⟩ } : State).modMe Ctx.approach
theorem bundle_runs : ∃ t, runL bu1 bw.words = some t ∧ t.verdict = .ok := by
  have h : (runL bu1 bw.words).any (fun t => t.verdict == .ok) = true := by decide +kernel
  cases h' : runL bu1 bw.words with
  | none => simp [h'] at h
  | some t => exact ⟨t, rfl, by simpa [h'] using h⟩
theorem ok_of {ε α : Type} [DecidableEq α] {e : Except ε α} {a : α} (h : (match e with | .ok b => decide (b = a) | .error _ => false) = true) : e = .ok a := by
  cases e <;> simp_all
theorem witness_StepRunsNativeBundle :
    AboutToIssue bundle ∧ bundle.me.nat = true ∧ dueReady bundle.me.flight = true ∧ bundle.pk.step ≠ 0 ∧ bundle.me.pc = 0x8100000000 ∧ bfetch.1 = .ok bw ∧
    (∀ p ∈ bw.words, lateForm p.i = none) ∧ (bw.words.any fun p => isTransfer p.i) = false ∧ (∀ p ∈ bw.words, slotCheck p.i (bu1.atWord p) = none ∧ softCheck p.i (bu1.atWord p) = none) ∧
    ∃ t, Runs bu1 bw.words t ∧ t.verdict = .ok := by
  obtain ⟨t, h, hv⟩ := bundle_runs
  refine ⟨by unfold AboutToIssue; decide +kernel, ?_⟩
  and_intros
  all_goals first | decide +kernel | exact ok_of (by decide +kernel) | exact ⟨t, runs_of _ _ _ h, hv⟩

theorem witness_FalseGuardChangesNothing : valP base (guardOf (.add ⟨false, 1, 3, 1, 2⟩)) = false := by decide +kernel
theorem witness_LandingChangesOnlyItsRegister : (0 : Nat) < 5 ∧ 4 < 5 ∧ (2047 : Nat) < 2048 ∧ (1 : Fin 8) ≠ ShapeField.idx .m ∧ (7 : Fin 8) ≠ PatField.idx .esize := by decide
/-- A result of latency 18 is old at 17, new at 18. -/
theorem witness_ResultsLandInTime : (let c : Ctx := { base.ctx 0 with pend := [⟨0, 18, .x 3 5, []⟩] }
    c.hm = false ∧ c.pend = [⟨0, 18, .x 3 5, []⟩] ∧ (3 : Fin 38).val ≠ 0 ∧ 0 < 18 ∧ 17 < 18) := by decide +kernel

/-- The forms of an operand: plain registers, a bound port as the first source and as the destination. -/
def portSt : State := on fun c => { xs [(1, 5), (2, 0)] c with ports := (c.ports.set 0 { Port.reset with bound := true, queue := [⟨far1, 1, [7], false⟩] }).set 1 { Port.reset with bound := true } }
def xxx (f : Reg3) (s : State) (v : Word) : Prop :=
  valP s f.g = true ∧ ∃ a s1 b s2 t, s.readX f.i f.a = some (a, s1) ∧ s1.readX f.i f.b = some (b, s2) ∧ s2.writeX f.i f.d v 1 = some t
theorem xxx_of {f : Reg3} {s : State} {v : Word} (h : (valP s f.g &&
    ((s.readX f.i f.a).any fun p => (p.2.readX f.i f.b).any fun q => (q.2.writeX f.i f.d v 1).isSome)) = true) : xxx f s v := by
  simp only [Bool.and_eq_true] at h
  refine ⟨h.1, ?_⟩
  have h := h.2
  cases h1 : s.readX f.i f.a with
  | none => simp [h1] at h
  | some p =>
    simp only [h1, Option.any_some] at h
    cases h2 : p.2.readX f.i f.b with
    | none => simp [h2] at h
    | some q =>
      simp only [h2, Option.any_some] at h
      obtain ⟨t, ht⟩ := some_one h
      exact ⟨p.1, p.2, q.1, q.2, t, rfl, h2, ht⟩
theorem witness_IntegerResults : xxx r3 (x12 5 0) 5 ∧ xxx ⟨true, 0, 31, 1, 2⟩ (x12 5 0) 5 ∧ xxx ⟨false, 0, 17, 16, 1⟩ portSt 5 ∧
    (0x0C000010 < 2 ^ 32 ∧ 0x0C000010 / 2 ^ 26 = 0x03 ∧ 16 ≤ 0x0C000010 % 64) ∧ (0x10000007 < 2 ^ 32 ∧ 0x10000007 / 2 ^ 26 = 0x04 ∧ 7 ≤ 0x10000007 % 64) :=
  ⟨xxx_of (by decide +kernel), xxx_of (by decide +kernel), xxx_of (by decide +kernel), by decide, by decide⟩
/-- A field up to bit 63, one of 1 bit, one of 32; the first words that R80, R81 and R82 call illegal. -/
theorem witness_BitAndImmediateResults : xxx r3 (x12 5 0) 5 ∧ (63 + 0 + 1 ≤ 64 ∧ 32 + 31 + 1 ≤ 64 ∧ 0 + 0 + 1 ≤ 64) ∧
    (∀ w ∈ ([0x14000040, 0x14000009] : List Nat), w < 2 ^ 32 ∧ w / 2 ^ 26 = 0x05 ∧ (w / 2 ^ 6 % 32 ≠ 0 ∨ 9 ≤ w % 64)) ∧
    (∀ w ∈ ([0x180007E1, 0x1C0007E1, 0x200007E1] : List Nat), w < 2 ^ 32 ∧ 6 ≤ w / 2 ^ 26 ∧ w / 2 ^ 26 ≤ 8 ∧ 64 < w / 2 ^ 5 % 64 + w % 32 + 1) ∧
    (0x34000040 < 2 ^ 32 ∧ 0x34000040 / 2 ^ 26 = 0x0D ∧ 0x34000040 / 2 ^ 6 % 8 ≠ 0) := ⟨xxx_of (by decide +kernel), by decide, by decide, by decide, by decide⟩
theorem witness_PredicateResults : xxx r3 (x12 5 0) 5 ∧ valP base 0 = true ∧ valP base 1 = false ∧
    (∀ w ∈ ([0x40000007, 0x40100000] : List Nat), w < 2 ^ 32 ∧ w / 2 ^ 26 = 0x10 ∧ (7 ≤ w % 64 ∨ 16 ≤ w / 2 ^ 16 % 32)) ∧
    (0x4401C000 < 2 ^ 32 ∧ 0x4401C000 / 2 ^ 26 = 0x11 ∧ 7 ≤ 0x4401C000 / 2 ^ 14 % 16) ∧
    (∀ w ∈ ([0x48000006, 0x4A000000, 0x48100000, 0x48008000, 0x48000400, 0x48000044] : List Nat), w < 2 ^ 32 ∧ w / 2 ^ 26 = 0x12 ∧
      (6 ≤ w % 64 ∨ w / 2 ^ 25 % 2 = 1 ∨ 16 ≤ w / 2 ^ 16 % 32 ∨ 16 ≤ w / 2 ^ 11 % 32 ∨ 16 ≤ w / 2 ^ 6 % 32 ∨ (4 ≤ w % 64 ∧ w / 2 ^ 6 % 32 ≠ 0))) ∧
    (0x4C000010 < 2 ^ 32 ∧ 0x4C000010 / 2 ^ 26 = 0x13 ∧ 0x4C000010 / 2 ^ 4 % 4 ≠ 0) :=
  ⟨xxx_of (by decide +kernel), by decide +kernel, by decide +kernel, by decide, by decide, by decide, by decide⟩
theorem witness_MoveAndAddressResults : xxx r3 (x12 5 0) 5 ∧ (base.writeX false 5 9 2).isSome = true ∧ (∀ d, MovDst.m 3 ≠ .file d) ∧
    (0x90000005 < 2 ^ 32 ∧ 0x90000005 / 2 ^ 26 = 0x24 ∧ 5 ≤ 0x90000005 % 64) := ⟨xxx_of (by decide +kernel), by decide +kernel, by simp, by decide⟩
theorem witness_ResultWordsChangeNothingElse : resultOnly (.add r3) = true ∧ slotCheck (.add r3) (x12 5 0) = none ∧ ∃ t, exec (.add r3) (x12 5 0) = .next t :=
  ⟨by decide +kernel, by decide +kernel, nexts_some (by decide +kernel)⟩
/-- A vector word, SLD at the start of an empty window, and the write of a register of the context and of one outside it. -/
theorem witness_ResultWordsChangeNothingElse_others :
    (vectorOnly (.vadd (w3 .i32)) = true ∧ slotCheck (.vadd (w3 .i32)) base = none ∧ ∀ b r, base.streamField b r = none) ∧
    (slotCheck (.sld 0 1 2 0) base = none ∧ slotCheck (.mts ⟨false, 0, 1, 0x010⟩) base = none) ∧
    (∃ t, exec (.vadd (w3 .i32)) base = .next t) ∧ (∃ t, exec (.sld 0 1 2 0) base = .next t) ∧ ∃ t, exec (.mts ⟨false, 0, 1, 0x010⟩) base = .next t :=
  ⟨by decide +kernel, by decide +kernel, nexts_some (by decide +kernel), nexts_some (by decide +kernel), nexts_some (by decide +kernel)⟩
/-- A register; a bound port with a word and without one; a port that holds 63 words, and one that holds 64. -/
def fullPort (n : Nat) : State := on fun c => { c with ports := c.ports.set 15 { Port.reset with bound := true, pushed := List.replicate n 1 } }
theorem witness_XFieldReadsAndWrites :
    (∀ n, ¬ NamesPort base false 31 n) ∧ NamesPort portSt false 16 0 ∧ (portSt.me.ports.get 0).peek = some 7 ∧ NamesPort portSt false 17 1 ∧ (portSt.me.ports.get 1).peek = none ∧
    NamesPort (fullPort 63) false 31 15 ∧ ((fullPort 63).me.ports.get 15).buffered < 64 ∧ ¬ ((fullPort 64).me.ports.get 15).buffered < 64 ∧
    portSt.readX false 17 = none ∧ valP portSt 0 = true := by unfold NamesPort; decide +kernel

/-- Forbidden uses in user mode: the least and greatest trap register, a pending transfer, two active loop levels. -/
def looping : State := on fun c => xs [(1, 4)] { c with loops := Vector.replicate 2 ⟨true, 0, 8, 2⟩ }
theorem witness_ForbiddenUsesTrap :
    base.core.cur ≠ svc ∧ base.me.hm = false ∧ valP base 0 = true ∧
    (∀ n ∈ ([0x018, 0x01D, 0x020, 0x029] : List Nat), 0x018 ≤ n ∧ n ≤ 0x029 ∧ n ≠ 0x01E ∧ n ≠ 0x01F) ∧
    (on fun c => { c with xfer := some ⟨8, false⟩ }).me.xfer.isSome = true ∧
    ((looping.me.loops.get 0).act = true ∧ (looping.me.loops.get 1).act = true ∧ looping.me.getX 1 = 4 ∧ (∀ n, ¬ NamesPort looping false 1 n)) := by
  unfold NamesPort; decide +kernel
def inHandler : State := on fun c => { hmode c with trapPc := 0x8100000010, entryPc := 0x8100000010, xferAt := true, xfer := some ⟨8, false⟩ }
/-- A handler that returns, one with a wait, one whose result lacks a byte. -/
theorem witness_EretReturns : valP inHandler 0 = true ∧ inHandler.core.cur ≠ svc ∧ inHandler.me.hm = true ∧ inHandler.me.mirrorAct = false ∧ inHandler.me.hpend = [] ∧
    inHandler.me.waits = [] ∧ inHandler.me.trapPc = inHandler.me.entryPc ∧ inHandler.me.xferAt = true ∧
    (on fun c => { hmode c with waits := [.allTiles] }).me.waits ≠ [] ∧
    ∃ p ∈ (on fun c => { hmode c with hpend := [⟨0, 2, .yload 3 0 8 false, [1]⟩] }).me.hpend, p.need ≠ [] := by
  decide +kernel
/-- A native call in the bundle of the tests: the bundle after it is the delay bundle. -/
def callSt : State := (bundle.modCtx 0 fun c => { c with loops := Vector.replicate 2 LoopLevel.idle })
theorem witness_TransfersLatchTarget :
    valP base 0 = true ∧ NoTransfer base ∧ (on portable).me.nat = false ∧ NoTransfer (on portable) ∧ (base.readX false 1).isSome = true ∧
    (base.writeX false 3 9 1).isSome = true ∧ (∃ link s1, base.linkValue = (link, s1)) ∧ base.me.nat = true ∧
    (bundle.me.nat = true ∧ (∀ k : Fin 2, (bundle.me.levels.get k).act = false) ∧
      (({ bundle with issue := ⟨0, 0x8100000000, 0, 0, 0, true, 0⟩ } : State).nativeBundle 0 0x8100000000 false).1 = .ok bw) := by
  unfold NoTransfer
  and_intros
  all_goals first | decide +kernel | exact ⟨_, _, rfl⟩
/-- LOOP with 0, and with a count, at a free level 0 and at level 1 above an active level 0; commits with a transfer, without, at END with 2 rounds and with 1. -/
theorem witness_LoopsAndCommit :
    (valP (on portable) 0 = true ∧ ((on portable).readX false 0).any (fun p => p.1 == 0) = true ∧ (on portable).me.nat = false) ∧
    (((x12 4 0).readX false 1).any (fun p => p.1 == 4) = true ∧ (x12 4 0).me.hm = false ∧ ((x12 4 0).me.loops.get 0).act = false) ∧
    (let c := { base.ctx 0 with loops := (base.ctx 0).loops.set 0 ⟨true, 8, 24, 2⟩ }
     c.hm = false ∧ c.pend = [] ∧ c.xfer = none ∧ (c.loops.get 1).act = false ∧ (c.loops.get 0).act = true ∧ (∀ j : Fin 2, (0 : Fin 2) < j → (c.loops.get j).act = false) ∧
       (c.loops.get 0).fin = 24 ∧ 1 < (c.loops.get 0).rem) ∧
    (let c := { base.ctx 0 with loops := (base.ctx 0).loops.set 0 ⟨true, 8, 24, 1⟩ }
     c.hm = false ∧ c.pend = [] ∧ c.xfer = none ∧ (c.loops.get 0).act = true ∧ (c.loops.get 1).act = false ∧ (c.loops.get 0).fin = 24 ∧ (c.loops.get 0).rem ≤ 1) ∧
    (let c := base.ctx 0
     c.hm = false ∧ c.pend = [] ∧ c.nat = true ∧ c.xfer = none ∧ ∀ k : Fin 2, (c.loops.get k).act = false) ∧
    (let c := { base.ctx 0 with nat := false, xfer := some ⟨8, false⟩ }
     c.nat = false ∧ c.xfer = some ⟨8, false⟩ ∧ c.pend = []) := by decide +kernel
theorem witness_SystemRegisters :
    (valP base 0 = true ∧ slotCheck (.mfs ⟨false, 0, 3, 0x011⟩) base = none ∧ (base.writeX false 3 9 2).isSome = true) ∧
    (∀ n ∈ ([0x010, 0x011, 0x012, 0x016] : List (BitVec 11)), slotCheck (.mts ⟨false, 0, 1, n⟩) base = none) ∧
    (∀ n ∈ ([0x018, 0x019] : List (BitVec 11)), slotCheck (.mts ⟨false, 0, 1, n⟩) inHandler = none) ∧ inHandler.core.cur ≠ svc ∧ (inHandler.readX false 1).isSome = true ∧
    (let s : State := { base with core := { base.core with cur := svc } }
     ∀ n ∈ ([0x180, 0x19F, 0x104, 0x029] : List (BitVec 11)), slotCheck (.mts ⟨false, 0, 1, n⟩) s = none) ∧ (0 : Fin 5) ≠ svc := by decide +kernel
/-- The prologue, the kernel with an iteration left, its last iteration, the epilogue. -/
theorem witness_RegionBeginsWithCheckpoint :
    (let s := base.devPut 0x1018 2
     (s.devWord 0x1018).toNat % 2 ^ 32 = 2 ∧ Stage.prologue ≠ .epilogue ∧ 0 < 2 ∧ Stage.kernel ≠ .epilogue ∧ strand1.iter.toNat + 1 < 2) ∧
    (let t := { strand1 with iter := 1 }
     2 ≤ t.iter.toNat + 1) ∧ ({ strand1 with stage := .epilogue } : Strand).stage = .epilogue := by decide +kernel
/-- A sector of page 0 in the phase buffer: a cached page, whose home is the frame at 0x20000. -/
def stored : BufSector := ⟨0xF, 0x04030201, false⟩
def closing (sc : Scope) : State := on fun c => { c with buf := [(1, stored)], waits := [.close sc .phase] }
def sentHome : State := ((closing .die).setCtx 0 { (closing .die).ctx 0 with buf := [] }).supersede (ckey ((closing .die).who 0).asid 1) 0xF
theorem witness_CloseBeginsAndWaits_publishes :
    (((closing .core).ctx 0).buf = [(1, stored)] ∧ rising (closing .core).core.l1 = true ∧ stored.mask ≠ 0 ∧
      (((closing .core).setCtx 0 { (closing .core).ctx 0 with buf := [] }).cacheable ((closing .core).who 0) 1 stored).1 = true) ∧
    (((closing .die).core.l1.all fun x => !x.2.by_.getLsbD 0 || x.2.dirty == 0) = true ∧ (closing .die).dieOf ((closing .die).who 0).job (1 / 2 ^ 47) = .own) ∧
    (match sentHome.access ((closing .die).who 0) (1 % 2 ^ 47 * 32) .store 8 with
     | (.ok (pa, _), u) => !inMmio pa && u.dm.backing (pa / 32 * 32) == some 0x20020 && Memory.wf u.dm.mem
     | _ => false) = true ∧
    (((closing .die).ctx 0).waits = [.close .die .phase] ∧ ((closing .die).ctx 0).reqs = [] ∧ (closing .die).core.ops = [] ∧
      (let t := (closing .die).publish 0 .die
       (t.ctx 0).lost = none ∧ t.acksOwed 0 .die = false ∧ t.closeWaitsTile 0 = false ∧ t.takeWaits 0 = false ∧ t.takeOutranked 0 = false)) := by decide +kernel
theorem witness_CloseBeginsAndWaits :
    valP base 0 = true ∧ base.me.hm = false ∧ slotCheck (.phase 0 .fabric) base = none ∧
    (let s := on fun c => { c with waits := [.close .die .phase], reqs := [⟨0, 0, 8, 0, .load [] none⟩] }
     (s.ctx 0).waits = .close .die .phase :: [] ∧ (s.ctx 0).reqs ≠ []) ∧
    (match exec (.tstore op1) (tileSt 1 0x100 [2, 2, 0, 8]) with
     | .next t => t.core.ops.any fun o => o.ctx.val == 0 && o.kind == .store
     | _ => false) = true := by decide +kernel
theorem witness_TrapsEnterHandler :
    (valP base 0 = true ∧ base.core.cur ≠ svc ∧ base.me.hm = false) ∧
    (valP inHandler 0 = true ∧ inHandler.core.cur ≠ svc ∧ inHandler.me.hm = true ∧ inHandler.me.strand.isSome = true ∧ inHandler.me.streams = []) ∧
    (let s := on fun c => { c with streams := [(1, 3)] }
     (s.ctx 0).strand.isSome = true ∧ ((s.ctx 0).streams.any fun e => e.2 != 0) = true) ∧
    ∃ t, exec (.svc 0 1) inHandler = .next t := ⟨by decide +kernel, by decide +kernel, by decide +kernel, nexts_some (by decide +kernel)⟩

/-- An access within a sector, one across two sectors, one that wraps modulo 2^64, one whose bytes a running copy still writes. -/
def ySt (v : Word) : State := on fun c => ys [(1, v)] { c with buf := [(0, ⟨0xFFFFFFFF, 5, false⟩), (1, ⟨0xFFFFFFFF, 6, false⟩)] }
def copying : State := chSt { Chan.reset with who := { Chan.reset.who with record := 0x2000 }, state := .running, op := .mm, cb := 0, rows := 1, pat := #v[64, 1, 1, 0, 0, 0, 0, 0] } id
def reads (s : State) (n : Nat) (l : List Piece) : Bool := match (s.readSpan s.core.cur n l).1 with | .data _ [] => true | _ => false
def loadable (s : State) (ea n : Nat) : Bool := valP s 0 && !s.loadWaits ea n && reads s n (pieces 3 ea n 0)
theorem witness_LoadsReadBuffer :
    loadable (ySt 0) (addrImm (ySt 0) false 1 0 3) 8 = true ∧ loadable (ySt 0x1C) (addrImm (ySt 0x1C) false 1 0 3) 8 = true ∧
    loadable (ySt 0xFFFFFFFFFFFFFFF8) (addrImm (ySt 0xFFFFFFFFFFFFFFF8) false 1 1 3) 8 = true ∧ loadable (ySt 0) (addrIdx (ySt 0) false 1 2 3) 2 = true := by decide +kernel
theorem witness_LoadsReadBuffer_waits : copying.loadWaits (addrImm copying false 1 0 3) 8 = true ∧ copying.loadWaits (addrIdx copying false 1 2 0) 4 = true ∧
    (ySt 0).dieOf ((ySt 0).who 0).job 0 = .own ∧ (ySt 0).dieOf ((ySt 0).who 0).job 1 = .other 0 1 ∧
    ((ySt 0).mirrorFrame 0 = none ∧ lookup ((ySt 0).ctx 0).buf 1 = some ⟨0xFFFFFFFF, 6, false⟩ ∧ (0xFF : BitVec 32) &&& ~~~(0xFFFFFFFF : BitVec 32) = 0) := by decide +kernel
/-- A store inside a sector, across two, at the last bytes of page 1; an address of the span and one outside it. -/
def storable (s : State) (ea n : Nat) : Bool := valP s 0 && (s.mirrorFrame s.core.cur).isNone && decide ((s.storeSpan s.core.cur n 5 (pieces 3 ea n 0)).1 = .ok)
theorem witness_StoreEntersPhaseBuffer :
    storable (ySt 0) (addrImm (ySt 0) false 1 0 3) 8 = true ∧ storable (ySt 0x1C) (addrImm (ySt 0x1C) false 1 0 3) 8 = true ∧
    storable (ySt 0x1FFF8) (addrImm (ySt 0x1FFF8) false 1 0 3) 8 = true ∧ storable (ySt 0) (addrIdx (ySt 0) false 1 2 3) 2 = true := by decide +kernel
theorem witness_StoreEntersPhaseBuffer_span : inSpan 0x1C 8 0x23 ∧ ¬ inSpan 0x1C 8 0x24 ∧ inSpan (2 ^ 64 - 4) 8 3 := by unfold inSpan; decide
/-- A byte stored, one in the same sector and in each sector beside it; the last byte of HBM, where a store ends; the carve-out, which has no size at reset. -/
theorem witness_MemoryWriteFrame : Memory.wf base.dm.mem = true ∧ base.dm.room 0x20010 = 2 ^ 37 - 0x20010 ∧ base.dm.room (2 ^ 37 - 1) = 1 ∧ base.dm.room (2 ^ 37) = 0 ∧
    base.dm.plain (base.dm.keyTag 0) 0x1000 = true ∧ 0x1FFFF / 32 < 0x20010 / 32 ∧ (0x20010 + 8 - 1) / 32 < 0x20020 / 32 := by decide +kernel
/-- The state in which an atomic of an order goes to its home: a release has published. -/
def published (s : State) (ord : AOrd) : State :=
  match ord with
  | .rel | .acqrel => ({ s with tags := s.tags + 1 } : State).release s.core.cur
  | .plain | .acq => { s with tags := s.tags + 1 }
def admits (s : State) (ea w e : Word) (f : BitVec 6) (axch : Bool) : Bool :=
  let n := if axch then (if f.toNat.testBit 2 then 8 else 4) else (if f.toNat.testBit 3 then 8 else 4)
  ea.toNat % n == 0 && !(s.mirrorFrame s.core.cur).isSome && (s.atomicBad s.core.cur ea w e f axch).isNone
theorem admitted_of {s : State} {ea w e : Word} {f : BitVec 6} {axch : Bool} (h : admits s ea w e f axch = true) : AtomAdmitted s ea w e f axch := by
  simp only [admits, Bool.and_eq_true, beq_iff_eq, Bool.not_eq_true', Option.isNone_iff_eq_none] at h
  exact ⟨h.1.1, .inl h.1.2, h.2⟩
theorem runs_here {s : State} {ea w e : Word} {f : BitVec 6} {axch : Bool} {ord : AOrd} {old : Nat} (h1 : admits s ea w e f axch = true)
    (h2 : (decide (s.dieOf (s.who s.core.cur).job (ea.toNat / 2 ^ 52) = .own) && s.me.reqs.isEmpty && ((published s ord).me.streams.all fun x => x.2 == 0) &&
      !((published s ord).flushSector (published s ord).core.cur (atomKey s ea)).1) = true)
    (h3 : (((published s ord).flushSector (published s ord).core.cur (atomKey s ea)).2.homeAtomic (s.who s.core.cur) (ea.toNat % 2 ^ 52) axch f w e).1 = .ok old) :
    ∃ s1, RunsHere s ea w e f axch ord old s1 := by
  obtain ⟨s1, h⟩ := pair_fst h3
  simp only [Bool.and_eq_true, decide_eq_true_eq, List.isEmpty_iff, List.all_eq_true, beq_iff_eq, Bool.not_eq_true'] at h2
  exact ⟨s1, admitted_of h1, h2.1.1.1, published s ord, fun hr => ⟨h2.1.1.2, by rcases hr with rfl | rfl <;> rfl, h2.1.2⟩,
    fun hr => by cases ord <;> first | rfl | simp [releases] at hr, h2.2, h⟩
def atSt : State := withMem (on (ys [(1, 16), (2, 7), (3, 5)])) 0x20010 [5]
/-- An atomic of 4 bytes on page 0 in each form; a release whose store goes home first; one of order acquire. -/
theorem witness_Atomics :
    (valP atSt 0 = true ∧ ∃ s1, RunsHere atSt 16 7 0 (BitVec.ofNat 6 (0 + AtomOp.code .add)) false .plain 5 s1) ∧
    (∃ s1, RunsHere atSt 16 7 0 (BitVec.ofNat 6 4) true .plain 5 s1) ∧ (∃ s1, RunsHere atSt 16 7 5 (BitVec.ofNat 6 1) true .plain 5 s1) ∧
    (∃ s1, RunsHere (atSt.modCtx 0 fun c => { c with buf := [(1, stored)] }) 16 7 0 (BitVec.ofNat 6 32) false .rel 5 s1) ∧
    (∃ s1, RunsHere atSt 16 0 0 (BitVec.ofNat 6 14) true .acq 5 s1) ∧
    (0xFFFFFFFF < 2 ^ (8 * 4) ∧ 0xFFFFFFFFFFFFFFFF < 2 ^ (8 * 8)) ∧
    (let s := on (ys [(1, 18)])
     valP s 0 = true ∧ s.me.strand.isSome = true ∧ (valY s false 1).toNat % 4 ≠ 0 ∧ s.me.streams = []) :=
  by
  and_intros
  all_goals first | decide +kernel | exact runs_here (by decide +kernel) (by decide +kernel) (ok_of (by decide +kernel))
/-- An atomic of 8 bytes on logical die 1; a release whose store for that die has still to be acknowledged; one whose sector L2 holds dirty for it. -/
def farEa : Word := 0x10000000000010
def dirtyFar : State := { atSt with cl := { atSt.cl with l2 := [(atomKey atSt farEa, ⟨9, 1, 1, 0, 0, 1, 1, false, 0⟩)] } }
theorem witness_Atomics_elsewhere :
    (admits atSt farEa 7 0 8 false = true ∧ atSt.dieOf (atSt.who atSt.core.cur).job (farEa.toNat / 2 ^ 52) = .other 0 1 ∧
      (atSt.l1At (atomKey atSt farEa)).dirty = 0 ∧ (atSt.l2At (atomKey atSt farEa)).dirty = 0) ∧
    (let s := atSt.modCtx 0 fun c => { c with buf := [(2 ^ 47, stored)] }
     admits s 16 7 0 32 false = true ∧ s.me.reqs = [] ∧ ((({ s with tags := s.tags + 1 } : State).release s.core.cur).me.streams.any fun y => y.2 != 0) = true) ∧
    (admits dirtyFar farEa 7 0 8 false = true ∧ dirtyFar.me.streams = [] ∧ (dirtyFar.l1At (atomKey dirtyFar farEa)).dirty = 0 ∧
      (dirtyFar.l2At (atomKey dirtyFar farEa)).dirty ≠ 0 ∧ rising dirtyFar.core.l1 = true ∧ rising dirtyFar.cl.l2 = true ∧
      (dirtyFar.l2At (atomKey dirtyFar farEa)).job = (dirtyFar.who dirtyFar.core.cur).job) := by decide +kernel

/-- Waits of FENCE whose condition holds and whose condition does not; a clean line to drop; a line with acknowledgements owed. -/
def fenced (k : FenceKind) (f : Ctx → Ctx) : State := on fun c => f { c with waits := [.fence k] }
def flushed (s : State) : Option Nat × State := s.flushDirty s.core.cur ((List.range 8).map fun j => (valY s false 1).toNat / 256 * 8 + j)
/-- Sector `n` of address space 3 is dirty in the L2. -/
def dirtyL2 (n : Nat) (s : State) : State := { s with cl := { s.cl with l2 := [(3 * 2 ^ 59 + n, ⟨0x55, 1, 1, 0, 0, 1, 1, false, 0⟩)] } }
/-- Logical die 1 of job 1 is in package 7, which the group does not name. -/
def gone1 (s : State) : State := s.devPut 0x50 0x8000000700000001
theorem witness_FencesAndHints :
    valP base 0 = true ∧ FenceKind.eng ≠ .all ∧
    ((fenced .eng id).ctx 0).waits = [.fence .eng] ∧ ((fenced .eng id).pumpOne 0).isSome = true ∧
    ((fenced .eng fun c => { c with chans := c.chans.set 7 { Chan.reset with state := .running } }).pumpOne 0).isSome = false ∧
    (((fenced .eng id).setCtx 1 { base.ctx 1 with chans := (base.ctx 1).chans.set 7 { Chan.reset with state := .running, who := { Chan.reset.who with record := 0x2000 } } }).pumpOne 0).isSome = false ∧
    ((fenced .port id).pumpOne 0).isSome = true ∧ ((fenced .port fun c => { c with ports := c.ports.set 15 { Port.reset with unsent := [[1]] } }).pumpOne 0).isSome = false ∧
    ((fenced .all id).pumpOne 0).isSome = true ∧ ((fenced .all fun c => { c with streams := [(1, 1)] }).pumpOne 0).isSome = false ∧
    (let (g, t) := flushed (dirtyL2 7 base)
     g = none ∧ (t.me.streams.all fun e => e.2 == 0) = true) ∧
    (let (g, t) := flushed (dirtyL2 (2 ^ 47) (on (ys [(1, 2 ^ 52)])))
     g = none ∧ (t.me.streams.any fun e => e.2 != 0) = true) ∧
    (flushed (dirtyL2 (2 ^ 47 + 7) (gone1 (on (ys [(1, 2 ^ 52)]))))).1 = some (2 ^ 47 + 7) ∧
    (let s : State := { base with core := { base.core with l1 := [(3 * 2 ^ 59, ⟨0x55, 1, 1, 0, 1, 1, false⟩)] } }
     (s.l1At (3 * 2 ^ 59)).dirty ≠ 0) := by decide +kernel
/-- Nothing outstanding; every sector of the line clean; the first and the last of it dirty in the L2, in the L1; a line of another die. -/
theorem witness_FencesAndCacheHintsComplete :
    (valP base 0 = true ∧ base.me.waits = [] ∧ (base.core.ops.all fun o => o.ctx.val != 0) = true ∧ (∀ n : Fin 8, (base.me.chans.get n).state = .idle) ∧
      (∀ n : Fin 16, (base.me.ports.get n).unsent = []) ∧ base.me.streams = [] ∧ base.core.cur ≠ svc) ∧
    (let s := on (ys [(1, 2 ^ 52)])
     CacheLvl.l1 ≠ .ms ∧ s.dieOf (s.who s.core.cur).job ((valY s false 1).toNat / 2 ^ 52) ≠ .own) ∧
    (∀ j < 8, (base.l1At (lineKey base 0 j)).dirty = 0 ∧ (base.l2At (lineKey base 0 j)).dirty = 0) ∧
    (∀ i ∈ ([0, 7] : List Nat), let s := dirtyL2 i base
      i < 8 ∧ (∀ j < 8, j ≠ i → (s.l1At (lineKey s 0 j)).dirty = 0 ∧ (s.l2At (lineKey s 0 j)).dirty = 0) ∧ rising s.core.l1 = true ∧ rising s.cl.l2 = true ∧
      (s.l1At (lineKey s 0 i)).dirty = 0 ∧ (s.l2At (lineKey s 0 i)).dirty ≠ 0 ∧ s.dieOf (s.l2At (lineKey s 0 i)).job 0 = .own) ∧
    (let s : State := { base with core := { base.core with l1 := [(3 * 2 ^ 59 + 7, ⟨0x55, 1, 1, 0, 1, 1, false⟩)] } }
     (s.l1At (lineKey s 0 7)).dirty ≠ 0 ∧ s.cl.l2 = [] ∧ s.dieOf (s.l1At (lineKey s 0 7)).job 0 = .own ∧ (s.l1At (lineKey s 0 6)).dirty = 0) := by decide +kernel
/-- Two elements under a mask, within the buffer for the loads, on page 0 for the stores. -/
def vecSt : State := on fun c => ys [(2, 0), (3, 8)] (vs [(4, lanes 32 [0, 4])] { c with k := c.k.set 1 3, buf := [(0, ⟨0xFFFFFFFF, 5, false⟩)] })
def elems (addr : Nat → Nat) : List Piece := ((List.range 64).filter fun j => (valK vecSt 1).getLsbD j).map fun j => ⟨addr j / 32, addr j % 32, 4, 4 * j⟩
def vecOk (addr : Nat → Nat) : Bool := valP vecSt 0 && !((elems addr).any fun p => vecSt.loadWaits (p.sec * 32 + p.at_) 4) && reads vecSt 4 (elems addr) &&
  (vecSt.mirrorFrame vecSt.core.cur).isNone && decide ((vecSt.storeSpan vecSt.core.cur 4 (vecSt.me.v.get (vecHome vecSt false 1)).toNat (elems addr)).1 = .ok)
theorem witness_VectorMemoryResults : vecOk (elemContig vecSt false 2) = true ∧ vecOk (elemStride vecSt false 2 3) = true ∧ vecOk (elemGather vecSt false 2 4) = true := by decide +kernel

/-- The hypotheses of a tile fork in context 0. -/
def tileOk (s : State) (k : TileKind) : Bool :=
  let u := swapped s op1
  match u.tilePlan 0 k (u.me.m.get 1) (u.me.m.get 2) (u.me.h.get 0) with
  | .error _ => false
  | .ok p => valP s 0 && decide (s.core.cur = strandCtx 0) && !s.loadsOwed && (match k with | .mma f => !u.misses (u.who s.core.cur).vf (fmtClass f) | _ => true) &&
      decide ((u.tileWm s.core.cur p.dst).infl < 15) && (p.src.all fun t => decide ((u.tileWm s.core.cur t).infl < 15)) && (k == .zero || u.dispatchRoom) && decide (p.dst < 48) &&
      ((({ u with tags := u.tags + 1 } : State).popPlace p.a).any fun q => (q.2.popPlace p.b).isSome)
theorem witness_TileInstructionsFork :
    tileOk (tileSt 1 0x20 [4, 4, 4, 8, 8]) (.mma .bf16) = true ∧ tileOk (tileSt 3 0x100 [64, 64, 0, 256]) .load = true ∧ tileOk (tileSt 0 0x100 [1, 1, 0, 4]) .store = true ∧
    tileOk (tileSt 1 0x200 [2, 3]) .transpose = true ∧ tileOk (tileSt 1 0x200 [2, 3]) .addF32 = true ∧ tileOk (tileSt 1 0x200 [2, 3]) .addI32 = true ∧ tileOk (tileSt 1 0 []) .zero = true := by
  decide +kernel
/-- A strand that is not pinned; a tile past the partition, a reserved bit; an address off a multiple of 4; M, N at 0, 1, 64, 65, the pitch at 4 N and below it. -/
theorem witness_TileChecksAndErrors :
    (let s := on fun c => { c with strand := some { strand1 with pinned := false } }
     ¬ ((s.ctx (strandCtx 0)).strand.any fun t => t.pinned) = true) ∧
    (let s := eng id
     ((s.ctx (strandCtx 0)).strand.any fun t => t.pinned) = true ∧ s.tileOf 0 0x400 = none ∧ s.tileOf 0 0x300 = some 11 ∧ (0x102 : Word).toNat % 4 ≠ 0 ∧
     ((0x4000 : Word).toNat / 2 ^ 14 ≠ 0) ∧ ((0x20 : Word).toNat / 2 ^ 5 % 8 ≠ 0)) ∧
    (∀ p ∈ ([(0, 1, 4), (65, 1, 4), (1, 0, 4), (1, 65, 260), (1, 2, 4), (1, 1, 6)] : List (Nat × Nat × Nat)),
      ¬ (1 ≤ p.1 ∧ p.1 ≤ 64 ∧ 1 ≤ p.2.1 ∧ p.2.1 ≤ 64 ∧ 4 * p.2.1 ≤ p.2.2 ∧ p.2.2 % 4 = 0)) ∧
    (∀ p ∈ ([(1, 1, 4), (64, 64, 256)] : List (Nat × Nat × Nat)), 1 ≤ p.1 ∧ p.1 ≤ 64 ∧ 1 ≤ p.2.1 ∧ p.2.1 ≤ 64 ∧ 4 * p.2.1 ≤ p.2.2 ∧ p.2.2 % 4 = 0) ∧
    (let s := tileSt 4 0x100 [2, 2, 0, 8]
     valP s 0 = true ∧ s.core.cur = strandCtx 0 ∧ (match s.tilePlan 0 .load (s.me.m.get 1) (s.me.m.get 2) (s.me.h.get 0) with | .error e => e == 6 | .ok _ => false) = true) := by decide +kernel
theorem witness_TileProbesAndWaits :
    (let s := tileSt 1 0 []
     valP s 0 = true ∧ s.core.cur = strandCtx 0 ∧ (s.me.strand.any fun t => t.pinned) = true ∧ s.tileOf 0 (s.me.m.get 1) = some 9) ∧
    (let s := eng fun c => { c with waits := [.tile 9 none] }
     (s.ctx 0).waits = [.tile 9 none] ∧ (s.tileWm 0 9).infl = 0 ∧ (s.pumpOne 0).isSome = true) ∧
    (let s := eng fun c => { c with waits := [.allTiles] }
     (s.ctx 0).waits = [.allTiles] ∧ (s.pumpOne 0).isSome = true) := by decide +kernel
/-- The record of a copy fork, and whether its check passes. -/
def forkOf (s : State) (op : ChanOp) : Chan :=
  let pat := s.me.g.get 0
  let cb := s.me.c.get 2
  { Chan.reset with
    state := if op = .subs then .standing else .running, op := op, word := s.issue.word, ca := s.me.c.get 1, cb := cb, patNo := 0, pat := pat,
    rows := (pat.get 1).toNat * (pat.get 2).toNat, region := true, wm := if op = .mr ∨ op = .subs then 0 else cb,
    who := s.who s.core.cur, frame := s.mirrorFrame s.core.cur }
def copyOk (s : State) (op : ChanOp) : Bool :=
  valP s 0 && decide (s.core.cur = strandCtx 0) && decide ((s.me.chans.get 3).state = .idle) && !s.loadsOwed && (s.forkCheck 0 (forkOf s op)).isNone
/-- A subscription to `n` bytes of `a`: whether its check passes, the die of its source, whether that translates. -/
def subFrom (a : Nat) : State := copySt a 1 [64, 1, 4]
def subDie (s : State) : DieRef := s.dieOf (s.who 0).job ((forkOf s .subs).src 0 / 2 ^ 52)
def subOk (s : State) : Bool :=
  let x := forkOf s .subs
  copyOk s .subs && (frameSpan x.frame (x.src 0) x.esize).isNone
def subPlace (s : State) (full : Bool) : Bool :=
  let x := forkOf s .subs
  match ((if x.forkSeals true then s.seal s.core.cur else s).setChan 0 3 x).access x.who (x.src 0 % 2 ^ 52) .engRead x.esize with
  | (.ok (pa, _), u) =>
    let k := s.core.die.toNat * 2 + u.dm.stackOf pa
    decide (u.entriesOf k true + getAt 0 u.pk.entryElse (entryNo k true) < 64) != full
  | _ => false
theorem witness_CopyInstructions :
    copyOk (copySt 0 0x100 [64, 2, 3, 64, 128, 64, 128]) .mm = true ∧ copyOk (copySt 0 0 [64, 2, 2, 64, 128]) .mr = true ∧ copyOk (copySt 0 0x100 [65536, 1, 1]) .ms = true ∧
    copyOk (copySt 0 0x100 [1, 1, 1]) .sm = true ∧ copyOk (copySt 0 0x100 [64, 1, 1]) (.red .add32) = true ∧ copyOk (copySt 0 1 [64, 1, 4]) .subs = true ∧
    copyOk (copySt 0 0x100 [256, 1, 1]) .wload = true ∧ copyOk (copySt 0 0x100 [256, 1, 1]) .zb32 = true ∧
    ((copying.me.chans.get 3).state ≠ .idle ∧ copying.core.cur = strandCtx 0) ∧
    ({ on (fun c => { c with reqs := [⟨1, 0, 8, 0, .load [] none⟩] }) with issue := ⟨0, 0, 0, 0, 0, false, 2⟩ } : State).loadsOwed = true := by decide +kernel
/-- The source on this die, with an entry free and with none; on no die, on a departed one, on die 1 of a package of the group that is not this one. -/
theorem witness_CopyInstructions_subs :
    (subOk (subFrom 0) = true ∧ subDie (subFrom 0) = .own ∧ subPlace (subFrom 0) false = true) ∧ (subOk (subFrom (2 ^ 53)) = true ∧ subDie (subFrom (2 ^ 53)) = .bad) ∧
    (subOk (gone1 (subFrom (2 ^ 52))) = true ∧ subDie (gone1 (subFrom (2 ^ 52))) = .gone 7 1) ∧
    (let s : State := { subFrom 0 with pk := { base.pk with entryElse := [(entryNo 0 true, 64)] } }
     subOk s = true ∧ subPlace s true = true) ∧
    (let s := gone1 (subFrom (2 ^ 52))
     let s : State := { s with fi := { s.fi with table := some [0, 7] } }
     subOk s = true ∧ subDie s = .other 7 1 ∧ (7 : BitVec 16) ≠ s.fi.fid) := by decide +kernel
def standing (held : List (Nat × Nat)) (rows : Nat) : State := chSt { Chan.reset with state := .standing, op := .subs, held := held, rows := rows, pat := #v[64, 1, 4, 0, 0, 0, 0, 0] } id
theorem witness_CopyInstructions_drain :
    slotCheck (.subs cp) (copySt 0 1 [64, 1, 4]) = none ∧
    (let s := copySt 0 0x100 [64, 4, 1, 0, 0, 64]
     let u := s
     copyOk s .drn = true ∧ u.chanRing 0 (forkOf s .drn) = some 2 ∧ (u.ring 2).popDrain.isSome = true ∧ (({ u.ring 2 with filled := 0 } : Ring).popDrain).isNone = true) ∧
    slotCheck (.subsCancel 0 3) (standing [] 0) = none ∧ (standing [] 0).core.cur = strandCtx 0 ∧ valP (standing [] 0) 0 = true ∧
    ((standing [(0, 1)] 4).me.chans.get 3).state = .standing ∧ (((standing [(0, 1)] 4).me.chans.get 3).held.any fun e => !((standing [(0, 1)] 4).me.chans.get 3).stepDone e.1) = true := by decide +kernel
def stopped (k : Nat) (src : Bool) : State := chSt { Chan.reset with state := .stopped, fault := k, srcSide := src } hmode
theorem witness_ChannelWaitsAndFixes :
    (let s := on fun c => { c with waits := [.channel 3 (some 0)] }
     (s.ctx 0).waits = [.channel 3 (some 0)] ∧ (s.pumpOne 0).isSome = true) ∧
    (let s := chSt { Chan.reset with state := .running, wm := 8 } fun c => { c with waits := [.channel 3 (some 9)] }
     (s.ctx 0).waits = [.channel 3 (some 9)] ∧ (s.pumpOne 0).isSome = false) ∧
    (valP (stopped 5 true) 0 = true ∧ (stopped 5 true).me.hm = true ∧ (stopped 5 true).core.cur = strandCtx 0 ∧ ((stopped 5 true).me.chans.get 3).state = .stopped) ∧
    ((stopped 8 true).me.chans.get 3).fault = 8 ∧ ((stopped 6 true).me.chans.get 3).srcSide = true ∧ ((stopped 1 true).me.chans.get 3).fault = 1 ∧ (inHandler.me.chans.get 3).state ≠ .stopped := by
  decide +kernel
/-- The last eight bytes of the window, and a span past it. -/
theorem witness_ScaleResults :
    (let s := eng (es [(1, 0xFFE8)])
     valP s 0 = true ∧ s.window s.core.cur ((s.me.e.get 1).toNat / 8 % 2 ^ 18 * 8 + 8 * 2) 8 = some 0xFFF8 ∧ s.core.spadLost 0xFFF8 8 = false ∧
     s.window s.core.cur ((s.me.e.get 1).toNat / 8 % 2 ^ 18 * 8 + 8 * 3) 8 = none) := by decide +kernel
theorem witness_FabricWords :
    (valP base 0 = true ∧ (base.readX false 1).isSome = true ∧ (base.writeX false 3 5 2).isSome = true ∧ slotCheck (.qstat r2) base = none ∧ slotCheck (.grpq r2) base = none ∧
      slotCheck (.lstat r2) base = none ∧ slotCheck (.rflush 0) base = none ∧ slotCheck (.rwait 0) base = none ∧ slotCheck (.qwait 0) base = none ∧
      slotCheck (.jset ⟨false, 0, 1⟩) base = none ∧ slotCheck (.qmark ⟨false, 0, 1⟩) base = none ∧ base.fi.inGroup base.fi.leader = true ∧ base.isLeader = true) ∧
    (let s := on fun c => { c with waits := [.acks true], streams := [(1, 0)] }
     (s.ctx 0).waits = [.acks true] ∧ (s.pumpOne 0).isSome = true) ∧
    (let s := on fun c => { c with waits := [.acks true], streams := [(1, 1)] }
     (s.pumpOne 0).isSome = false) := by decide +kernel
/-- Context 0 runs task `i` of a table whose entry 0 goes forward and entry 1 backward, both with a stash, destination ring 3 of this core. -/
def task (i : Nat) : State :=
  let s := eng fun c => { c with strand := some { strand1 with task := some i } }
  { s with pk := { s.pk with pv := { s.pk.pv with
      table := [⟨2 ^ 51, 0, 2, 3⟩, ⟨2 ^ 62 + 2 ^ 51, 0, 2, 3⟩], ten := 2 ^ 32 + 1, up := 2 ^ 63, down := 2 ^ 63, loaded := true, base := 2 ^ 63, count := 2 } } }
theorem witness_PavaneWordResults :
    (valP (task 0) 0 = true ∧ ((task 0).readX false 0).isSome = true ∧ slotCheck (.pvpost ⟨false, 0, 0⟩) (task 0) = none ∧ (task 0).postCheck 0 0 = none ∧
      slotCheck (.pvstash ⟨false, 0, 0⟩) (task 0) = none ∧ (task 0).stashCheck 0 0xFF00 = none ∧ (task 0).postCheck 0 0xFF01 = some 9) ∧
    (slotCheck (.pvtake ⟨false, 0, 0⟩) (task 1) = none ∧ (task 1).takeCheck 0 1 = none) ∧
    slotCheck (.pvbub false 0 3 .input) base = none ∧ slotCheck (.pvstat false 0 3) base = none ∧ (base.writeX false 3 5 2).isSome = true := by decide +kernel

/-- A vector register, and a ring bound to z1 as the source. -/
def vfrom (s : State) (raw : BitVec 5) : Bool := match s.readV false raw with | some (.val _, _) => true | _ => false
theorem val_of {s : State} {raw : BitVec 5} (h : vfrom s raw = true) : ∃ a s1, s.readV false raw = some (.val a, s1) := by
  unfold vfrom at h
  split at h
  · rename_i a s1 e; exact ⟨a, s1, e⟩
  · cases h
theorem witness_VectorArithmeticResults : (∃ a s1, (v12 32 [1] [2]).readV false 1 = some (.val a, s1)) ∧ (∃ a s1, (eng id).readV false 25 = some (.val a, s1)) ∧
    LaneType.f32 ∈ intTypes ++ fltTypes ∧ LaneType.f16 ∈ fltTypes ∧ LaneType.i8 ∈ signedTypes ++ fltTypes ∧ LaneType.n64 ∈ intTypes :=
  ⟨val_of (by decide +kernel), val_of (by decide +kernel), by decide, by decide, by decide, by decide⟩
theorem witness_VectorBitResults : (∃ a s1, (v12 32 [1] [2]).readV false 1 = some (.val a, s1)) ∧ LaneType.e8m0 ∈ allTypes ∧ LaneType.n64 ∈ ([.i64, .n64] : List LaneType) :=
  ⟨val_of (by decide +kernel), by decide, by decide⟩
theorem witness_VectorPermuteResults : ∃ a s1, (v12 32 [1] [2]).readV false 1 = some (.val a, s1) := val_of (by decide +kernel)
theorem witness_VectorReductionResults : (∃ a s1, (v12 32 [1] [2]).readV false 1 = some (.val a, s1)) ∧ LaneType.bf16 ∈ intTypes ++ fltTypes ∧ LaneType.n64 ∈ intTypes ∧ (0 : Nat) / 2 ^ 484 = 0 :=
  ⟨val_of (by decide +kernel), by decide, by decide, Nat.zero_div _⟩
theorem witness_VectorCompareMaskResults : (∃ a s1, (v12 32 [1] [2]).readV false 1 = some (.val a, s1)) ∧ LaneType.b8 ∈ LaneType.b8 :: intTypes ∧ LaneType.f16 ∈ fltTypes ∧
    (∀ p ∈ ([(.i64, .f16), (.e8m0, .f32), (.e2m1, .i64), (.f32, .e8m0)] : List (LaneType × LaneType)), p.1 ≠ .b8 ∧ p.2 ≠ .b8 ∧ (p.1 ∉ intTypes ∨ p.2 ∉ intTypes)) ∧ (base.writeX false 3 5 3).isSome = true :=
  ⟨val_of (by decide +kernel), by decide, by decide, by decide, by decide +kernel⟩
/-- The least number of each kind, and finite encodings at both ends. -/
theorem witness_RoundingIsNearestEven : fp32 ∈ formats ∧ e2m1 ∈ formats ∧ (1 : Nat) ≠ 0 ∧ isFin fp32 0x7F7FFFFF ∧ isFin fp32 0x80000001 ∧ isFin bf16 0xFF7F ∧
    fp16 ∈ ([fp32, fp16, bf16] : List FloatFmt) := by unfold isFin formats; decide

/-! ### Events: the hypotheses of their statements, and one step of each -/

def asy : Async := ⟨⟨12, 6, 3, 0xB0000000, 0x44, Vector.replicate 8 0⟩, none, 0, 0⟩
/-- Every context holds a strand, and a record of priority 4 waits; context 1 was asked to leave at die cycle 0. -/
def rec1 : QRec := ⟨0x3000, 1, 4, 0, none, none, .kernel, 0, 0, 5, false⟩
def busy : State :=
  let x : Ctx := { base.ctx 0 with strand := some { strand1 with prio := 2 } }
  let s : State := { base with core := { base.core with ctxs := (Vector.replicate 5 x).set 4 (base.ctx 4) } }
  { s with dl := { s.dl with records := [rec1], dcyc := 2 ^ 16, subs := [⟨5, 0, 1, 1, 0x1000, 2, 0, 0, none, [], [], false⟩] } }
def evicting : State := busy.setCtx 1 { busy.ctx 1 with evict := some 0, buf := [(0, ⟨1, 5, false⟩)] }
theorem witness_TrapAndSelectorEvents :
    (base.core.cur ≠ svc ∧ base.me.hm = false) ∧
    (let x := (on fun c => { c with asyncs := [asy] }).ctx (strandCtx 0)
     x.strand.isSome = true ∧ x.hm = false ∧ x.svcHeld = false ∧ x.asyncs = [asy] ∧ asy.caps = none) ∧
    (let s : State := { base with core := { base.core with irq := true } }
     s.core.irq = true ∧ (s.ctx svc).hm = false) ∧
    (4096 ≤ (on fun c => { c with quota := 4096 }).me.quota) ∧
    (let s : State := { on (fun c => { c with svcHeld := true, entryPc := 8, xferAt := true }) with core := { (on fun c => { c with svcHeld := true, entryPc := 8, xferAt := true }).core with svcEn := true } }
     (0 : Fin 4).val = s.core.selReg.toNat ∧ s.core.svcEn = true ∧ (s.ctx (strandCtx 0)).svcHeld = true) ∧
    ((busy.ctx (strandCtx 1)).strand = some { strand1 with prio := 2 } ∧ (busy.ctx (strandCtx 1)).evict = none ∧ (busy.ctx (strandCtx 1)).waits = [] ∧ (∀ d : Fin 4, (busy.ctx (strandCtx d)).strand.isSome = true) ∧
      rec1 ∈ busy.dl.records ∧ rec1.place = none ∧ 2 + 2 ≤ min 7 (rec1.prio.toNat + (busy.dl.dcyc.toNat - rec1.since) / 2 ^ 20)) ∧
    (let x := evicting.ctx (strandCtx 1)
     x.strand.isSome = true ∧ x.evict = some 0 ∧ 0 + 2 ^ 16 ≤ evicting.dl.dcyc.toNat ∧ x.sealed = false ∧ x.mirrorAct = false ∧ x.waits = [] ∧ x.aside = [] ∧
       x.streams = [] ∧ evicting.core.l1 = [] ∧ evicting.cl.l2 = []) ∧
    (let s := evicting.setCtx 1 { evicting.ctx 1 with streams := [(1, 2)] }
     ((s.ctx (strandCtx 1)).streams.any fun e => e.2 != 0) = true ∧ s.core.l1 = [] ∧ s.cl.l2 = []) := by decide +kernel
theorem test_trap_events :
    ran (.illegalInstruction 0 2 0x7BFFFFFF) base (fun t => (t.ctx 0).hm && (t.ctx 0).trapCause == 0x20001) = true ∧
    ran (.illegalBundle 7 1 0xFC000001) base (fun t => (t.ctx 0).trapCause == 0x10702) = true ∧ ran (.fetchBoundTrap 0 0 0x8000) base (fun t => (t.ctx 0).trapAddr == 0x8000 && (t.ctx 0).trapCause % 256 == 3) = true ∧
    ran (.asyncTrapEntry 0) (on fun c => { c with asyncs := [asy] }) (fun t => (t.ctx 0).hm && (t.ctx 0).asyncs.isEmpty && (t.ctx 0).trapCause == 0x60B0C) = true ∧
    ran .interrupt { base with core := { base.core with irq := true } } (fun t => t.core.cur == svc && (t.ctx svc).hm && !t.core.irq) = true ∧
    ran .issueQuotaSwitch (on fun c => { c with quota := 4096 }) (fun t => t.core.cur == 1 && (t.ctx 0).quota == 0) = true ∧
    ran (.evictionRequest 1) busy (fun t => (t.ctx 1).evict == some (2 ^ 16)) = true ∧ ran (.evictionTimeout 1) evicting (fun t => (t.ctx 1).strand.isNone && t.dl.records.length == 2) = true := by decide +kernel
/-- A record at 0x3000 that resumes at 0x40, native, of ASID 3, tenant 1, job 1; a launch record behind it. -/
def starting : State :=
  let s := (((base.devPut 0x3000 (BitVec.ofNat 64 (3 * 2 ^ 51 + 2 ^ 45 + 0x8100000040))).devPut 0x3008 (BitVec.ofNat 64 (2 ^ 52 + 0x1000))).devPut 0x3010 (2 ^ 32 + 7)).devPut 0x3018 99
  { s with
    core := { s.core with arenaBase := s.core.arenaBase.set 1 0x8100000000, arenaBound := s.core.arenaBound.set 1 0x8100001000 }
    dl := { s.dl with records := [rec1], subs := [⟨5, 0, 1, 1, 0x1000, 2, 0, 0, none, [], [], false⟩], vfs := [(1, { VFn.reset with en := true })] } }
theorem witness_TrapAndSelectorEvents_start : (starting.nextRecord 1).isSome = true := by decide +kernel
theorem test_strand_start : ran (.strandStart 1) starting (fun t => let c := t.ctx 1
    c.pc == 0x8100000040 && c.nat && c.x.get 1 == 99 && (c.strand.map (·.iter)) == some 7 && t.dl.records.isEmpty) = true ∧
    ran (.resumeWrite 0x8100000010) { (on fun c => { c with svcHeld := true }) with core := { (on fun c => { c with svcHeld := true }).core with svcEn := true } }
      (fun t => !(t.ctx 0).svcHeld && (t.ctx 0).pc == 0x8100000010) = true := by decide +kernel

/-- Partitions: the whole of the storage, and one block past it; ranges that meet and do not overlap those of context 0. -/
def pA (acc accCnt wb wbCnt : Nat) : Word := BitVec.ofNat 64 (wbCnt * 2 ^ 32 + wb * 2 ^ 16 + accCnt * 2 ^ 8 + acc)
theorem partOk_of {s : State} {c : Fin 4} {b : Bool} {v : Word} (h1 : s.ctxCode c = 0) (h2 : ∀ r ∈ partRanges b v, r.1 + r.2.1 ≤ r.2.2)
    (h3 : ∀ d : Fin 4, d ≠ c → ∀ k : Fin 2, (match (partRanges b v)[k]?, (partRanges b (if b then s.core.partB.get d else s.core.partA.get d))[k]? with
      | some r, some q => decide (r.2.1 = 0 ∨ q.2.1 = 0 ∨ r.1 + r.2.1 ≤ q.1 ∨ q.1 + q.2.1 ≤ r.1)
      | _, _ => true) = true) : PartOk s c b v := by
  refine ⟨h1, h2, fun d hd k r q hr hq => ?_⟩
  have := h3 d hd k
  rw [hr, hq] at this
  simpa using this
theorem witness_ConfigurationEvents_partition :
    PartOk (eng id) 1 false (pA 12 36 64 960) ∧ PartOk (eng id) 1 true (BitVec.ofNat 64 (256 * 2 ^ 45 + 256 * 2 ^ 32 + 2 * 2 ^ 5 + 6)) ∧ (eng id).ctxCode 0 ≠ 0 :=
  ⟨partOk_of (by decide +kernel) (by decide +kernel) (by decide +kernel), partOk_of (by decide +kernel) (by decide +kernel) (by decide +kernel), by decide +kernel⟩
theorem test_partition : ran (.partitionWrite 1 false (pA 12 36 64 960)) (eng id) (fun t => t.core.partA.get 1 == pA 12 36 64 960) = true ∧
    idle (.partitionWrite 1 false (pA 11 36 64 960)) (eng id) = true ∧ idle (.partitionWrite 0 false 0) (eng id) = true := by decide +kernel
/-- The word of the example of R140: ring 3, four slots of 1 KiB at 0x40000, through z2, by context 1. -/
def ringWord : Word := BitVec.ofNat 64 (2 ^ 63 + 2 ^ 58 + 2 * 2 ^ 54 + 3 * 2 ^ 42 + 3 * 2 ^ 34 + 0x400)
def ringSt : State := { base with core := { base.core with partB := base.core.partB.set 1 (BitVec.ofNat 64 (256 * 2 ^ 45 + 0x400 * 2 ^ 32 + 4 * 2 ^ 5)) } }
theorem witness_ConfigurationEvents_ring :
    ((ringSt.ring 3).en = false ∧ ringWord.toNat.testBit 63 = true ∧ ringSt.ringError 3 (Ring.ofWord ringWord true) = 0) ∧
    (((eng id).ring 2).en = true ∧ ringWord.toNat.testBit 63 = true) ∧
    (let r := { (eng id).ring 2 with filled := 0, head := 2 }
     (0 : Word).toNat.testBit 63 = false ∧ ((eng id).setRing 2 r).ringBusy 2 = false ∧ r.en = true) ∧
    (let r := { (eng id).ring 2 with tail := 3, free := 1 }
     r.en = true ∧ r.filled < r.span ∧ r.done = []) := by decide +kernel
theorem test_ring_events :
    ran (.ringConfigWrite 3 ringWord) ringSt (fun t => (t.ring 3).en && (t.ring 3).z == 2 && (t.ring 3).free == 4 && (t.ring 3).err == 0) = true ∧
    ran (.ringConfigWrite 2 ringWord) (eng id) (fun t => (t.ring 2).err == 5 && (t.ring 2).filled == 2) = true ∧
    ran (.ringSlotComplete 2 2) ((eng id).setRing 2 { (eng id).ring 2 with tail := 3, free := 1 }) (fun t => (t.ring 2).filled == 3) = true := by decide +kernel
def dirtyL1 : State := { base with core := { base.core with l1 := [(3 * 2 ^ 59 + 4, ⟨0x55, 3, 1, 0, 1, 1, false⟩)] } }
/-- Context 1 has a code arena of 4 KiB. -/
def arena : State := { base with core := { base.core with arenaBase := base.core.arenaBase.set 1 0x8100000000, arenaBound := base.core.arenaBound.set 1 0x8100001000 } }
theorem witness_ConfigurationEvents :
    (base.dl.vf 1).flr = false ∧
    (let p := base.port (strandCtx 1) 15
     base.ctxCode 1 = 0 ∧ p.pushed = [] ∧ p.unsent = [] ∧ p.queue = [] ∧ (0x8000000000000000 : Word).toNat.testBit 63 = true) ∧
    (lookup dirtyL1.core.l1 (3 * 2 ^ 59 + 0x80 / 32) = some ⟨0x55, 3, 1, 0, 1, 1, false⟩ ∧ rising dirtyL1.core.l1 = true) ∧
    (rising base.cl.l2 = true ∧ (base.l2At (3 * 2 ^ 59 + 4)).dirty = 0) ∧
    (let s := dirtyL2 4 base
     rising s.cl.l2 = true ∧ (s.l2At (3 * 2 ^ 59 + 4)).dirty ≠ 0 ∧ (s.l2At (3 * 2 ^ 59 + 4)).valid ≠ 0 ∧ (s.l2At (3 * 2 ^ 59 + 4)).poison = false ∧
       s.dieOf (s.l2At (3 * 2 ^ 59 + 4)).job (0x80 / 2 ^ 52) = .own) ∧
    base.pk.fail = 0 ∧ ({ base.pk with fail := 1 } : Package).fail ≠ 0 ∧
    (arena.fetchable 1 (0x81000000 * 256) = true ∧ arena.core.icache.length < 8 ∧ ∀ c : Fin 5, arena.fetchable c (0x200 * 256) = false) := by decide +kernel
theorem test_register_events :
    ran (.registerWrite .service 0x104 0x8000000000000002) base (fun t => t.core.svcEn && t.core.selReg == 2) = true ∧
    ran (.registerWrite (.ctx 2) 0x01D 0xFFFFFFFFFFFFFFFF) base (fun t => (t.ctx 2).trapVec == 0xFFFFFFFFFD) = true ∧
    ran (.portBindWrite 1 15 0x8001123400050000) base (fun t => ((t.ctx 1).ports.get 15).bound && ((t.ctx 1).ports.get 15).peer.port == 5 && ((t.ctx 1).ports.get 15).cred == 64) = true ∧
    ran (.coreStorageError .scratchpad 4 true) base (fun t => t.core.coreErr == 1 && t.core.flaws.isEmpty) = true ∧
    ran (.coreStorageError .scratchpad 0x1000 false) { base with core := { base.core with retired := true } } (fun t => t.core.flaws == [⟨.scratchpad, 0x1000⟩] && t.core.coreErr == 0x201010000) = true ∧
    ran (.icacheFill 0x81000000) arena (fun t => t.core.icache.length == 1) = true ∧ idle (.icacheFill 0x200) arena = true ∧
    ran (.cacheWriteback false 3 0x80) dirtyL1 (fun t => t.core.l1.isEmpty && (t.cl.l2.map (·.2.dirty)) == [1]) = true ∧
    ran (.cacheWriteback true 3 0x80) (dirtyL2 4 base) (fun t => (t.cl.l2.map (·.2.dirty)) == [0] && memAt t 0x20080 1 == [0x55]) = true := by decide +kernel

/-- A tile operation of context 0 on tile 9, of the given kind and progress. -/
def opRec (k : TileKind) (count row : Nat) : TileRec :=
  ⟨5, 0, k, 0xB0048800, 0x100, 0, 0, false, #v[2, 2, 0, 8, 0, 0, 0, 0], Vector.replicate 32 0, none, none, 9, none, false, count, row, none, false, true, false, none, [], [], ⟨false, 3, 1, 1, 0x2000⟩, none, 0⟩
def opSt (o : TileRec) : State :=
  let s := eng id
  { s with core := { s.core with ops := [o], accLast := s.core.accLast.set 9 5, acc := [(9 * 4096 + 3, 7)] } }.setTileWm 0 9 ⟨0, o.count, 1, o.row⟩
theorem witness_TileEvents :
    (let s := opSt (opRec .load 2 0)
     let o := opRec .load 2 0
     s.core.ops = [o] ∧ o.engine = none ∧ o.placeholder = false ∧ o.kind ≠ .zero ∧ (0 : Fin 16).val = 2 * s.core.core.toNat ∧
     (s.vmask o.who.vf).toNat.testBit 0 = true ∧ (s.vmask o.who.vf).toNat.testBit (16 + o.kind.cls) = true ∧
     (s.cl.engines.get 0).bmap.toNat.testBit o.kind.cls = true ∧ (s.cl.engines.get 0).state = 0 ∧ (s.cl.engines.get 0).queued = 0) ∧
    (let s := opSt (opRec .zero 64 63)
     let o := opRec .zero 64 63
     SMap.wf (0 : Word32) s.core.acc = true ∧ s.core.ops = [o] ∧ o.kind = .zero ∧ o.placeholder = false ∧ o.asked = [] ∧ o.row < o.count ∧ o.result = none ∧ o.dst < 48 ∧
       s.rowLost o o.row = false) ∧
    (let o := opRec .zero 64 64
     (opSt o).core.ops = [o] ∧ o.placeholder = false ∧ o.count ≤ o.row ∧ o.src = none ∧ o.dst < 48 ∧ o.tiles = [o.dst] ∧ o.engine = none) ∧
    ((opSt (opRec .zero 64 64)).lastOf (strandCtx 0) 9 = 5 ∧ ({ opRec .zero 64 64 with id := 4 } : TileRec).id ≠ 5) := by decide +kernel
def bytesOk (r : RowRead) (n : Nat) : Bool := match r with | .bytes l => l.length == n | _ => false
theorem row_runs {s : State} {o : TileRec} (h : SMap.wf (0 : Word32) s.core.acc = true ∧ s.core.ops = [o] ∧ o.placeholder = false ∧ o.engine.isSome = true ∧ o.asked = [] ∧ o.row < o.count ∧
    o.row < 64 ∧ o.dst < 48 ∧ (o.src.all fun t => decide (t < 48)) = true ∧ o.frame = none ∧ (o.shape.get 0).toNat ≤ 64 ∧ (o.shape.get 1).toNat ≤ 64 ∧ s.rowLost o o.row = false ∧
    o.result ≠ some []) : RowRuns s o := by
  obtain ⟨a, b, c, d, e, f, g, i, j, k⟩ := h
  exact ⟨a, b, c, d, e, f, g, i, fun t ht => by simpa [ht] using j, k⟩
/-- A row of each kind, on engine 0: an MMA of two rows, two columns and 32 terms from slot 0 of ring 2, with B in the weight buffer or in slot 1 of the ring. -/
def mmaRec (f : MmaFmt) (mb : Word) : TileRec :=
  { opRec (.mma f) 2 1 with engine := some 0, mb := mb, aSlot := some (2, 0), bSlot := some (2, 1), shape := #v[2, 2, 32, 32, 32, 0, 0, 0] }
def srcRec (k : TileKind) (row : Nat) (r : Option (List Word32)) : TileRec := { opRec k 2 row with engine := some 0, src := some 8, result := r }
def memRec (k : TileKind) : TileRec := { opRec k 2 0 with engine := some 0, mb := 0 }
theorem witness_TileEvents_rows :
    RowRuns (opSt (mmaRec .i8 0)) (mmaRec .i8 0) ∧ RowRuns (opSt (mmaRec .mxfp4 0x20)) (mmaRec .mxfp4 0x20) ∧ RowRuns (opSt (srcRec .transpose 0 none)) (srcRec .transpose 0 none) ∧
    RowRuns (opSt (srcRec .addF32 1 (some [1, 2, 3, 4]))) (srcRec .addF32 1 (some [1, 2, 3, 4])) ∧ RowRuns (opSt (memRec .load)) (memRec .load) ∧ RowRuns (opSt (memRec .store)) (memRec .store) ∧
    ((mmaRec .i8 0).result = none ∧ (mmaRec .i8 0).mb.toNat.testBit 5 = false ∧ (mmaRec .mxfp4 0x20).mb.toNat.testBit 5 = true ∧ ((mmaRec .i8 0).shape.get 2).toNat % 2 = 0 ∧
      ((mmaRec .mxfp4 0x20).shape.get 2).toNat % 32 = 0 ∧ ((mmaRec .mxfp4 0x20).shape.get 1).toNat % 2 = 0) ∧
    (((srcRec .transpose 0 none).shape.get 1).toNat = 2 ∧ ([1, 2, 3, 4] : List Word32).length = 2 * 2) ∧
    (let s := withMem (opSt (memRec .load)) 0x20000 [0, 0, 0x40, 0x40, 0, 0, 0x80, 0x40]
     (memRec .load).buf = [] ∧ bytesOk (s.engRead (memRec .load).who .engRead 8 none (rowPieces 0 8)).1 8 = true) ∧
    (let s := opSt (memRec .store)
     (∀ p ∈ rowPieces 0 8, s.dieOf 1 (p.sec / 2 ^ 47) = .own) ∧ (s.ctx 0).waits = [] ∧ (s.ctx 0).aside = [] ∧ (memRec .store).who.job = 1 ∧
       (s.storeFor 0 (memRec .store).who none false 4 (7 * 2 ^ 32) (rowPieces 0 8)).1 = .ok) :=
  by refine ⟨?_, ?_, ?_, ?_, ?_, ?_, by decide +kernel⟩ <;> exact row_runs (by decide +kernel)
theorem test_tile_rows :
    ran (.tileRowFinal 5) (opSt { srcRec .addI32 0 none with src := some 9 }) (fun t => t.accGet 9 0 3 == 7) = true ∧
    ran (.tileRowFinal 5) (opSt (memRec .store)) (fun t => (t.core.ops.map (·.row)) == [1] && !(t.ctx 0).buf.isEmpty) = true := by decide +kernel
theorem test_tile_events :
    ran .tileDispatch (opSt (opRec .load 2 0)) (fun t => (t.core.ops.map (·.engine)) == [some 0] && (t.cl.engines.get 0).queued == 1) = true ∧
    ran (.tileRowFinal 5) (opSt (opRec .zero 64 0)) (fun t => t.accGet 9 0 3 == 0 && (t.tileWm 0 9).wm == 1) = true ∧
    ran (.tileOpRetire 5) (opSt (opRec .zero 64 64)) (fun t => t.core.ops.isEmpty && (t.tileWm 0 9).infl == 0 && (t.tileWm 0 9).wm == 64) = true := by decide +kernel
/-- A TLOAD row of two elements comes from memory at latency of its own: 3.0 and 4.0 (the bits of the example of R230). -/
theorem test_tload_row : ran (.tileRowFinal 5) (withMem (opSt { opRec .load 1 0 with engine := some 0, mb := 0 }) 0x20000 [0, 0, 0x40, 0x40, 0, 0, 0x80, 0x40])
    (fun t => t.accGet 9 0 0 == 0x40400000 && t.accGet 9 0 1 == 0x40800000) = true := by decide +kernel

/-! A channel of context 0 in each role: a copy into the scratchpad, a subscription, a drain, a weight load. -/
def chRun (o : ChanOp) (st : ChanState) (a b rows : Nat) (pat : List Nat) : State :=
  chSt { Chan.reset with state := st, op := o, installed := true, who := ⟨false, 3, 1, 1, 0x2000⟩, ca := BitVec.ofNat 64 a, cb := BitVec.ofNat 64 b, rows := rows, pat := Vector.ofFn fun i => BitVec.ofNat 32 (pat.getD i.val 0) } id
def msSt : State := withMem (chRun .ms .running 0x40 0x80 1 [4, 1, 1]) 0x20040 [1, 2, 3, 4]
def subSt : State := withMem (chRun .subs .standing 0x40 0 2 [4, 1, 2, 0, 64]) 0x20040 [1, 2, 3, 4]
def drnSt : State := chRun .drn .running 0 0x100 2 [64, 1, 2, 0, 0, 0, 64]
def wlSt : State := withMem (chRun .wload .running 0x20040 0x100 1 [512, 1, 1]) 0x40040 [1, 2, 3, 4]
theorem witness_CopyEvents :
    (let x := msSt.chan 0 3
     Memory.wf msSt.core.spad = true ∧ x.state = .running ∧ x.op = .ms ∧ x.parked = false ∧ x.done = [] ∧ x.sent = [] ∧ x.asked = [] ∧ x.buf = [] ∧ 0 < x.esize ∧ x.complete < x.rows ∧
       bytesOk (msSt.rowSource 0 x x.complete none).1 4 = true ∧ msSt.window (strandCtx 0) (x.dst x.complete) x.esize = some 0x80 ∧ x.state = .running) ∧
    (let x := subSt.chan 0 3
     x.state = .standing ∧ x.op = .subs ∧ x.installed = true ∧ x.parked = false ∧ x.done = [] ∧ x.held = [] ∧ x.sent = [] ∧ x.asked = [] ∧ x.buf = [] ∧ x.n1 = 1 ∧ 0 < x.esize ∧ x.complete < x.rows ∧
       subSt.dieOf x.who.job (x.src 0 / 2 ^ 52) = .own ∧ subSt.chanRing 0 x = some 2 ∧ ((subSt.ring 2).claim.map (·.1)) = some 2 ∧ x.esize ≤ (subSt.ring 2).bytes) ∧
    (let x := drnSt.chan 0 3
     x.op = .drn ∧ x.state = .running ∧ x.installed = true ∧ x.parked = false ∧ x.nextStep < x.n2 ∧ drnSt.chanRing 0 x = some 2 ∧ (drnSt.ring 2).filled ≠ 0) ∧
    (let x := wlSt.chan 0 3
     Memory.wf wlSt.core.wbuf = true ∧ x.op = .wload ∧ x.state = .running ∧ x.parked = false ∧ x.asked = [] ∧ x.out + 256 < x.esize ∧ x.patch = none ∧
       (∀ k : Fin 8, k < 3 → (wlSt.chan 0 k).op ≠ .wload ∧ (wlSt.chan 0 k).op ≠ .zb32) ∧
       ((wlSt.weightIn 0 3 ((x.src x.row + x.out) % 2 ^ 64) 256 0).1.any fun l => l.length == 256) = true) := by decide +kernel
theorem witness_CopyEvents_claim : (let x := subSt.chan 0 3
    let y := { x with held := [(x.complete, 2)] }
    ((subSt.ring 2).claim.any fun p => bytesOk (((subSt.setRing 2 p.2).setChan 0 3 y).rowSource 0 y x.complete none).1 4) = true ∧
      x.src x.complete / 2 ^ 52 = x.src 0 / 2 ^ 52) := by decide +kernel
def rowMsg : CopyMsg := ⟨far1, true, 1, 1, 3, 0x40, [1, 2, 3], none, true, 7⟩
theorem witness_CopyEvents_segment :
    rowMsg.red = none ∧ rowMsg.last = true ∧ rowMsg.remote = true ∧ (getAt RStream.none base.fi.rstreams (rowStreamKey rowMsg.src)).unacked = 0 ∧
    (base.engProbe (whoOf rowMsg.asid rowMsg.vf rowMsg.job) .engWrite 3 (rowPieces ((base.ownLdie rowMsg.job).toNat * 2 ^ 52 + rowMsg.off) 3)).1 = none := by decide +kernel
theorem test_copy_events :
    ran (.copyRowComplete 0 3 0) msSt (fun t => (List.range 4).map (fun i => Memory.get t.core.spad (0x80 + i)) == [1, 2, 3, 4] && (t.chan 0 3).state == .idle && (t.chan 0 3).wm == 0x84) = true ∧
    ran (.copyFault 0 3 0 5 0x40 0) msSt (fun t => (t.chan 0 3).state == .stopped && (t.ctx 0).asyncs.map (fun a => (a.trap.cause, a.trap.sub)) == [(11, 5)]) = true ∧
    ran (.subscriptionClaim 0 3) subSt (fun t => Memory.get t.core.spad 0x1201 == 2 && (t.ring 2).tail == 3 && (t.chan 0 3).complete == 1) = true ∧
    ran (.drainSlotPop 0 3) drnSt (fun t => (t.ring 2).head == 1 && (t.ring 2).filled == 1 && (t.ring 2).held == 0) = true ∧
    ran (.decompressorGrant 0 3) wlSt (fun t => Memory.get t.core.wbuf 0x101 == 2 && (t.chan 0 3).out == 256 && t.cl.grant == 0) = true ∧
    ran (.copyRowSegment rowMsg) base (fun t => memAt t 0x20040 4 == [1, 2, 3, 0] && (t.fi.job 1).c == 1 && t.fi.outbox.length == 1) = true := by decide +kernel

/-- A load of context 0 that waits for 8 bytes of request 9; the reply fills it. -/
def waitingFor (k : ReqKind) (f : Ctx → Ctx) : State := on fun c => f { c with pend := [⟨4, 6, .yload 3 0 8 false, [9]⟩], reqs := [⟨9, 4, 8, 0x10000000000000, k⟩] }
def whole : ReqKind := .load [⟨0, 8, 0⟩] (some 1)
def waiting : State := waitingFor whole id
def eight : List Byte := [1, 2, 3, 4, 5, 6, 7, 8]
def storeMsg : StoreMsg := ⟨far1, true, 1, 1, 3, 0x40, 0x3, 0x0605, false, false⟩
def atomMsg : AtomicMsg := ⟨far1, true, 1, 1, 3, 0x40, 0, false, 2, 0, 9⟩
def readMsg : ReadMsg := ⟨far1, 1, 1, 3, 0x40, 8, false, false, 9⟩
def flightSt : State := { on (fun c => { c with outst := 1, streams := [(1, 1)] }) with core := { (on fun c => { c with outst := 1, streams := [(1, 1)] }).core with flying := [⟨1, 0, 0x10000000000000, 3 * 2 ^ 59 + 2 ^ 47, 1, true⟩] } }
def rsSt : State := { base with fi := { base.fi with rstreams := [(streamKey far1, ⟨5, 2, 0⟩)], jobs := [(1, { Job.reset with i := 1 })] }, dl := { base.dl with dcyc := 4096 } }
theorem witness_MemoryEvents :
    (waiting.findReq 9 = some (0, ⟨9, 4, 8, 0x10000000000000, whole⟩) ∧ (waiting.ctx 0).strand = some strand1 ∧ (waiting.ctx 0).sealed = false ∧ (2 : Nat) ≠ 0 ∧
      eight[8]? = none ∧ (eight ++ [0])[8]? = some 0 ∧ waiting.core.flying = [] ∧ (waiting.ctx 0).streams = [] ∧ waiting.core.l1 = [] ∧ waiting.cl.l2 = [] ∧ (waiting.ctx 0).pend = [⟨4, 6, .yload 3 0 8 false, [9]⟩]) ∧
    (let s := waitingFor (.atomic true) fun c => { c with sealed := true }
     s.findReq 9 = some (0, ⟨9, 4, 8, 0x10000000000000, .atomic true⟩) ∧ (s.ctx 0).strand = some strand1 ∧ (s.ctx 0).sealed = true ∧ (s.ctx 0).streams = []) ∧
    (let s := waitingFor whole fun c => { c with sealed := true, streams := [(1, 1)] }
     (s.ctx 0).strand = some strand1 ∧ (s.ctx 0).sealed = true ∧ ((s.ctx 0).streams.any fun e => e.2 != 0) = true) ∧
    (let s := waitingFor .probe fun c => { c with buf := [(2 ^ 47, ⟨1, 5, false⟩)] }
     s.findReq 9 = some (0, ⟨9, 4, 8, 0x10000000000000, .probe⟩) ∧ lookup (s.ctx 0).buf ((0x10000000000000 : Word).toNat / 32) = some ⟨1, 5, false⟩ ∧
       (1 : Byte) ∈ ([1] : List Byte) ∧ (1 : Byte) ≠ 0) ∧
    (Memory.wf base.dm.mem = true ∧ storeMsg.remote = true ∧ storeMsg.flush = false ∧ (base.rstream storeMsg.src).unacked < 63 ∧
      (match (base.access (whoOf storeMsg.asid storeMsg.vf storeMsg.job) (storeMsg.off / 32 * 32) .store 8).1 with | .ok p => !inMmio p.1 && (base.dm.backing (p.1 / 32 * 32)).isSome && base.dm.plain (base.tagFor p.1 p.2) (p.1 / 32) | .error _ => false) = true ∧
      storeMsg.mask.getLsbD 1 = true ∧ storeMsg.mask.getLsbD 2 = false) ∧
    (atomMsg.remote = true ∧ (match (base.homeAtomic (whoOf atomMsg.asid atomMsg.vf atomMsg.job) atomMsg.off atomMsg.axch atomMsg.f atomMsg.w atomMsg.e).1 with | .ok o => o == 0 | .error _ => false) = true ∧
      base.dieOf 1 far1.ldie.toNat = .other 0 1) ∧
    (0 < readMsg.len ∧ (match (base.homeSpan (whoOf readMsg.asid readMsg.vf readMsg.job) (ReadMsg.kind readMsg) readMsg.len (pieces 64 readMsg.off readMsg.len 0)) with
      | (.ok b, u) => b.length == 8 && decide (u.dieOf 1 far1.ldie.toNat = .other 0 1) &&
          (match (u.access (whoOf 3 1 1) readMsg.off .load 1).1 with | .ok _ => true | .error _ => false)
      | _ => false) = true) ∧
    (match (base.access (whoOf 3 1 1) 0x40 (ReadMsg.kind { readMsg with len := 0 }) 1) with | (.ok _, u) => decide (u.dieOf 1 far1.ldie.toNat = .other 0 1) | _ => false) = true ∧
    (flightSt.core.flying = [⟨1, 0, 0x10000000000000, 3 * 2 ^ 59 + 2 ^ 47, 1, true⟩] ∧ flightSt.dl.shootOwed = [] ∧ rising flightSt.cl.l2 = true) ∧
    (let r := rsSt.rstream far1
     SMap.wf RStream.none rsSt.fi.rstreams = true ∧ rsSt.dieOf (rsSt.jobOf far1) far1.ldie.toNat = .other 0 1 ∧ r.unacked ≠ 0 ∧ r.seen + 4096 ≤ rsSt.dl.dcyc.toNat) := by decide +kernel
theorem test_memory_events :
    ran (.loadReply 9 (.data eight)) waiting (fun t => (t.ctx 0).reqs.isEmpty && ((t.ctx 0).pend.map (·.w)) == [.yload 3 0x0807060504030201 8 false]) = true ∧
    ran (.atomicReply 9 (.data eight)) waiting (fun t => (t.ctx 0).reqs.isEmpty && !(t.ctx 0).sealed) = true ∧ ran (.storeProbeReply 9 (.failed 2 1)) waiting (fun t => (t.ctx 0).strand.isNone && t.dl.away.length == 1) = true ∧
    ran (.remoteReadReply 9 (.data eight)) waiting (fun t => (t.ctx 0).reqs.isEmpty) = true ∧
    ran (.storeSector storeMsg) base (fun t => memAt t 0x20040 3 == [5, 6, 0] && (t.fi.job 1).c == 1) = true ∧
    ran (.atomicPerform atomMsg) base (fun t => memAt t 0x20040 1 == [2] && t.fi.outbox.length == 1) = true ∧
    ran (.remoteReadRequest readMsg) (withMem base 0x20040 eight) (fun t => (t.fi.outbox.map (·.body)) == [.reply 1 far1 9 (.data (eight ++ [0]))]) = true ∧
    ran (.remoteAck 1 false 1 0) flightSt (fun t => t.core.flying.isEmpty && (t.ctx 0).outst == 0) = true ∧
    ran (.acknowledgementRequest far1) rsSt (fun t => (t.fi.outbox.map (·.die)) == [1]) = true ∧ ran (.ackTimeout far1) rsSt (fun t => (t.rstream far1).unacked == 0) = true := by decide +kernel

/-- A memory block at work: an ASID table at 0x20000, a key slot of tenant 1 at 1, an invalidation not done, a frame pending, an armed region. -/
def dmSt (f : DieMem → DieMem) : State := { base with dm := f base.dm }
/-- The staged matrix: the identity. -/
def identity32 : Vector Word 16 := Vector.ofFn fun i => BitVec.ofNat 64 (2 ^ (2 * i.val) + 2 ^ (2 * i.val + 1) * 2 ^ 32)
theorem witness_DieMemoryEvents :
    (base.dm.tlbDone = true ∧ fld (0x0003000000000000 : Word) 40 4 ≠ 13 ∧ fld (0x00030F0000000000 : Word) 40 4 ≠ 14 ∧ rising base.dm.roots = true ∧
      (match (base.asidRead (BitVec.ofNat 13 (fld (0x0003000000000000 : Word) 48 13))).1 with | .ok w => w == (5, true) | .error _ => false) = true) ∧
    (Memory.wf base.dm.mem = true ∧ base.dm.sweepDone = true ∧ 8 ≤ base.dm.room (base.asidAt (BitVec.ofNat 13 (fld (8191 : Word) 0 13)))) ∧
    (let s := dmSt fun d => { d with sweepDone := false, sweep := 3 }
     Memory.wf s.dm.mem = true ∧ s.dm.sweepDone = false ∧ s.core.flying = [] ∧ 8 ≤ s.dm.room (s.asidAt s.dm.sweep)) ∧
    (base.dm.carveBusy = false ∧ fld (8 : Word) 0 4 ≤ 8) ∧
    (let s := dmSt fun d => { d with carveBusy := true, carveWays := 8, carveNext := 2 }
     Memory.wf s.dm.mem = true ∧ s.dm.carveBusy = true) ∧
    ((dmSt fun d => { d with retired := [5] }).dm.frameRetired (fld (5 : Word) 0 21) = true ∧ base.dm.frameRetired (fld (0x1FFFFF : Word) 0 21) = false) ∧
    (let s := dmSt fun d => { d with scrub := [2] }
     Memory.wf s.dm.mem = true ∧ (2 : BitVec 21).toNat ∈ s.dm.scrub) ∧
    ((63 : Fin 64).val = fld (0x013F : Word) 0 6 ∧ (63 : Fin 64) ≠ 0 ∧ base.dm.keyDone = true ∧ (base.dm.keys.get 63).state = 0) ∧
    (let s := dmSt fun d => { d with keyDone := false, keyLast := 1 }
     s.dm.keyDone = false ∧ s.dm.keyLast.toNat = (1 : Fin 64).val) ∧
    (let s := dmSt fun d => { d with stage := identity32, regions := Vector.replicate 8 Region.reset }
     s.dm.mapBusy = false ∧ s.dm.armCode 1 = 0 ∧ base.dm.mapBusy = false ∧ base.dm.armCode 1 ≠ 0 ∧ (7 : Fin 8).val = fld (0x1C0 : Word) 6 3) ∧
    (let s := dmSt fun d => { d with mapBusy := true, mapReg := 1 + 64, stage := identity32 }
     s.dm.mapBusy = true ∧ (1 : Fin 8).val = fld s.dm.mapReg 6 3 ∧ fld s.dm.mapReg 0 6 = 1) ∧
    (let s := dmSt fun d => { d with mapBusy := true, mapReg := 2 }
     s.dm.mapBusy = true ∧ (0 : Fin 8).val = fld s.dm.mapReg 6 3 ∧ fld s.dm.mapReg 0 6 ≠ 1) ∧
    base.dm.toRetire (0x20000 / 32) base.dl.dcyc.toNat = [] := by decide +kernel
theorem test_die_memory_events :
    ran (.tlbInvalidate 0x0003000000000001) base (fun t => t.dm.tlb.length == 2 && !t.dm.tlbDone) = true ∧ ran .tlbInvalidateDone (dmSt fun d => { d with tlbDone := false }) (fun t => t.dm.tlbDone) = true ∧
    ran (.asidSweep 3) (dmSt fun d => { d with asidt := 0x20000 }) (fun t => !t.dm.sweepDone && t.dm.tlb.isEmpty && memAt t 0x20030 1 == [2]) = true ∧
    ran .asidSweepDone ((dmSt fun d => { d with asidt := 0x20000, sweepDone := false, sweep := 3 }).devPut 0x20030 2) (fun t => t.dm.sweepDone && memAt t 0x20030 1 == [0]) = true ∧
    ran (.carveResize 8) base (fun t => t.dm.carveBusy && t.agenda == [.carveResizeDone]) = true ∧
    ran .carveResizeDone (withMem (dmSt fun d => { d with carveBusy := true, carveWays := 8, carveNext := 2 }) 0x8010000000 [9]) (fun t => t.dm.carveWays == 2 && memAt t 0x8010000000 1 == [0]) = true ∧
    ran (.frameFree 2) base (fun t => t.dm.scrub == [2] && !t.dm.refused && t.dm.tlb.length == 2) = true ∧ ran (.frameQuery 2) (dmSt fun d => { d with scrub := [2] }) (fun t => t.dm.lastPend && !t.dm.lastRet) = true ∧
    ran (.frameScrubDone 2) (withMem (dmSt fun d => { d with scrub := [2] }) 0x20000 [9]) (fun t => t.dm.scrub.isEmpty && memAt t 0x20000 1 == [0]) = true := by decide +kernel
theorem test_key_and_map_events :
    ran (.keyGenerate 0x013F) base (fun t => (t.dm.keys.get 63).state == 1 && (t.dm.keys.get 63).vf == 1) = true ∧ ran (.keyDestroy 1) base (fun t => (t.dm.keys.get 1).state == 2 && t.dm.tlb.isEmpty) = true ∧
    ran .keyDestroyDone (dmSt fun d => { d with keyDone := false, keyLast := 1 }) (fun t => (t.dm.keys.get 1).state == 0 && t.dm.keyDone) = true ∧
    ran (.mapArm 1) (dmSt fun d => { d with stage := identity32, regions := Vector.replicate 8 Region.reset }) (fun t => t.dm.mapCode == 1 && t.dm.mapRank == 32) = true ∧
    ran (.mapWithdraw 2) base (fun t => t.dm.mapCode == 1) = true ∧ ran (.mapRead 3) (dmSt fun d => { d with mapCode := 9 }) (fun t => t.dm.mapCode == 0) = true ∧
    ran .mapCommandDone (dmSt fun d => { d with mapCode := 1, mapBusy := true, mapReg := 1 + 64, stage := identity32 }) (fun t => !t.dm.mapBusy && (t.dm.regions.get 1).state == 1 && (t.dm.regions.get 1).matrix.get 31 == 0x80000000) = true ∧
    ran (.hbmEccError 0x20000 true) base (fun t => t.dm.merr == 1) = true ∧ ran (.hbmEccError 0x20000 false) base (fun t => (t.dm.tag (0x20000 / 32)).poison && t.dm.merr == 0x100000000) = true := by decide +kernel

/-! Queue 2 of tenant 1, of four entries in the memory of the die at 0x100000. -/
def q2 : Queue := { Queue.reset with en := true, vf := 1, log2n := 2, base := 0x2000 }
def qSt (q : Queue) : State := { base with dl := { base.dl with queues := [(2, q)], vfs := [(1, { VFn.reset with en := true })] } }
/-- The first launch of queue 2, which depends on itself. -/
def self2 : Launch := ⟨BitVec.ofNat 64 (2 ^ 63 + 2 ^ 57 + 2 * 2 ^ 48), 1, [0, 0, 0, 0, 0, BitVec.ofNat 64 (2 ^ 63 + 2 * 2 ^ 48)] ++ List.replicate 10 0, 0, .waiting, [], 0, 0, 0x40⟩
def ringAt2 : Nat := (qSt q2).dl.ringAt q2
def qWord : Word := BitVec.ofNat 64 (2 ^ 63 + 2 ^ 52 + 2 * 2 ^ 43 + 0x2000 * 2 ^ 7)
theorem witness_QueueEvents :
    (let s := qSt { q2 with en := false }
     qWord.toNat.testBit 63 = true ∧ (s.dl.queue 2).en = false ∧ fld qWord 43 5 ≤ 16 ∧ (s.dl.vf (BitVec.ofNat 6 (fld qWord 52 6))).en = true ∧
       fld qWord 7 33 * 128 + 2 ^ fld qWord 43 5 * 128 ≤ 2 ^ 37) ∧
    (let s : State := { qSt q2 with dl := { (qSt q2).dl with pool := [self2] } }
     self2 ∈ s.dl.pool ∧ self2.queueNo = 2 ∧ self2.state = .waiting ∧ s.dl.inCycle self2 = true ∧ (qSt q2).dl.pool = []) ∧
    (SMap.wf Queue.reset (qSt q2).dl.queues = true ∧ (0 : Word).toNat.testBit 63 = false ∧ ((qSt q2).dl.queue 2).en = true) ∧
    ((∀ e ∈ base.dl.queues, e.2.en = false) ∧ ((qSt q2).dl.queues.any fun e => e.2.en) = true) ∧
    (let s : State := { qSt q2 with dm := { base.dm with carveWays := 8 } }
     (((List.range 16).all fun i => s.dm.plain (s.dm.keyTag 0) (0x100000 / 32 + i)) = true) ∧ Memory.wf s.dm.mem = true ∧ q2.en = true ∧ q2.base.toNat * 128 + 512 ≤ 2 ^ 37 ∧ q2.swap = false ∧ (fld s.dl.qarea 20 16 + q2.slot) * 2 ^ 16 + 512 ≤ s.dm.carveWays.toNat * 2 ^ 27 ∧
       (0 + 4) * 2 ^ 16 + 512 ≤ s.dm.carveWays.toNat * 2 ^ 27 ∧
       (({ s.dl with qarea := 2 ^ 20 + 4, queues := [(2, { q2 with swap := true })] } : DieLaunch).gap ((512 + 2 ^ 16 - 1) / 2 ^ 16)).isSome = true) ∧
    (Owns (qSt q2) 1 2 ∧ 63 < 2 ^ q2.log2n.toNat * 16 ∧ 63 < 2 ^ 20) ∧
    ((0x8000000000 ≤ ringAt2 + 63 * 8 ∧ ringAt2 + 63 * 8 < 0x8200000000) ∧
      ¬ (let s : State := { qSt q2 with dm := { base.dm with carveWays := 8 } }
         0x8000000000 + s.dm.carveWays.toNat * 2 ^ 27 ≤ ringAt2 + 63 * 8 ∧ ringAt2 + 63 * 8 < 0x8200000000)) ∧
    (let s : State := { qSt q2 with dm := { base.dm with carveWays := 8 } }
     0x8000000000 ≤ ringAt2 + 63 * 8 ∧ ringAt2 + 63 * 8 + 8 ≤ 0x8000000000 + s.dm.carveWays.toNat * 2 ^ 27 ∧ s.dm.plain (s.dm.keyTag 0) ((ringAt2 + 63 * 8) / 32) = true) ∧
    ((4 : Word).toNat.testBit 63 = false ∧ q2.frozen = false ∧ (4 : Word32) ≠ q2.tail ∧ ((4 : Word32) - q2.tail).toNat < 2 ^ 31 ∧ ((4 : Word32) - q2.head).toNat ≤ 2 ^ q2.log2n.toNat) ∧
    (2 ^ q2.log2n.toNat < ((5 : Word32) - q2.head).toNat ∧ 2 ^ 31 ≤ ((0x80000000 : Word32) - q2.tail).toNat) ∧
    ({ q2 with frozen := true } : Queue).pend = 0 := by unfold Owns; decide +kernel
theorem test_queue_events :
    ran (.launchQueueConfig 2 qWord) (qSt { q2 with en := false }) (fun t => (t.dl.queue 2).en && (t.dl.queue 2).base == 0x2000) = true ∧
    ran (.launchQueueConfig 2 0) (qSt q2) (fun t => !(t.dl.queue 2).en) = true ∧ ran (.queueAreaConfig 0x1FFFFF0003) base (fun t => t.dl.qarea == 0xFFFF00003) = true ∧
    ran (.queueRingSwap 2 true) { qSt q2 with dm := { base.dm with carveWays := 8 } } (fun t => (t.dl.queue 2).swap) = true ∧
    ran (.launchQueueConfig 2 0) { qSt q2 with dl := { (qSt q2).dl with pool := [self2] } } (fun t => t.dl.pool.map (·.status) == [5]) = true ∧
    ran (.launchWindowWrite 1 (2 * 2 ^ 23 + 63 * 8) 0x0201) { qSt q2 with dm := { base.dm with carveWays := 8 } } (fun t => memAt t (ringAt2 + 63 * 8) 2 == [1, 2]) = true ∧
    ran (.doorbell 1 2 4) (qSt q2) (fun t => (t.dl.queue 2).tail == 4) = true ∧ ran (.doorbell 1 2 5) (qSt q2) (fun t => (t.dl.queue 2).frozen) = true ∧
    ran (.doorbellReset 1 2 9) (qSt { q2 with frozen := true }) (fun t => (t.dl.queue 2).head == 9 && !(t.dl.queue 2).frozen) = true := by decide +kernel

/-! A launch of tenant 1, of ASID 3 and job 1, and its image at 0x400: two strands on each of two dies. -/
def w8s (s : State) (a : Nat) (l : List Nat) : State := withMem s a (l.flatMap fun w => bytesOf (BitVec.ofNat 64 w) 8)
def lrec1 : List Word := [0x400, 0, 0, 0, 0, 0, 0, 0, 0, 0x100000300, 0, 0, 0, 0, 0, 0]
def launch1 : Launch := ⟨0x8202000000000000, 1, lrec1, 0, .waiting, [], 0, 0, 0x40⟩
def withPool (l : List Launch) (s : State) : State := { s with dl := { s.dl with pool := l } }
/-- Queue 2 with its ring in its backing, one record posted. -/
def takeSt : State := { qSt { q2 with swap := true, tail := 1 } with pk := { base.pk with stage := 6 } }
def good1 : State := takeSt.devWrite 0x100000 (lrec1.flatMap fun w => bytesOf w 8)
def imageSt : State :=
  w8s (w8s { base with dl := { base.dl with vfs := [(1, { VFn.reset with en := true, masks := VFn.reset.masks.set 0 0xFFFF })], subs := [⟨1, 0, 1, 1, 0, 1, 0, 0, none, [], [], false⟩] }
                       dm := { base.dm with code := BitVec.ofNat 64 (2 ^ 40 + 0x100) } } 0x20400
    [0xCAE10B0A00000001, 12 * 2 ^ 32 + 0x100, 0x110, 0, 0, 0, 0, 0, 0x1002, 2 * 2 ^ 32 + 1, 2 * 2 ^ 32 + 2]) 0x20480 [2 ^ 32]
def sub1 : SubMsg := ⟨0, none, launch1.id, 0, 1, lrec1⟩
/-- A launch whose dependence, record 0 of queue 2, retired with status 3. -/
def dep1 : Launch := { launch1 with record := lrec1.set 5 0x8202000000000000 }
def depSt : State := withPool [dep1] (qSt { q2 with ret := 1, status := [(0, 3)] })
def running1 : Launch := { launch1 with state := .running, open_ := [0, 1] }
def ended1 : Launch := { launch1 with state := .running, faults := 2, record := lrec1.set 10 0x200 }
theorem read_of {α β : Type} {o : Option α × β} {p : α → β → Bool} (h : (match o with | (some a, b) => p a b | _ => false) = true) :
    ∃ a b, o = (some a, b) ∧ p a b = true := by
  obtain ⟨a | a, b⟩ := o
  · cases h
  · exact ⟨a, b, rfl, h⟩
theorem none_of {α β : Type} {o : Option α × β} (h : o.1.isNone = true) : ∃ b, o = (none, b) := by
  obtain ⟨a | a, b⟩ := o
  · exact ⟨b, rfl⟩
  · cases h
theorem witness_LaunchEvents :
    (good1.nextQueue = some (2, { q2 with swap := true, tail := 1 }) ∧
      good1.dl.ringAt { q2 with swap := true, tail := 1 } = 0x100000 ∧ ¬ (0x8000000000 + good1.dm.carveWays.toNat * 2 ^ 27 ≤ 0x100000) ∧ good1.recordRefused launch1 = false ∧
      ∀ i, 5 ≤ i → i < 9 → (good1.devWord (0x100000 + 8 * i)).toNat.testBit 63 = false) ∧
    (takeSt.nextQueue = some (2, { q2 with swap := true, tail := 1 }) ∧ takeSt.recordRefused { launch1 with record := List.replicate 16 0 } = true) ∧
    (let s := takeSt
     let k : Queue := { q2 with log2n := 16, tail := 1 }
     let u : State := { s with dl := { s.dl with queues := [(2, k)] } }
     u.nextQueue = some (2, k) ∧ 0x8000000000 + u.dm.carveWays.toNat * 2 ^ 27 ≤ u.dl.ringAt k ∧ u.dl.ringAt k < 0x8200000000) ∧
    depSt.dl.pool.find? depSt.dl.depFailed = some dep1 ∧
    (let s := withPool [launch1] imageSt
     s.dl.pool.find? s.dl.depFailed = none ∧ s.startable = some launch1 ∧ (launch1.word 0).toNat % 256 = 0 ∧
     ∃ bs s1, s.imageRead launch1.who ((launch1.word 0).toNat + 0x40) 64 = (some bs, s1) ∧
       decide (s1.tableRefused launch1 (loopTable (wordsOf bs 8) launch1.extents) = false ∧ (loopTable (wordsOf bs 8) launch1.extents).points 2 = 2 ∧ s1.dieIn launch1.dmap 0 = .own ∧ s1.dieIn launch1.dmap 1 = .other 0 1) = true) ∧
    (let l : Launch := ⟨sub1.id, sub1.vf, sub1.record, 0, .running, [], 0, 0, 0⟩
     (∃ s1, base.loadImage l = (none, s1)) ∧ sub1.home = none ∧ ({ sub1 with home := some (0, 1) } : SubMsg).home = some (0, 1) ∧ ∃ m s1, imageSt.loadImage l = (some m, s1) ∧
       decide (s1.dl.subs ≠ [] ∧ s1.coreEligible sub1.vf m.rings = true ∧ s1.dl.arenaNext + m.codeSize ≤ fld s1.dm.code 40 8 * 2 ^ 24 ∧ m.table.points 1 = 2 ∧
         s1.dl.recNext + 64 + 64 * m.table.points 1 ≤ recordSpace) = true) ∧
    (let l : Launch := ⟨sub1.id, sub1.vf, sub1.record, 0, .running, [], 0, 0, 0⟩
     let s : State := { imageSt with dl := { imageSt.dl with recNext := recordSpace, held := [⟨sub1, 0x100, 2⟩] } }
     ∃ m s1, ({ s with dl := { s.dl with held := s.dl.held.filter fun h => h.msg != sub1 } } : State).loadImage l = (some m, s1) ∧
       decide (s1.dl.subs ≠ [] ∧ s1.coreEligible sub1.vf m.rings = true ∧ m.codeSize ≤ fld s1.dm.code 40 8 * 2 ^ 24 ∧ 64 + 64 * m.table.points 1 ≤ recordSpace ∧
         recordSpace < s1.dl.recNext + 64 + 64 * m.table.points 1) = true) ∧
    (let l : Launch := ⟨sub1.id, sub1.vf, sub1.record, 0, .running, [], 0, 0, 0⟩
     ∃ m s1, ({ imageSt with core := { imageSt.core with retired := true } } : State).loadImage l = (some m, s1) ∧
       decide (s1.dl.subs ≠ [] ∧ s1.coreEligible sub1.vf m.rings = false) = true) ∧
    ((withPool [running1] base).dl.runningOf running1.id = some running1 ∧ 1 ∈ running1.open_) ∧
    ((withPool [ended1] base).dl.runningOf ended1.id = some ended1 ∧ ended1.open_ = [] ∧ ended1.word 10 ≠ 0 ∧ ({ ended1 with record := lrec1 } : Launch).word 10 = 0) ∧
    (let l : Launch := { launch1 with state := .complete, status := 3 }
     (withPool [l] (qSt q2)).dl.pool.find? (fun e => fld e.id 48 9 == (2 : BitVec 9).toNat) = some l) := by
  and_intros
  all_goals first | decide +kernel | exact none_of (by decide +kernel) | exact read_of (by decide +kernel)
theorem test_launch_events :
    ran .launchTake good1 (fun t => t.dl.pool == [launch1] && (t.dl.queue 2).head == 1 && (t.dl.queue 2).pend == 1) = true ∧
    ran .launchTake takeSt (fun t => t.dl.pool.map (fun l => (l.state, l.status)) == [(.complete, 1)]) = true ∧
    ran .launchStart depSt (fun t => t.dl.pool.map (fun l => (l.state, l.status)) == [(.complete, 5)]) = true ∧
    ran .launchStart (withPool [launch1] imageSt) (fun t => t.dl.pool == [running1] && t.agenda == [.sublaunchCreate sub1] && t.fi.outbox.length == 1) = true ∧
    ran (.sublaunchCreate sub1) imageSt (fun t => t.dl.records.map (fun q => q.addr) == [recordBase + 64, recordBase + 128] && t.dl.subs.length == 2) = true ∧
    ran (.sublaunchCreate sub1) base (fun t => t.agenda == [.sublaunchEnded launch1.id 0 1 0]) = true := by decide +kernel
theorem test_launch_ends :
    ran (.sublaunchEnded launch1.id 1 0 4) (withPool [running1] base) (fun t => t.dl.pool == [{ running1 with open_ := [0], faults := 4 }]) = true ∧
    ran (.launchComplete launch1.id) (withPool [ended1] base) (fun t => memAt t 0x20200 2 == [3, 2]) = true ∧
    ran (.launchRetire 2) (withPool [{ launch1 with state := .complete, status := 3 }] (qSt q2)) (fun t => t.dl.pool.isEmpty && (t.dl.queue 2).ret == 1 && (t.dl.queue 2).status == [(0, 3)]) = true := by decide +kernel

/-! The fault queue of four entries at the start of the carve-out, of 128 MiB; core 0 of cluster 0 is interrupted. -/
def words1 : FaultWords := ⟨0x1000, 0x30000, 0x42, 3⟩
def qrec1 : QRec := ⟨0x1000, 1, 0, 0, none, none, .kernel, 5, 0, 0, false⟩
def away1 : AwayRec := ⟨4, qrec1, 0x30000, 0x10D⟩
def fqSt (on_ : Bool) (l : List FaultEntry) : State :=
  { base with
    dm := { base.dm with carveWays := 1 }
    dl := { base.dl with faultq := if on_ then 0x8020000000000000 else 0, faults := l, away := [away1], records := [{ qrec1 with addr := 0x2000 }], subs := [⟨1, 0, 1, 1, 0x2000, 1, 0, 0, none, [], [], false⟩] } }
def parkSt : State := { chSt { Chan.reset with state := .running, cb := 0, rows := 2, row := 1, bad := 2, fault := 3, parked := true, faultAddr := 0x30000, pat := #v[64, 1, 2, 64, 64, 0, 0, 0] } id with
  dl := { base.dl with faults := [⟨1, ⟨0x1001, 0x30000, 0x42, 3⟩, .copyRow 0 3⟩] } }
def remoteSt : State := { base with dl := { base.dl with faults := [⟨1, words1, .remote 0 1 9 1⟩] } }
/-- A clean sector of page 0 in L1 and one in L2. -/
def cachedSt : State := { base with
  core := { base.core with l1 := [(ckey 3 1, ⟨0, 0xF, 0, 0, 1, 1, false⟩)] }, cl := { base.cl with l2 := [(ckey 3 1, ⟨0, 0xF, 0, 0, 0, 1, 1, false, 0⟩), (ckey 3 2, ⟨0, 0xF, 0, 0, 0, 1, 1, false, 0⟩)] } }
/-- Tenant 1 in reset: its region of the carve-out at unit 1, two units. -/
def flrSt : State := { base with dl := { base.dl with vfs := [(1, { VFn.reset with en := true, flr := true, enOff := true, vfb := 2 * 2 ^ 32 + 1 })] } }
/-- The job of tenant 1 drains past wave 2, after the declaration given. -/
def drained (d : Option Decl) : State :=
  { flrSt with
    dl := { flrSt.dl with vfs := [(1, { VFn.reset with en := true, flr := true, drain := [(1, 2)] })] }
    fi := { flrSt.fi with jobs := [(1, { Job.reset with decl := d })] } }
theorem witness_FaultAndTenancyEvents_drain : (let s := drained (some ⟨true, 3, 0⟩)
     (1, 2) ∈ (s.dl.vf 1).drain ∧ (s.fi.job 1).decl = some ⟨true, 3, 0⟩ ∧ 2 < 3 ∧ (1, 2) ∈ ((drained none).dl.vf 1).drain ∧ ((drained none).fi.job 1).decl = none ∧
       ((drained (some ⟨true, 2, 0⟩)).fi.job 1).decl = some ⟨true, 2, 0⟩) := by decide +kernel
theorem witness_FaultAndTenancyEvents :
    (let s := fqSt true [⟨0, words1, .stray⟩]
     Memory.wf s.dm.mem = true ∧ s.dl.faultq.toNat.testBit 63 = true ∧ 1 < 2 ^ fld s.dl.faultq 52 4 ∧ (∀ e ∈ s.dl.faults, e.idx ≠ 1) ∧ (∀ j, j < 1 → ∃ e ∈ s.dl.faults, e.idx = j) ∧
       0x8000000000 + fld s.dl.faultq 0 16 * 2 ^ 16 + 32 < 0x8000000000 + s.dm.carveWays.toNat * 2 ^ 27 ∧ fld s.dl.faultq 60 3 = s.core.core.toNat ∧ fld s.dl.faultq 56 4 = s.core.cluster.toNat) ∧
    (let s := fqSt false []
     s.dl.faultq.toNat.testBit 63 = false ∧ s.kindOf words1 = .strand away1.tag ∧ s.dl.away.find? (fun b => b.tag % 2 ^ 32 == away1.tag % 2 ^ 32) = some away1) ∧
    (let e : FaultEntry := ⟨1, words1, .strand 4⟩
     let s := fqSt true [e]
     s.dl.faults.find? (fun e => e.idx == (1 : BitVec 12).toNat) = some e ∧ e.kind = .strand away1.tag ∧ s.dl.away.find? (fun b => b.tag % 2 ^ 32 == away1.tag % 2 ^ 32) = some away1) ∧
    ((parkSt.dl.faults.find? (fun e => e.idx == (1 : BitVec 12).toNat)).map (·.kind) = some (.copyRow 0 3) ∧ (parkSt.chan 0 3).parked = true ∧ (parkSt.chan 0 3).state ≠ .idle ∧ (parkSt.chan 0 3).bad ≠ 1) ∧
    (remoteSt.dl.faults.find? (fun e => e.idx == (1 : BitVec 12).toNat)).map (·.kind) = some (.remote 0 1 9 1) ∧
    (base.dl.shootDone = true ∧ fld (0x0003000000000000 : Word) 40 4 ≠ 13 ∧ fld (0x00030F0000000000 : Word) 40 4 ≠ 14) ∧
    (let s := cachedSt
     rising s.core.l1 = true ∧ rising s.cl.l2 = true ∧ (∀ e ∈ s.core.l1, e.2.dirty = 0 ∧ e.2.valid ≠ 0) ∧ (∀ e ∈ s.cl.l2, e.2.dirty = 0) ∧ (∀ f ∈ s.core.flying, f.ctx ≠ svc) ∧ s.dl.shootOwed = [] ∧
       keyAsid (ckey 3 1) = BitVec.ofNat 13 (fld (0x0003000000000000 : Word) 48 13) ∧ s.dieOf 1 (keySec (ckey 3 1) / 2 ^ 47) = .own ∧ lookup s.core.l1 (ckey 3 2) = none) ∧
    ({ base with dl := { base.dl with shootWait := 1 } } : State).dl.shootWait = 0 + 1 ∧
    (flrSt.dl.vf 1).flr = true ∧ (SMap.wf Queue.reset base.dl.queues = true ∧ (base.dl.vf 1).flr = false) ∧
    (Memory.wf flrSt.dm.mem = true ∧ SMap.wf VFn.reset flrSt.dl.vfs = true ∧ flrSt.core.flying = [] ∧ 32768 ≤ flrSt.dm.room (fld flrSt.dl.jobt 13 27 * 2 ^ 13) ∧ (flrSt.dl.vf 1).log.toNat.testBit 63 = false ∧
      (∀ l ∈ flrSt.dl.pool, l.vf = 1 → l.state ≠ .running) ∧ (flrSt.jobEntry 1).toNat.testBit 63 = true ∧ fld (flrSt.jobEntry 1) 40 6 = 1) ∧
    (fld (2 : Word) 0 6 < 3 ∧ 3 ≤ fld (0x103 : Word) 0 6) := by decide +kernel
theorem test_fault_service :
    ran (.faultEntry words1) (fqSt true []) (fun t => t.dl.faults == [⟨0, words1, .strand 4⟩] && memAt t 0x8000000000 2 == [0, 0x10] && t.core.irq) = true ∧
    ran (.faultEntry words1) (fqSt false []) (fun t => t.dl.faults.isEmpty && t.dl.away.isEmpty) = true ∧
    ran (.faultResume 1) (fqSt true [⟨1, words1, .strand 4⟩]) (fun t => t.dl.fres == 0x4000000000000001 && t.dl.records.map (·.addr) == [0x2000, 0x1000] && t.dl.away.isEmpty) = true ∧
    ran (.faultFail 1) (fqSt true [⟨1, words1, .strand 4⟩]) (fun t => t.dl.fres == 0x8000000000000001 && t.dl.records.length == 1 && t.dl.away.isEmpty) = true ∧
    ran (.faultResume 1) parkSt (fun t => !(t.chan 0 3).parked && (t.chan 0 3).state == .running) = true ∧
    ran (.faultFail 1) parkSt (fun t => (t.chan 0 3).state == .stopped && (t.chan 0 3).row == 1) = true ∧
    ran (.faultResume 1) remoteSt (fun t => t.fi.outbox == [⟨0, 1, false, .resolution 9 true 1⟩]) = true := by decide +kernel
theorem test_shoot_down :
    ran (.shootDown 0x0003000000000001) base (fun t => !t.dl.shootDone && t.dl.shootWait == 4 && t.agenda.length == 1 && t.fi.outbox.length == 3 && t.dm.tlb.length == 2) = true ∧
    ran (.shootDownRange 0x0003000000000000) cachedSt (fun t => t.core.l1.isEmpty && t.cl.l2.isEmpty && t.agenda == [.shootDownAck]) = true ∧
    ran .shootDownAck { base with dl := { base.dl with shootWait := 1, shootDone := false } } (fun t => t.dl.shootDone) = true := by decide +kernel
theorem test_function_level_reset :
    (((fqSt true []).resetContext 1 0).ctx 0).strand.isNone = true ∧ (((fqSt true []).resetContext 2 0).core == (fqSt true []).core) = true ∧
    ((fqSt true []).dropSubs (·.vf == 1)).dl.subs.isEmpty = true ∧
    ran (.msiSignal 0x103) base (fun t => t.dl.msix == [(some 1, 3)]) = true := by decide +kernel
/-- A launch refused for its job, which is not enabled, still writes its completion word (R13, R14). -/
theorem test_word_of_refused_job :
    ran (.launchComplete launch1.id) (withPool [{ ended1 with record := ended1.record.set 9 0x7FF00000300, status := 1 }] base) (fun t => memAt t 0x20200 2 == [1, 2]) = true := by decide +kernel

/-! ### The package -/

def pkSt (f : Package → Package) : State := { base with pk := f base.pk }
/-- Words that the device itself has written, under key slot 0. -/
def w8d (s : State) (a : Nat) (l : List Nat) : State := s.devWrite a (l.flatMap fun w => bytesOf (BitVec.ofNat 64 w) 8)
/-- The boot in stage `n`, to stop with `f`. -/
def bootSt (n : BitVec 4) (f : Byte) : State := pkSt fun p => { p with stage := n, bootFail := f }
def chanSt (v : Nat) : State := { base with dm := { base.dm with chan1 := BitVec.ofNat 64 v } }
theorem witness_PackageEvents_boot :
    InStage (bootSt 1 1) 1 ∧ InStage (bootSt 1 2) 1 ∧ InStage (bootSt 2 3) 2 ∧ InStage (bootSt 3 4) 3 ∧ InStage (bootSt 1 0) 1 ∧ InStage (bootSt 3 0) 3 ∧ InStage (bootSt 4 0) 4 ∧
      InStage (bootSt 5 0) 5 ∧ (bootSt 4 0).pk.engElse = [] ∧ (∃ e : Fin 16, ((bootSt 4 0).pk.flashEng.get e).toNat.testBit 4 = true) ∧
      (InStage (pkSt fun p => { p with stage := 4, roundEng := [1] }) 4 ∧ (bootSt 4 0).pk.roundEng = [] ∧ (bootSt 4 0).pk.roundBank = [] ∧ (bootSt 4 0).pk.roundChan = []) ∧
      (∀ e : Fin 16, (((Vector.replicate 16 0 : Vector (BitVec 8) 16)).get e).toNat.testBit 4 = false) ∧ Memory.wf (bootSt 3 0).dm.mem = true ∧ (bootSt 4 0).pk.stage = 4 ∧ base.pk.stage ≠ 4 := by
  unfold InStage; decide +kernel
/-- A halted package with one dump and `n` checks since. -/
def checkSt (n : Nat) : State := pkSt fun p => { p with halted := some 3, stage := 7, checks := n, dumps := [List.replicate 512 0] }
theorem witness_PackageEvents_report :
    (base.pk.halted = none ∧ base.pk.asking = [] ∧ SMap.wf VFn.reset base.dl.vfs = true ∧ (pkSt fun p => { p with halted := some 3 }).pk.halted ≠ none ∧
      (none, (0x5000 : Word)) ∈ (pkSt fun p => { p with asking := [(none, 0x5000)] }).pk.asking) ∧
    ((pkSt fun p => { p with asking := [(none, 0x5000)] }).pk.recount = false ∧ (pkSt fun p => { p with recount := true }).pk.recount = true ∧ (pkSt fun p => { p with recount := true }).pk.asking = []) ∧
    (({ base with core := { base.core with die := 1 } } : State).core.die ≠ 0 ∧ ({ base with core := { base.core with die := 1 } } : State).pk.halted = none) ∧
    ((checkSt 0).pk.halted ≠ none ∧ (checkSt 0).pk.dumps = [List.replicate 512 0] ∧ (checkSt 10).pk.checks < 11 ∧ 11 ≤ (checkSt 11).pk.checks ∧
      (pkSt fun p => { p with halted := some 3 }).pk.dumps = []) := by decide +kernel
theorem witness_PackageEvents :
    (base.pk.marginEn = true ∧ base.pk.roundOn = false ∧ (base.cl.engines.get 0).state = 2 ∧ ((eng id).cl.engines.get 0).state ≠ 2 ∧ (base.core.banks.get 0) ≠ 2 ∧ base.dm.chanState 0 < 2) ∧
    (let s := eng id
     (s.cl.engines.get 1).state = 0 ∧ ∀ d, (s.cl.engines.get d).state ≠ 1) ∧
    (let s := { eng id with cl := { (eng id).cl with engines := (eng id).cl.engines.set 1 ⟨0, 0, 1, 0x1F, some 0x14⟩ } }
     (∀ c, (s.ctx c).mirrorAct = false) ∧ (∀ d, (s.cl.engines.get d).next ≠ none → d = 1) ∧ (s.cl.engines.get 1).next = some 0x14 ∧ (s.cl.engines.get 1).queued = 0 ∧
       (0x14 : BitVec 8) ≠ (s.cl.engines.get 1).bmap) ∧
    (base.core.banks.get 23 ≠ 2 ∧ (23 : Fin 24).val ∉ base.core.demotions ∧ ((bootSt 4 0).pk.flashBank.get 23).toNat < 2) ∧
    (let p := (pkSt fun p => { p with roundOn := true, roundBank := [23] }).pk
     p.stage ≠ 4 ∧ p.roundOn = true ∧ p.roundEng = [] ∧ p.roundBank = [23] ∧ p.roundChan = []) ∧
    (({ base with core := { base.core with demotions := [23] } } : State).demotionDue 23 = true ∧ base.demotionDue 23 = false) ∧
    (fld (bootSt 4 0).pk.flashChan0 (2 * 31) 2 < 2 ∧ fld (pkSt fun p => { p with stage := 4, flashChan1 := 2 ^ 62 }).pk.flashChan1 (2 * 31) 2 = 1) ∧
    ((chanSt 0).dm.chanState (63 : BitVec 6).toNat = 0 ∧ (chanSt (2 ^ 62)).dm.chanState (63 : BitVec 6).toNat = 1) ∧
    ((chanSt (3 * 2 ^ 62)).dm.chanState (63 : BitVec 6).toNat = 3 ∧ (dmSt fun d => { d with chan1 := 3 * 2 ^ 62, regions := Vector.replicate 8 Region.reset }).dm.maps 63 = false ∧
      (dmSt fun d => { d with chan1 := 3 * 2 ^ 62, regions := Vector.replicate 8 Region.reset }).dm.chanState 63 = 3) ∧
    ((dmSt fun d => { d with chan0 := 3 }).dm.chanState (0 : BitVec 6).toNat = 3 ∧ (dmSt fun d => { d with chan0 := 3 }).dm.maps 0 = true) ∧
    base.cl.prismEn = false := by decide +kernel
/-- An engine of cluster 11 of die 3 at full, a bank of its core 7, a channel of that die: full, and on its last step. -/
theorem witness_PackageEvents_else :
    (let a : EngineAt := ⟨3, 11, 15, 0x1E⟩
     SMap.wf 0x1F base.pk.engElse = true ∧ a.cluster.toNat < 12 ∧ (a.die, a.cluster) ≠ (base.core.die, base.core.cluster) ∧ a.bmap ∈ ([0x1F, 0x1E, 0x14, 0] : List (BitVec 8)) ∧
       a.bmap &&& ~~~(getAt 0x1F base.pk.engElse 767) = 0 ∧ a.bmap ≠ getAt 0x1F base.pk.engElse 767 ∧ a.bmap.toNat.testBit 0 = false ∧ getAt 0x1F base.pk.engElse 767 = 0x1F) ∧
    (let k : CoreAt := ⟨3, 11, 7⟩
     SMap.wf 0 base.pk.bankElse = true ∧ k.cluster.toNat < 12 ∧ (k.die, k.cluster, k.core) ≠ (base.core.die, base.core.cluster, base.core.core) ∧ getAt 0 base.pk.bankElse 9215 < 2 ∧ 383 ∉ base.pk.coreElse) ∧
    ((3 : BitVec 2) ≠ base.core.die ∧ SMap.wf 0 base.pk.chanElse = true ∧ getAt 0 base.pk.chanElse 255 = 0 ∧ (getAt 0 base.pk.chanElse 255, 2) ∉ [(0, 1), (1, 3), (3, 2)]) ∧
    (let s := pkSt fun p => { p with chanElse := [(255, 3)] }
     SMap.wf 0 s.pk.chanElse = true ∧ getAt 0 s.pk.chanElse 255 = 3) := by decide +kernel
/-- A kernel queued for Prism at 0x30000, the arena of 16 MiB at 0x1000000. -/
def prismSub : Sub := ⟨5, 0, 1, 1, 0x30000, 2, 0, 0, none, [], [], true⟩
def prismSt : State :=
  { base with
    cl := { base.cl with prismEn := true, prismPend := 1 }, dl := { base.dl with subs := [prismSub] }
    dm := { base.dm with code := BitVec.ofNat 64 (2 ^ 40 + 0x100) } }
theorem witness_PackageEvents_prism : prismSub ∈ prismSt.dl.subs ∧ prismSt.cl.prismEn = true ∧ (prismSt.devWord (0x30000 + 8)).toNat.testBit 63 = false ∧ prismSub.prism = true ∧
    Memory.wf prismSt.dm.mem = true ∧ 0x30000 % 8 = 0 ∧ 0 < ([1, 2] : List Byte).length ∧ 0x8100000000 ≤ fld (0x8100000040 : Word) 2 38 * 4 ∧
    (let o := fld (0x8100000040 : Word) 2 38 * 4 - 0x8100000000
     let b := fld prismSt.dm.code 0 24 * 2 ^ 16 + o
     o + 2 ≤ fld prismSt.dm.code 40 8 * 2 ^ 24 ∧ b + 2 ≤ 2 ^ 37 ∧ 0x30000 + 16 ≤ 2 ^ 37 ∧ 0x30000 + 16 ≤ b / 32 * 32) := by decide +kernel
theorem test_package_events :
    ran (.attestRequest none 0x5FFF) base (fun t => t.pk.attest == 0x5000 && t.pk.asking == [(none, 0x5000)] && t.pk.reports.isEmpty) = true ∧
    idle (.attestRequest none 0x6000) (pkSt fun p => { p with asking := [(none, 0x5000)] }) = true ∧
    (let t := (pkSt fun p => { p with asking := [(none, 0x5000)] }).lanternTurn
     t.pk.asking.isEmpty && t.pk.reports.map (fun r => (r.1, r.2.1)) == [(none, 0x5000)]) = true ∧
    ran (.packageReset ⟨0, [], 0x103⟩) base (fun t => t.pk.stage == 1 && t.fi.inc == base.fi.inc + 1 && t.pk.firmware == 0x103 && t.dm.tlb.isEmpty && (t.ctx 0).strand.isNone) = true ∧
    ran .deviceReset base (fun t => (t.ctx 0).strand.isNone && t.dm.mem == base.dm.mem && t.fi.inc == base.fi.inc) = true ∧
    ran (.machineCheck 3 7) base (fun t => t.pk.halted == some 3 && t.pk.stage == 7 && t.pk.dumps.length == 1) = true ∧
    ran (.machineCheck 4 7) (checkSt 0) (fun t => t.pk.halted == some 3 && t.pk.checks == 1 && t.pk.dumps.length == 1) = true ∧
    idle (.machineCheck 4 7) (checkSt 11) = true ∧
    ran (.thermalThrottle true) (pkSt fun p => { p with clock := 1 }) (fun t => t.pk.clock == 1) = true ∧
    ran .marginRound (eng id) (fun t => t.pk.rounds == 0 && t.pk.roundOn && t.pk.roundEng == [0, 1]) = true := by decide +kernel
theorem test_ladders :
    ran (.engineMarginTest 1 0x17) (eng id) (fun t => (t.cl.engines.get 1).next == some 0x14) = true ∧
    ran .bitmapInstall { eng id with cl := { (eng id).cl with engines := (eng id).cl.engines.set 1 ⟨0, 0, 1, 0x1F, some 0x14⟩ } } (fun t => (t.cl.engines.get 1).bmap == 0x14 && t.pk.flashEng.get 1 == 0x14) = true ∧
    ran (.bankMarginTest 23 false) base (fun t => t.core.demotions == [23]) = true ∧
    ran (.bankDemotionApply 23) { base with core := { base.core with demotions := [23] } } (fun t => t.core.banks.get 23 == 1 && t.core.demotions.isEmpty) = true ∧
    ran (.channelMarginTest 63 false) (chanSt 0) (fun t => t.dm.chanState 63 == 1) = true ∧
    ran (.channelRetire 63) (dmSt fun d => { d with chan1 := 3 * 2 ^ 62, regions := Vector.replicate 8 Region.reset }) (fun t => t.dm.chanState 63 == 2) = true ∧
    ran (.prismTranslate 0x30000 ⟨0x8100000040, [1, 2]⟩) prismSt (fun t => t.devWord 0x30008 == 0x8000008100000040 && t.cl.prismPend == 0 && memAt t 0x1000040 2 == [1, 2]) = true ∧
    (match runEvent .bootNext (bootSt 1 2), runEvent .bootNext (bootSt 2 0) with | .next t, .next u => t.pk.fail == 2 && u.pk.stage == 3 | _, _ => false) = true := by decide +kernel

/-! ### Pavane, with a table of one entry at 0x20000: an update placed on context 1, whose loop record stands at 0x30000 -/

def pvEntry : PvEntry := ⟨BitVec.ofNat 64 (2 * 2 ^ 62 + 3 * 2 ^ 53), 0x30000, 0x20, 0⟩
/-- A forward entry whose input comes through ring `n`. -/
def pvInput (n : Nat) : PvEntry := ⟨BitVec.ofNat 64 (2 ^ 54), 0x30000, BitVec.ofNat 64 n, 0⟩
/-- An update placed on core 1. -/
def pvAway : PvEntry := ⟨BitVec.ofNat 64 (2 * 2 ^ 62 + 3 * 2 ^ 53), 0x30000, 0xA0, 0⟩
def pvSt (s : State) (e : PvEntry) (f : Pavane → Pavane) : State :=
  let s := w8d (w8d s 0x20000 [e.w0.toNat, e.w1.toNat, e.w2.toNat, e.w3.toNat]) 0x30028 [1]
  { s with pk := { s.pk with pv := f { s.pk.pv with base := 0x8000000000020000, count := 1, ten := 0x100000301 } } }
def pvRun (s : State) (e : PvEntry) : State := pvSt s e fun p => { p with table := [e], loaded := true }
/-- A credit from upstream has arrived under job 7. -/
def pvCredit (dark : Bool) : State :=
  let s := pvSt base pvEntry fun p => { p with credits := [(true, 7)] }
  { s with fi := { s.fi with dark := dark } }
def portMsg1 : PortMsg := ⟨far1, 1, 0, 2, [7]⟩
def portOf (p : Port) : State := on fun c => { c with ports := c.ports.set 2 p }
theorem read_all {α β : Type} {o : α × β} {p : α → β → Bool} (h : p o.1 o.2 = true) : ∃ a b, o = (a, b) ∧ p a b = true := ⟨o.1, o.2, rfl, h⟩
theorem witness_PavaneAndPortEvents :
    (let s := pvSt base pvEntry id
     let p := s.pv
     p.base.toNat.testBit 63 = true ∧ p.run = 0 ∧ 0 < p.count.toNat ∧ p.count.toNat ≤ 256 ∧ fld p.stashSlots 0 7 ≤ 64 ∧ s.stashSpanOk p = true ∧
       ∃ l s1, s.readEntries p.count.toNat = (l, s1) ∧ decide (∀ i : Fin l.length, s1.stamp.2.entryError s1.free i.val l[i] = 0) = true) ∧
    (base.pv.base.toNat.testBit 63 = false ∧ (pvSt base pvEntry id).pv.base.toNat.testBit 63 = true) ∧
    (let e : PvEntry := ⟨0xC000000000000000, 0, 0, 0⟩
     let s := pvRun base e
     s.pv.active = true ∧ s.pv.table[s.pv.head.toNat]? = some e ∧ fld e.w0 62 2 = 3) ∧
    (let s := pvRun base pvEntry
     s.pv.active = true ∧ s.pv.table[s.pv.head.toNat]? = some pvEntry ∧ fld pvEntry.w0 62 2 ≠ 3 ∧ (∃ s1, s.headBlock pvEntry = (0, s1)) ∧ s.placedHere pvEntry = true) ∧
    (let s := pvRun (eng id) (pvInput 2)
     s.pv.active = true ∧ s.pv.table[s.pv.head.toNat]? = some (pvInput 2) ∧ fld (pvInput 2).w0 62 2 ≠ 3 ∧ (∃ s1, s.headBlock (pvInput 2) = (0, s1)) ∧ s.placedHere (pvInput 2) = true ∧
       (pvInput 2).w0.toNat.testBit 53 = false) ∧
    (let s := pvRun base (pvInput 4)
     s.pv.active = true ∧ s.pv.table[s.pv.head.toNat]? = some (pvInput 4) ∧ fld (pvInput 4).w0 62 2 ≠ 3 ∧ (∃ s1, s.headBlock (pvInput 4) = (0 + 1, s1)) ∧ s.placedHere (pvInput 4) = true ∧
       (s.ctxCode (pvInput 4).ctx ≠ 0 ∧ s.ctxCode (pvInput 4).ctx ≠ 8)) ∧
    (let e := pvAway
     let s := pvRun base e
     s.pv.active = true ∧ s.pv.table[s.pv.head.toNat]? = some e ∧ fld e.w0 62 2 ≠ 3 ∧ (∃ s1, s.headBlock e = (0, s1)) ∧ s.placedHere e = false) ∧
    ((pvCredit false).pv.credits.find? (fun e => e.1 == true) = some (true, 7) ∧ (pvCredit false).fi.dark = false ∧ (pvCredit true).fi.dark = true) ∧
    (let r := (eng id).ring 2
     Memory.wf (eng id).core.spad = true ∧ (eng id).wanting 2 = [] ∧ r.en = true ∧ (∃ slot q, r.claim = some (slot, q)) ∧ (List.replicate 256 (1 : Byte)).length ≤ r.bytes) ∧
    ((base.ring 2).en = false ∧ base.wanting 2 = [] ∧ ({ (eng id).ring 2 with incoming := some 3 } : Ring).incoming = some 3 ∧ 128 + 128 ≤ ((eng id).ring 2).bytes) ∧
    ((portOf { Port.reset with bound := true }).port (strandCtx portMsg1.ctx) portMsg1.port = { Port.reset with bound := true } ∧ base.heldJob (strandCtx portMsg1.ctx) = some portMsg1.job) ∧
    (base.port (strandCtx portMsg1.ctx) portMsg1.port).bound = false ∧
    ((base.port (strandCtx 0) 2).unsent = [] ∧ base.fi.dark = false ∧
      ((portOf { Port.reset with bound := true, job := 1, peer := far1, unsent := [[7, 8]], cred := 1 }).port (strandCtx 0) 2).unsent = [[7, 8]] ∧ ([7, 8] : List Word).length ≤ min 64 (1 + 1) ∧
      base.dieOf 1 far1.ldie.toNat = .other 0 1) ∧
    (base.darkFor (base.port (strandCtx 0) 2).job (base.port (strandCtx 0) 2).peer.ldie.toNat = false ∧ (portOf { Port.reset with dep := true }).port (strandCtx 0) 2 = { Port.reset with dep := true }) ∧
    (({ base with fi := { base.fi with dark := true, fid := 9 } } : State).darkFor 1 1 = true) := by
  and_intros
  all_goals first | decide +kernel | exact pair_fst (by decide +kernel) | exact some_pair (by decide +kernel) | exact read_all (by decide +kernel)
theorem test_pavane_events :
    ran (.pavaneTableLoad 0) (pvSt base pvEntry id) (fun t => t.pv.table == [pvEntry] && t.pv.err == 0 && !t.pv.done) = true ∧
    ran (.pavaneTableLoad 0) base (fun t => t.pv.err == 7) = true ∧
    ran (.pavaneDisable 0) (pvRun base pvEntry) (fun t => t.pv.base == 0x20000 && t.pv.table == [pvEntry]) = true ∧
    ran .pavaneHeadEval (pvRun base pvEntry) (fun t => t.pv.run == 1 && t.pv.head == 1 && t.pv.done && t.dl.records.map (fun q => (q.place, q.task)) == [(some 1, some 0)]) = true ∧
    ran .pavaneHeadEval (pvRun (eng id) (pvInput 2)) (fun t => (t.ring 2).rsv == 1) = true ∧
    ran .pavaneHeadEval (pvRun base (pvInput 4)) (fun t => t.pv.block == 1 && t.pv.head == 0 && t.dl.records.isEmpty) = true ∧
    ran (.pavaneOutput ⟨1, 0, 2, 0, [9, 8], true⟩) (eng id) (fun t => Memory.get t.core.spad (((eng id).ring 2).slotAt ((((eng id).ring 2).claim.map (·.1)).getD 9) + 1) == 8) = true ∧
    ran (.pavaneOutput ⟨1, 0, 2, 0, [9, 8], true⟩) base (fun t => (t.fi.job 1).d == 1) = true ∧
    ran (.pavaneCredit true) (pvCredit false) (fun t => t.pv.upc == 1 && (t.fi.job 7).c == 1 && t.pv.credits.isEmpty) = true ∧
    ran (.pavaneCredit true) (pvCredit true) (fun t => t.pv.upc == 0 && (t.fi.job 7).c == 0 && t.pv.heldCredits == [(true, 7)]) = true := by decide +kernel
theorem test_port_events :
    ran (.portMessageArrive portMsg1) (portOf { Port.reset with bound := true }) (fun t => (t.port 0 2).queue == [⟨far1, 1, [7], false⟩]) = true ∧
    ran (.portMessageArrive portMsg1) base (fun t => (t.fi.job 1).d == 1) = true ∧
    ran (.portCredit 0 2 63) (portOf { Port.reset with cred := 5 }) (fun t => (t.port 0 2).cred == 64) = true ∧
    ran (.portCredit 0 2 1) (portOf { Port.reset with bound := true, job := 1, peer := far1, unsent := [[7, 8]], cred := 1 }) (fun t => (t.port 0 2).cred == 0 && t.fi.outbox.map (·.die) == [1]) = true := by decide +kernel

/-! ### The fabric: a group table at 0x20000 -/

def groupWord (n : Nat) (dark : Bool) : Word := BitVec.ofNat 64 ((if dark then 2 ^ 62 else 0) + n * 2 ^ 42 + 0x20000)
def groupSt (l : List Nat) : State := w8d base 0x20000 l
def grouped (l : List (BitVec 16)) : State := { base with fi := { base.fi with table := some l, jobs := [(1, { Job.reset with i := 5, c := 2, act := true, jflags := 4 })], waves := [⟨1, 3, 0⟩] } }
/-- A dark interval that holds a downstream credit of job 7. -/
def heldSt : State := { base with fi := { base.fi with dark := true }, pk := { base.pk with pv := { base.pk.pv with heldCredits := [(false, 7)], down := 0x8000000000000000 } } }
def dueSt : State := { base with fi := { base.fi with qwint := 1 }, dl := { base.dl with dcyc := 1024 } }
def tableIn (s : State) (n : Nat) (v : Word) : List (BitVec 16) := (List.range n).map fun i => BitVec.ofNat 16 (s.devWord (fld v 6 34 * 64 + 8 * i)).toNat
theorem witness_FabricEvents :
    ((groupWord 2 true).toNat.testBit 62 = true ∧ fld (groupWord 2 true) 42 10 = 2 ∧ fld (groupWord 0 true) 42 10 = 0 ∧ fld (groupWord 513 true) 42 10 = 513 ∧ fld (groupWord 512 true) 42 10 = 512) ∧
    (base.fi.fid ∈ tableIn (groupSt [0, 5]) 2 (groupWord 2 true) ∧ (tableIn (groupSt [0, 5]) 2 (groupWord 2 true)).Nodup) ∧
    base.fi.fid ∉ tableIn (groupSt [6, 5]) 2 (groupWord 2 true) ∧
    (base.fi.fid ∈ tableIn (groupSt [0, 0]) 2 (groupWord 2 true) ∧ ¬ (tableIn (groupSt [0, 0]) 2 (groupWord 2 true)).Nodup) ∧
    ((groupWord 2 false).toNat.testBit 62 = false ∧ (grouped [0]).fi.dark = false ∧ (grouped [0]).fi.table ≠ none ∧ ({ base.fi with dark := true } : Fabric).dark = true) ∧
    (heldSt.fi.dark = true ∧ heldSt.fi.heldCreds = [] ∧ heldSt.pv.heldCredits = [(false, 7)] ∧ heldSt.pv.down.toNat.testBit 63 = true ∧
      (let u : State := { heldSt with fi := { heldSt.fi with dark := false, heldCreds := [] }, pk := { heldSt.pk with pv := { heldSt.pk.pv with heldCredits := [] } } }
       u.departures = u)) ∧
    (SMap.wf Job.reset (grouped [0]).fi.jobs = true ∧ ((List.finRange 5).all fun c => ((base.ctx c).strand.all fun u => u.job != 2)) = true ∧ (∀ u ∈ base.dl.subs, u.job ≠ 2)) ∧
    ((base.ctx 0).strand = some strand1 ∧ strand1.job = 1) ∧
    (base.isLeader = true ∧ (grouped [5, 0]).isLeader = false) ∧
    dueSt.waveDue 1 = true ∧
    (let w : WaveMsg := ⟨1, false, false, 3, 0, 7, 0, 0⟩
     (grouped [0]).fi.members[w.member]? = some (grouped [0]).fi.fid ∧ w.die = base.core.die ∧ w.die ≠ 3) ∧
    (let w : WaveMsg := ⟨1, true, false, 3, 0, 0, 1, 0⟩
     (grouped [0]).fi.members.length ≤ w.member ∧ (grouped [0]).fi.waves.find? (fun x => x.job == w.job && x.number == w.number) = some ⟨1, 3, 0⟩ ∧ w.second = true) ∧
    SMap.wf 0 (base.fi.links.get 15).markers = true := by decide +kernel
theorem test_fabric_events :
    ran (.groupLoad (groupWord 2 true)) (groupSt [0, 5]) (fun t => t.fi.table == some [0, 5] && t.fi.dark && t.fi.seq == 1) = true ∧
    ran (.groupLoad (groupWord 2 true)) (groupSt [6, 5]) (fun t => t.fi.err == 1 && t.fi.table.isNone) = true ∧ ran (.groupLoad (groupWord 2 true)) (groupSt [0, 0]) (fun t => t.fi.err == 2) = true ∧
    ran (.groupLoad (groupWord 0 true)) base (fun t => t.fi.err == 3) = true ∧ ran (.groupLoad (groupWord 2 false)) (grouped [0]) (fun t => t.fi.err == 4 && t.fi.table == some [0]) = true ∧
    ran .darkClear heldSt (fun t => !t.fi.dark && t.pv.dnc == 1 && (t.fi.job 7).c == 1 && t.pv.heldCredits.isEmpty) = true ∧
    ran (.jobCounterClear 2) { base with fi := { base.fi with jobs := [(2, { Job.reset with i := 5, act := true })] } } (fun t => (t.fi.job 2).i == 0 && !(t.fi.job 2).act) = true ∧
    ran (.jobCounterClear 1) (grouped [0]) (fun t => (t.fi.job 1).i == 5) = true ∧ ran (.jsetArrive 1 3) (grouped [0]) (fun t => (t.fi.job 1).jflags == 7) = true ∧
    ran (.jsetArrive 1 3) (grouped [5, 0]) (fun t => (t.fi.job 1).jflags == 4) = true ∧ ran (.markerArrive 1 15) base (fun t => getAt 0 (t.fi.links.get 15).markers 1 == 1) = true := by decide +kernel
theorem test_quiet_wave :
    ran (.quietWaveStart 1) dueSt (fun t => (t.fi.job 1).waves == 1 && t.agenda.length == 1) = true ∧
    ran (.quietWaveVisit ⟨1, false, false, 3, 0, 7, 0, 0⟩) (grouped [0]) (fun t => !(t.fi.job 1).act && t.fi.outbox == [⟨0, 1, false, .wave ⟨1, false, false, 3, 0, 10, 0, 1⟩⟩]) = true ∧
    ran (.quietWaveVisit ⟨1, true, false, 3, 0, 0, 1, 0⟩) (grouped [0]) (fun t => t.fi.waves.isEmpty && t.fi.outbox.length == 3 && t.agenda == [.quietDeclaration ⟨1, true, 3, 4⟩]) = true ∧
    ran (.quietDeclaration ⟨1, true, 3, 4⟩) base (fun t => (t.fi.job 1).decl == some ⟨true, 3, 4⟩) = true ∧
    ran (.noRouteReachesMember 9) (grouped [0]) (fun t => t.fi.cut == [9] && t.fi.waves.isEmpty) = true := by decide +kernel

/-! ### Link 15 -/

def linkSt (l : Link) : State := { base with fi := { base.fi with links := base.fi.links.set 15 l } }
def lanes16 : Vector (BitVec 16) 4 := #v[0x000F, 0xFFFF, 0, 0]
def upLink : Link := { State.reset.fi.links.get 15 with state := .up, masks := lanes16, rxSeq := 6, replayBuf := [⟨4, 1, 0⟩, ⟨5, 2, 0⟩] }
/-- Fibre 0 loses wavelength 3. -/
def dimLink : Link := { upLink with failing := #v[8, 0, 0, 0] }
def downLink : Link := { upLink with state := .down }
def lockLink : Link := { upLink with state := .locking }
def markerFlit (seq : BitVec 14) : BitVec 576 := mkFlit (BitVec.ofNat 512 (1 + 5 * 2 ^ 16 + 7 * 2 ^ 32)) 5 seq 4
theorem witness_LinkEvents :
    (((linkSt downLink).fi.links.get 15).state = .down ∧ ((linkSt upLink).fi.links.get 15).state = .up ∧ ((linkSt lockLink).fi.links.get 15).state = .locking) ∧
    flitGood 0x1 = false ∧ (flitGood (mkFlit 0 6 0 5) = true ∧ (mkFlit 0 6 0 5).toNat / 2 ^ 512 % 16 = 6) ∧
    (flitGood (markerFlit 6) = true ∧ (markerFlit 6).toNat / 2 ^ 512 % 16 = 5 ∧ BitVec.ofNat 14 ((markerFlit 6).toNat / 2 ^ 530) = upLink.rxSeq) ∧
    (flitGood (markerFlit 7) = true ∧ (markerFlit 7).toNat / 2 ^ 512 % 16 = 5 ∧ BitVec.ofNat 14 ((markerFlit 7).toNat / 2 ^ 530) ≠ upLink.rxSeq ∧ 4096 < (upLink.rxSeq - (7 : BitVec 14)).toNat) ∧
    (BitVec.ofNat 14 ((markerFlit 5).toNat / 2 ^ 530) ≠ upLink.rxSeq ∧ (upLink.rxSeq - (5 : BitVec 14)).toNat ≤ 4096) ∧
    (flitGood (mkFlit 0 7 0 5) = true ∧ (mkFlit 0 7 0 5).toNat / 2 ^ 512 % 16 = 7) ∧ (flitGood (mkFlit 0 0 0 5) = true ∧ (mkFlit 0 0 0 5).toNat / 2 ^ 512 % 16 = 0) ∧
    (upLink.live 0 = true ∧ upLink.live 1 = true ∧ upLink.live 2 = false ∧ upLink.isUp = true) ∧ (upLink.failing.get 0 = 0 ∧ dimLink.failing.get 0 ≠ 0 ∧ lockLink.state = .locking) ∧
    ((upLink.masks.get 0).toNat.testBit (3 : Fin 16).val = true) := by decide +kernel
theorem test_link_receives :
    ran (.linkFlitReceive 15 (markerFlit 6)) (linkSt upLink) (fun t => let l := t.fi.links.get 15
      l.rxSeq == 7 && l.peerFid == 5 && l.peerLink == 7 && l.replayBuf == [⟨5, 2, 0⟩] && t.agenda == [.markerArrive 1 15]) = true ∧
    ran (.linkFlitReceive 15 (markerFlit 7)) (linkSt upLink) (fun t => (t.fi.links.get 15).out == [(0, mkFlit 0 6 0 6)] && (t.fi.links.get 15).rxSeq == 6) = true ∧
    ran (.linkFlitReceive 15 (markerFlit 5)) (linkSt upLink) (fun t => (t.fi.links.get 15).out.isEmpty && (t.fi.links.get 15).ackSent == 4) = true ∧
    ran (.linkFlitReceive 15 1) (linkSt upLink) (fun t => (t.fi.links.get 15).crcErrors == upLink.crcErrors + 1) = true ∧
    ran (.linkFlitReceive 15 (markerFlit 6)) (linkSt lockLink) (fun t => decide (t = linkSt lockLink)) = true := by decide +kernel
theorem test_link_events :
    ran (.replayRequest 15 5) (linkSt upLink) (fun t => (t.fi.links.get 15).replayBuf == [⟨5, 2, 0⟩] && (t.fi.links.get 15).out == [(0, 2)] && (t.fi.links.get 15).replays == 1) = true ∧
    ran (.wavelengthDead 15 0 3) (linkSt upLink) (fun t => (t.fi.links.get 15).masks.get 0 == 0xF && (t.fi.links.get 15).failing.get 0 == 8) = true ∧
    (let t := (linkSt dimLink).loseLight 15 0
     (t.fi.links.get 15).masks.get 0 == 7 && (t.fi.links.get 15).state == .degraded && (t.fi.links.get 15).out == [(1, 1), (1, 2)] && (t.fi.links.get 15).failing.get 0 == 0) = true ∧
    ran (.linkRelock 15) (linkSt upLink) (fun t => (t.fi.links.get 15).state == .locking) = true ∧
    ran (.relockDone 15 0x0007000F00000000) (linkSt lockLink) (fun t => let l := t.fi.links.get 15
      l.masks == #v[0, 0, 0xF, 7] && l.state == .degraded && l.rxSeq == 0 && l.replayBuf.isEmpty) = true := by decide +kernel

/-! ### Errata (R390, R391) and the slice hash (R249), worked out by hand from their rules -/

/-- An abort of context 1 restores ring 2, which held 3 slots, in the cycle of the read: context 0 sees HELD 3 beside FILLED 2, context 1 HELD 0. -/
theorem test_ring_count_erratum :
    (let s : State := { eng id with core := { (eng id).core with restored := [(1, 2, 3)] } }
     s.sysReg 0 0x1C2 - s.sysReg 1 0x1C2) = 3 * 2 ^ 32 := by decide +kernel
theorem test_firmware_erratum : engCause 0x102 96 = true ∧ engCause 0x103 96 = false ∧ engCause 0x103 97 = true ∧ engCause 0x102 95 = false := by decide
theorem test_home_slice : homeSlice 0x100 = 1 ∧ homeSlice 0x1100 = 0 ∧ homeSlice (2 ^ 36 + 0x200) = 3 ∧ homeSlice 0x8000000300 = 3 := by decide +kernel

end Sys2Proof.Tests
end

section
/-! PROOFS. The integer words of the X slot (R78 to R86): first the operations of the model in the numbers of their operands, then the frame in
which each word runs and the words that decode to nothing, then the statements. -/

namespace Sys2Proof.IntegerControl

open Sys2Proof Sys2Proof.Machine Sys2Proof.Stated

/-! ### Numbers of a pattern -/

/-- The signed number of a pattern (R5) is the one of the library. -/
theorem snum_toNat {n : Nat} (h : 0 < n) (v : BitVec n) : snum n v.toNat = v.toInt := by
  have hn : 2 ^ n = 2 * 2 ^ (n - 1) := by rw [← Nat.pow_succ', Nat.succ_eq_add_one, Nat.sub_add_cancel h]
  have hlt : v.toNat < 2 ^ (n - 1) ↔ 2 * v.toNat < 2 ^ n := by omega
  simp only [snum, BitVec.toInt_eq_toNat_cond, hlt, Nat.cast_pow, Nat.cast_ofNat]

theorem sval_eq_toInt (a : Word) : sval a = a.toInt := snum_toNat (by decide) a

@[simp] theorem word_sval (a : Word) : word (sval a) = a := by rw [sval_eq_toInt, word, BitVec.ofInt_toInt]

@[simp] theorem nword_toNat (a : Word) : nword a.toNat = a := by rw [nword, BitVec.ofNat_toNat, BitVec.setWidth_eq]

theorem toNat_nword (n : Nat) : (nword n).toNat = n % 2 ^ 64 := BitVec.toNat_ofNat n 64

theorem word_natCast (n : Nat) : word (n : Int) = nword n := BitVec.ofInt_natCast 64 n

theorem word_add (i j : Int) : word (i + j) = word i + word j := BitVec.ofInt_add i j

theorem word_sub (i j : Int) : word (i - j) = word i - word j := by
  rw [Int.sub_eq_add_neg, word_add, BitVec.sub_eq_add_neg]
  exact congrArg (word i + ·) BitVec.ofInt_neg

theorem eq_nword {a : Word} {n : Nat} (h : a.toNat = n % 2 ^ 64) : a = nword n := BitVec.eq_of_toNat_eq (by rw [h, toNat_nword])

/-- A sign-extended constant is the pattern of its signed number. -/
theorem signExtend_eq_word {n : Nat} (h : 0 < n) (v : BitVec n) : v.signExtend 64 = word (snum n v.toNat) := by
  rw [snum_toNat h]; rfl

/-- The low bits of a word, sign-extended (R53). -/
theorem signExt_eq_word {n : Nat} (h : 0 < n) (a : Word) : signExt a n = word (snum n (a.toNat % 2 ^ n)) := by
  rw [signExt, signExtend_eq_word h, BitVec.toNat_setWidth]

theorem zeroExt_eq_nword (a : Word) (n : Nat) : zeroExt a n = nword (a.toNat % 2 ^ n) := rfl

/-! ### XALU (R78) -/

theorem add_eq_nword (a b : Word) : a + b = nword (a.toNat + b.toNat) := eq_nword (BitVec.toNat_add a b)

theorem sub_eq_word (a b : Word) : a - b = word ((a.toNat : Int) - b.toNat) := by
  rw [word_sub, word_natCast, word_natCast, nword_toNat, nword_toNat]

theorem and_eq_nword (a b : Word) : a &&& b = nword (a.toNat &&& b.toNat) := by rw [← BitVec.toNat_and, nword_toNat]
theorem or_eq_nword (a b : Word) : a ||| b = nword (a.toNat ||| b.toNat) := by rw [← BitVec.toNat_or, nword_toNat]
theorem xor_eq_nword (a b : Word) : a ^^^ b = nword (a.toNat ^^^ b.toNat) := by rw [← BitVec.toNat_xor, nword_toNat]

theorem andn_eq_nword (a b : Word) : a &&& ~~~b = nword (a.toNat &&& (2 ^ 64 - 1 - b.toNat)) := by
  rw [and_eq_nword, BitVec.toNat_not]
theorem orn_eq_nword (a b : Word) : a ||| ~~~b = nword (a.toNat ||| (2 ^ 64 - 1 - b.toNat)) := by
  rw [or_eq_nword, BitVec.toNat_not]

theorem shiftLeft_eq_nword (a : Word) (n : Nat) : a <<< n = nword (a.toNat * 2 ^ n) :=
  eq_nword (by rw [BitVec.toNat_shiftLeft, Nat.shiftLeft_eq])

theorem shiftRight_eq_nword (a : Word) (n : Nat) : a >>> n = nword (a.toNat / 2 ^ n) := by
  rw [← Nat.shiftRight_eq_div_pow, ← BitVec.toNat_ushiftRight, nword_toNat]

theorem sshiftRight_eq_word (a : Word) (n : Nat) : a.sshiftRight n = word (sval a / 2 ^ n) := by
  rw [← word_sval (a.sshiftRight n), sval_eq_toInt, sval_eq_toInt, BitVec.toInt_sshiftRight, Int.shiftRight_eq_div_pow]
  norm_cast

theorem sshiftRight_eq_word_nword (a : Word) (n : Nat) : a.sshiftRight n = word (sval (nword a.toNat) / 2 ^ n) := by
  rw [nword_toNat, sshiftRight_eq_word]

/-- A shift amount is six bits (R78). -/
theorem shamt_lt (b : Word) : shamt b < 64 := Nat.mod_lt b.toNat (by decide)

/-- The two parts of a rotation share no bit, so that their union is their sum. -/
theorem rotl64_eq_rotl (a : Word) {n : Nat} (h : n < 64) : rotl64 a n = rotl a.toNat n := by
  have hlow : a.toNat / 2 ^ (64 - n) < 2 ^ n := by
    rw [Nat.div_lt_iff_lt_mul (by positivity), ← pow_add, Nat.add_sub_cancel' h.le]
    exact a.isLt
  have hhigh : a.toNat * 2 ^ n % 2 ^ 64 = (a.toNat % 2 ^ (64 - n)) <<< n := by
    rw [Nat.shiftLeft_eq, ← Nat.mul_mod_mul_right, ← pow_add, Nat.sub_add_cancel h.le]
  have hrot : (rotl64 a n).toNat = a.toNat * 2 ^ n % 2 ^ 64 + a.toNat / 2 ^ (64 - n) := by
    rw [hhigh, Nat.shiftLeft_add_eq_or_of_lt hlow, ← hhigh, rotl64, BitVec.toNat_rotateLeft, Nat.mod_mod, Nat.mod_eq_of_lt h,
      Nat.shiftLeft_eq, Nat.shiftRight_eq_div_pow]
  have hlt := (rotl64 a n).isLt
  exact eq_nword (by omega)

theorem slt_eq_decide_sval (a b : Word) : a.slt b = decide (sval a < sval b) := by
  rw [sval_eq_toInt, sval_eq_toInt, BitVec.slt_eq_decide]

theorem min_eq_word (a b : Word) : (if b.slt a then b else a) = word (min (sval a) (sval b)) := by
  rw [slt_eq_decide_sval]
  rcases le_or_gt (sval a) (sval b) with h | h
  · simp [h, h.not_gt]
  · simp [h, h.le]

theorem max_eq_word (a b : Word) : (if a.slt b then b else a) = word (max (sval a) (sval b)) := by
  rw [slt_eq_decide_sval]
  rcases le_or_gt (sval b) (sval a) with h | h
  · simp [h, h.not_gt]
  · simp [h, h.le]

theorem minn_eq_nword (a b : Word) : (if b.ult a then b else a) = nword (min a.toNat b.toNat) := by
  rw [BitVec.ult_eq_decide]
  rcases le_or_gt a.toNat b.toNat with h | h
  · simp [h, h.not_gt]
  · simp [h, h.le]

theorem maxn_eq_nword (a b : Word) : (if a.ult b then b else a) = nword (max a.toNat b.toNat) := by
  rw [BitVec.ult_eq_decide]
  rcases le_or_gt b.toNat a.toNat with h | h
  · simp [h, h.not_gt]
  · simp [h, h.le]

theorem absDiff_eq_nword (a b : Word) : absDiff a b = nword (sval a - sval b).natAbs := by
  rw [sval_eq_toInt, sval_eq_toInt]; rfl

/-! ### XMUL (R79) -/

theorem mul_eq_nword (a b : Word) : a * b = nword (a.toNat * b.toNat) := eq_nword (BitVec.toNat_mul a b)

theorem mulHigh_eq_word (a b : Word) : mulHigh a b = word (sval a * sval b / 2 ^ 64) := by
  rw [sval_eq_toInt, sval_eq_toInt]; rfl

theorem mulHighN_eq_nword (a b : Word) : mulHighN a b = nword (a.toNat * b.toNat / 2 ^ 64) := rfl

theorem eq_zero_iff_toNat (b : Word) : b = 0 ↔ b.toNat = 0 := BitVec.toNat_inj.symm

theorem divS_eq (a b : Word) :
    divS a b = if b.toNat = 0 then nword (2 ^ 64 - 1) else word ((sval a).tdiv (sval b)) := by
  simp only [divS, eq_zero_iff_toNat, sval_eq_toInt]; rfl

theorem divU_eq (a b : Word) : divU a b = if b.toNat = 0 then nword (2 ^ 64 - 1) else nword (a.toNat / b.toNat) := by
  simp only [divU, eq_zero_iff_toNat, ← BitVec.toNat_udiv, nword_toNat]; rfl

/-- A remainder is what the truncated quotient leaves of the dividend. -/
theorem remS_eq (a b : Word) : remS a b = if b.toNat = 0 then a else word (sval a - sval b * (sval a).tdiv (sval b)) := by
  simp only [remS, eq_zero_iff_toNat, sval_eq_toInt, ← Int.tmod_def]; rfl

theorem remU_eq (a b : Word) :
    remU a b = if b.toNat = 0 then a else word ((a.toNat : Int) - b.toNat * (a.toNat / b.toNat : Nat)) := by
  have h : (a.toNat : Int) - b.toNat * (a.toNat / b.toNat : Nat) = (a % b).toNat := by
    rw [BitVec.toNat_umod, Int.natCast_mod, Int.natCast_div, Int.emod_def]
  simp only [remU, eq_zero_iff_toNat, h, word_natCast, nword_toNat]

/-! ### XBIT (R80) -/

theorem leadingZeros_eq_findIdx (v n : Nat) : leadingZeros v n = (List.range n).findIdx fun i => v.testBit (n - 1 - i) := by
  induction n with
  | zero => rfl
  | succ n ih =>
    have hshift : (fun i => v.testBit (n + 1 - 1 - i)) ∘ Nat.succ = fun i => v.testBit (n - 1 - i) := by
      funext i
      exact congrArg v.testBit (by omega)
    rw [leadingZeros, List.range_succ_eq_map, List.findIdx_cons, List.findIdx_map, hshift, ← ih]
    cases h : v.testBit n <;> simp [h]

theorem trailingZeros_from_eq_findIdx (v i n : Nat) : trailingZeros v i n = (List.range n).findIdx fun k => v.testBit (i + k) := by
  induction n generalizing i with
  | zero => rfl
  | succ n ih =>
    have hshift : (fun k => v.testBit (i + k)) ∘ Nat.succ = fun k => v.testBit (i + 1 + k) := by
      funext k
      exact congrArg v.testBit (by omega)
    rw [trailingZeros, List.range_succ_eq_map, List.findIdx_cons, List.findIdx_map, hshift, ← ih]
    cases v.testBit i <;> simp

theorem trailingZeros_eq_findIdx (v n : Nat) : trailingZeros v 0 n = (List.range n).findIdx fun i => v.testBit i := by
  simp only [trailingZeros_from_eq_findIdx, Nat.zero_add]

theorem popcount_eq_countP (v n : Nat) : popcount v n = (List.range n).countP fun i => v.testBit i := by
  induction n with
  | zero => rfl
  | succ n ih => rw [popcount, List.range_succ, List.countP_append, ← ih, List.countP_singleton]

theorem sumTo_succ (n : Nat) (f : Nat → Nat) : sumTo (n + 1) f = sumTo n f + f n := by simp [sumTo, List.range_succ]

theorem sumTo_succ' (n : Nat) (f : Nat → Nat) : sumTo (n + 1) f = f 0 + sumTo n fun i => f (i + 1) := by
  simp [sumTo, List.range_succ_eq_map, Function.comp_def]

theorem mul_sumTo (c n : Nat) (f : Nat → Nat) : c * sumTo n f = sumTo n fun i => c * f i := (List.sum_map_mul_left ..).symm

theorem sumTo_congr {n : Nat} {f g : Nat → Nat} (h : ∀ i < n, f i = g i) : sumTo n f = sumTo n g :=
  congrArg List.sum (List.map_congr_left fun i hi => h i (List.mem_range.mp hi))

theorem reverseBits_eq_sumTo (v n : Nat) : reverseBits v n = sumTo n fun i => if v.testBit (n - 1 - i) then 2 ^ i else 0 := by
  induction n generalizing v with
  | zero => rfl
  | succ n ih =>
    have hshift : ∀ i < n, (if (v / 2).testBit (n - 1 - i) then 2 ^ i else 0) = if v.testBit (n + 1 - 1 - i) then 2 ^ i else 0 := by
      intro i hi
      rw [Nat.testBit_div_two, show n - 1 - i + 1 = n + 1 - 1 - i by omega]
    rw [reverseBits, ih, sumTo_succ, sumTo_congr hshift, show n + 1 - 1 - n = 0 by omega]

/-- Bytes in memory order stand for the sum of their places (R5). -/
theorem ofBytes_map_range (g : Nat → Byte) (n : Nat) : ofBytes ((List.range n).map g) = sumTo n fun j => (g j).toNat * 256 ^ j := by
  induction n generalizing g with
  | zero => rfl
  | succ n ih =>
    have hplace : ∀ j < n, 256 * ((g (j + 1)).toNat * 256 ^ j) = (g (j + 1)).toNat * 256 ^ (j + 1) := fun j _ => by ring
    rw [List.range_succ_eq_map, List.map_cons, List.map_map, ofBytes, ih, mul_sumTo, sumTo_succ', pow_zero, Nat.mul_one]
    exact congrArg ((g 0).toNat + ·) (sumTo_congr hplace)

theorem swapBytes_eq_nword (a : Word) : swapBytes a = nword (sumTo 8 fun j => a.toNat / 256 ^ (7 - j) % 256 * 256 ^ j) := by
  have hrev : (bytesOf a 8).reverse = (List.range 8).map fun j => byteOf a (7 - j) := rfl
  rw [swapBytes, hrev, ofBytes_map_range]
  simp only [byteOf, BitVec.toNat_ofNat]
  rfl

/-! ### Bit fields (R81) -/

theorem zeroExt_shiftRight (a : Word) (pos w : Nat) : zeroExt (a >>> pos) w = nword (a.toNat / 2 ^ pos % 2 ^ w) := by
  rw [zeroExt_eq_nword, BitVec.toNat_ushiftRight, Nat.shiftRight_eq_div_pow]

theorem signExt_shiftRight (a : Word) (pos : Nat) {w : Nat} (h : 0 < w) :
    signExt (a >>> pos) w = word (snum w (a.toNat / 2 ^ pos % 2 ^ w)) := by
  rw [signExt_eq_word h, BitVec.toNat_ushiftRight, Nat.shiftRight_eq_div_pow]

/-- The mask of a field has the bits of the field. -/
theorem getLsbD_fieldMask {pos w i : Nat} (hi : i < 64) :
    (BitVec.ofNat 64 ((2 ^ w - 1) * 2 ^ pos)).getLsbD i = decide (pos ≤ i ∧ i - pos < w) := by
  rw [BitVec.getLsbD_ofNat, ← Nat.shiftLeft_eq, Nat.testBit_shiftLeft, Nat.testBit_two_pow_sub_one]
  simp [hi]

/-- Bit by bit, an insertion takes the field from the low bits of `a` and the rest from `d`. -/
theorem getLsbD_insertField (d a : Word) {pos w i : Nat} (hi : i < 64) :
    (insertField d a pos w).getLsbD i = if i < pos then d.getLsbD i else if i - pos < w then a.getLsbD (i - pos) else d.getLsbD i := by
  rw [insertField, mergeBits, BitVec.getLsbD_or, BitVec.getLsbD_and, BitVec.getLsbD_and, BitVec.getLsbD_not, BitVec.getLsbD_shiftLeft,
    getLsbD_fieldMask hi]
  by_cases hp : i < pos
  · simp [hi, hp, hp.not_ge]
  · by_cases hw : i - pos < w
    · simp [hi, hp, hw, not_lt.mp hp]
    · simp [hi, hp, hw]

/-- A word whose field [pos + w − 1 : pos] is replaced is the sum of the bits above, the field and the bits below. -/
theorem insertField_eq_nword (d a : Word) (pos w : Nat) :
    insertField d a pos w = nword (d.toNat / 2 ^ (pos + w) * 2 ^ (pos + w) + a.toNat % 2 ^ w * 2 ^ pos + d.toNat % 2 ^ pos) := by
  have hd : d.toNat % 2 ^ pos < 2 ^ pos := Nat.mod_lt _ (by positivity)
  have ha : a.toNat % 2 ^ w < 2 ^ w := Nat.mod_lt _ (by positivity)
  have hsum : d.toNat / 2 ^ (pos + w) * 2 ^ (pos + w) + a.toNat % 2 ^ w * 2 ^ pos + d.toNat % 2 ^ pos
      = 2 ^ pos * (2 ^ w * (d.toNat / 2 ^ (pos + w)) + a.toNat % 2 ^ w) + d.toNat % 2 ^ pos := by ring
  refine BitVec.eq_of_getLsbD_eq fun i hi => ?_
  rw [getLsbD_insertField d a hi, hsum, nword, BitVec.getLsbD_ofNat, Nat.testBit_two_pow_mul_add _ hd, Nat.testBit_two_pow_mul_add _ ha,
    Nat.testBit_mod_two_pow, Nat.testBit_mod_two_pow, Nat.testBit_div_two_pow]
  by_cases hp : i < pos
  · simp [hi, hp, BitVec.testBit_toNat]
  · by_cases hw : i - pos < w
    · simp [hi, hp, hw, BitVec.testBit_toNat]
    · simp [hi, hp, hw, BitVec.testBit_toNat, show i - pos - w + (pos + w) = i by omega]

/-! ### Immediates and constants (R82, R83) -/

section
variable {n : Nat} (h : 0 < n) (a : Word) (imm : BitVec n)
include h

theorem add_signExtend : a + imm.signExtend 64 = word (a.toNat + snum n imm.toNat) := by
  rw [signExtend_eq_word h, word_add, word_natCast, nword_toNat]
theorem and_signExtend : a &&& imm.signExtend 64 = nword (a.toNat &&& (word (snum n imm.toNat)).toNat) := by
  rw [signExtend_eq_word h, and_eq_nword]
theorem or_signExtend : a ||| imm.signExtend 64 = nword (a.toNat ||| (word (snum n imm.toNat)).toNat) := by
  rw [signExtend_eq_word h, or_eq_nword]
theorem xor_signExtend : a ^^^ imm.signExtend 64 = nword (a.toNat ^^^ (word (snum n imm.toNat)).toNat) := by
  rw [signExtend_eq_word h, xor_eq_nword]

end

/-- A shift by 16 leaves room for the constant. -/
theorem shiftLeft_or_setWidth (d : Word) (c : BitVec 16) :
    d <<< 16 ||| c.setWidth 64 = nword (d.toNat * 2 ^ 16 % 2 ^ 64 + c.toNat) := by
  have hc : c.toNat < 2 ^ 16 := c.isLt
  have hroom : d.toNat * 2 ^ 16 % 2 ^ 64 = (d.toNat % 2 ^ 48) <<< 16 := by rw [Nat.shiftLeft_eq]; omega
  rw [or_eq_nword, BitVec.toNat_shiftLeft, Nat.shiftLeft_eq, BitVec.toNat_setWidth, Nat.mod_eq_of_lt (by omega : c.toNat < 2 ^ 64), hroom,
    Nat.shiftLeft_add_eq_or_of_lt hc]

/-! ### Conditions (R84) -/

theorem cond_holds_eq (c : Cond) (a b : Word) : Cond.holds c a b = condTrue c a b := by
  have heq : (a == b) = decide (a.toNat = b.toNat) := by rw [beq_eq_decide, decide_eq_decide, BitVec.toNat_inj]
  cases c with
  | eq => exact heq
  | ne => rw [Cond.holds, bne, heq, condTrue, decide_not]
  | lt => exact slt_eq_decide_sval a b
  | ge => rw [Cond.holds, condTrue, slt_eq_decide_sval, ← decide_not, decide_eq_decide, not_lt]
  | ltn => exact BitVec.ult_eq_decide
  | gen => rw [Cond.holds, condTrue, BitVec.ult_eq_decide, ← decide_not, decide_eq_decide, not_lt]
  | le => rw [Cond.holds, condTrue, slt_eq_decide_sval, ← decide_not, decide_eq_decide, not_lt]

/-! ### The frame of a word of the X slot -/

theorem getP_eq_valP (s : State) (r : BitVec 4) : s.me.getP r = valP s r := by
  have hz : r = 0 ↔ r.toNat = 0 := BitVec.toNat_inj.symm
  simp only [Ctx.getP, valP, hz]; rfl

/-- A result joins the results in flight of the mode in which the context runs (R65). -/
theorem setFlight_flight_append (c : Ctx) (p : Pend) :
    c.setFlight (c.flight ++ [p]) = if c.hm then { c with hpend := c.hpend ++ [p] } else { c with pend := c.pend ++ [p] } := by
  by_cases h : c.hm = true
  · simp only [Ctx.setFlight, Ctx.flight, if_pos h]
  · simp only [Ctx.setFlight, Ctx.flight, if_neg h]

theorem land_eq_landed (s : State) (w : Write) (lat : Nat) : s.land w lat = landed s w lat :=
  congrArg (s.setCtx s.core.cur) (setFlight_flight_append s.me _)

/-- Reading an X field pops at most a port: every predicate stays. -/
theorem valP_of_readX {s t : State} {i : Bool} {a : BitVec 5} {v : Word} (h : s.readX i a = some (v, t)) (r : BitVec 4) :
    valP t r = valP s r := by
  rw [← getP_eq_valP, ← getP_eq_valP]
  cases hp : s.portField i a with
  | none =>
    rw [readX_plain hp] at h
    cases h; rfl
  | some n =>
    cases hw : (s.me.ports.get n).peek with
    | none =>
      rw [readX_empty hp hw] at h
      cases h
    | some w =>
      rw [readX_port hp hw] at h
      cases h
      rw [State.me_modMe]; rfl

theorem formXxx_of_reads {f : Reg3} {op : Word → Word → Word} {lat : Nat} {s s1 s2 : State} {a b : Word}
    (ha : s.readX f.i f.a = some (a, s1)) (hb : s1.readX f.i f.b = some (b, s2)) :
    formXxx f op lat s = s2.writeX f.i f.d (op a b) lat := by simp [formXxx, ha, hb]

theorem formXx_of_read {i : Bool} {d a : BitVec 5} {op : Word → Word} {lat : Nat} {s s1 : State} {v : Word}
    (h : s.readX i a = some (v, s1)) : formXx i d a op lat s = s1.writeX i d (op v) lat := by simp [formXx, h]

theorem formPred_eq_landed (d : BitVec 4) (v : Bool) (s : State) :
    formPred d v s = some (landed s (.p ⟨d.toNat, d.isLt⟩ v) 1) := by rw [← land_eq_landed]; rfl

/-- An instruction without checks of R52 whose meaning is one body: when it is performed and the body goes on, the word completes. -/
theorem exec_of_body {i : Instr} {g : BitVec 4} {s t : State} {body : State → Option State} (hx : exec i s = perform i g s body)
    (hc : slotCheck i s = none) (hg : valP s g = true) (hb : body s = some t) : exec i s = .next t := by
  rw [hx]
  exact perform_of_body (by rwa [getP_eq_valP]) hc hb

/-- A word whose meaning is the form of two X sources completes with any operation equal to the form's. That the dispatch gives it this
meaning and that R52 checks nothing of it hold by unfolding, for each such word. -/
theorem xxxCompletes_of_form {mk : Reg3 → Instr} {op op' : Word → Word → Word} {lat : Nat} (hop : ∀ a b, op a b = op' a b)
    (hx : ∀ f s, exec (mk f) s = perform (mk f) f.g s (formXxx f op lat) := by intros; rfl)
    (hc : ∀ f s, slotCheck (mk f) s = none := by intros; rfl) : XxxCompletes mk op' lat := by
  intro f s s1 s2 t a b hg ha hb hw
  refine exec_of_body (hx f s) (hc f s) hg ?_
  rw [formXxx_of_reads ha hb, hop, hw]

/-- The same of a word whose meaning is the form of one X source. -/
theorem xxCompletes_of_form {α : Type} {mk : α → Instr} {g : α → BitVec 4} {i : α → Bool} {d a : α → BitVec 5} {op op' : α → Word → Word}
    {lat : Nat} (hop : ∀ f v, op f v = op' f v)
    (hx : ∀ f s, exec (mk f) s = perform (mk f) (g f) s (formXx (i f) (d f) (a f) (op f) lat) := by intros; rfl)
    (hc : ∀ f s, slotCheck (mk f) s = none := by intros; rfl) : XxCompletes mk g i d a op' lat := by
  intro f s s1 t v hg hr hw
  refine exec_of_body (hx f s) (hc f s) hg ?_
  rw [formXx_of_read hr, hop, hw]

/-- A word whose body writes one predicate, as it follows from the state at issue. -/
theorem exec_of_formPred {i : Instr} {g d : BitVec 4} {s : State} {pv : State → Bool} {v : Bool}
    (hx : exec i s = perform i g s fun s => formPred d (pv s) s) (hc : slotCheck i s = none) (hg : valP s g = true) (hv : pv s = v) :
    exec i s = .next (landed s (.p ⟨d.toNat, d.isLt⟩ v) 1) := by
  subst hv
  exact exec_of_body hx hc hg (formPred_eq_landed d (pv s) s)

/-! ### Words that decode to nothing -/

theorem opOf_eq_div {w : Nat} (hw : w < 2 ^ 32) : opOf w = w / 2 ^ 26 := Nat.mod_eq_of_lt (by omega)

/-- An instruction word that its slot's table refuses decodes to nothing. -/
theorem decodeAny_of_decodeRaw_none {w : Nat} (h : opOf w ≠ 0x3F) (hr : decodeRaw w = none) : decodeAny w = none := by
  simp only [decodeAny, h, if_false, decode, hr]
  split <;> rfl

/-- An instruction word whose operands break a limit of its encoding decodes to nothing. -/
theorem decodeAny_of_illFormed {w : Nat} {i : Instr} (h : opOf w ≠ 0x3F) (hr : decodeRaw w = some i) (hi : i.wellFormed = false) :
    decodeAny w = none := by
  simp only [decodeAny, h, if_false, decode, hr, hi]
  split <;> rfl

theorem decodeRaw_of_xSlot {w : Nat} (h : opOf w ≤ 0x1D) : decodeRaw w = decX w := by simp only [decodeRaw, slotOf, h, if_true]

/-- A word of the X slot that the slot's table refuses decodes to nothing. -/
theorem decodeAny_of_decX_none {w : Nat} (h : opOf w ≤ 0x1D) (hr : decX w = none) : decodeAny w = none :=
  decodeAny_of_decodeRaw_none (by omega) (by rw [decodeRaw_of_xSlot h, hr])

theorem decXalu_none {w : Nat} (h : 16 ≤ fA w) : decXalu w = none := by
  unfold decXalu
  split
  case h_17 => rfl
  all_goals omega

theorem decXmul_none {w : Nat} (h : 7 ≤ fA w) : decXmul w = none := by
  unfold decXmul
  split
  case h_8 => rfl
  all_goals omega

theorem decXbit_none {w : Nat} (h : bits w 10 6 ≠ 0 ∨ 9 ≤ fA w) : decXbit w = none := by
  unfold decXbit
  split
  · rfl
  · split
    case h_10 => rfl
    all_goals omega

/-- The immediate of a shift (R82) has zero in its bits [8:6]. -/
theorem decShi_none {w : Nat} (h : bits w 10 6 % 8 ≠ 0) : decShi w = none := by
  unfold decShi
  split
  case h_5 => rfl
  all_goals omega

theorem condOfCode_none {n : Nat} (h : 7 ≤ n) : Cond.ofCode n = none := by
  unfold Cond.ofCode
  split
  case h_8 => rfl
  all_goals omega

theorem decCmp_none {w : Nat} (h : bits w 20 20 ≠ 0 ∨ 7 ≤ fA w) : decCmp w = none := by
  unfold decCmp
  split
  · rfl
  · rw [condOfCode_none (by omega)]; rfl

theorem decCmpi_none {w : Nat} (h : 7 ≤ bits w 17 14) : decCmpi w = none := by
  rw [decCmpi, condOfCode_none h]; rfl

/-- PLOG (R85) has I and the top bit of each register field zero; PNOT and PMOV have b zero. -/
theorem decPlog_none {w : Nat}
    (h : (iOf w = true ∨ bits w 20 20 ≠ 0 ∨ bits w 15 15 ≠ 0 ∨ bits w 10 10 ≠ 0) ∨ 6 ≤ fA w ∨ (4 ≤ fA w ∧ bits w 10 6 ≠ 0)) :
    decPlog w = none := by
  unfold decPlog
  split
  · rfl
  · rename_i hclean
    have hcode := h.resolve_left fun hc => hclean (by simpa [or_assoc] using hc)
    split
    case h_5 => exact if_neg (by rw [beq_iff_eq]; omega)
    case h_6 => exact if_neg (by rw [beq_iff_eq]; omega)
    case h_7 => rfl
    all_goals omega

/-! ### XALU and XMUL: results and latencies (R78, R79) -/

/-- Function codes past the last of XALU and of XMUL are refused. -/
theorem decodeAny_xalu_xmul_none {w : Nat} (hw : w < 2 ^ 32)
    (h : (w / 2 ^ 26 = 0x03 ∧ 16 ≤ w % 64) ∨ (w / 2 ^ 26 = 0x04 ∧ 7 ≤ w % 64)) : decodeAny w = none := by
  rw [← opOf_eq_div hw] at h
  refine decodeAny_of_decX_none (by omega) ?_
  rcases h with ⟨hop, hf⟩ | ⟨hop, hf⟩
  · simp only [decX, hop, decXalu_none hf]
  · simp only [decX, hop, decXmul_none hf]

/-- Settles O13: each operation of the model is the operation of its rule, written in the numbers of its operands. -/
theorem integerResults : Obligations.IntegerResults := by
  unfold Obligations.IntegerResults
  exact
    ⟨⟨xxxCompletes_of_form add_eq_nword,
      xxxCompletes_of_form sub_eq_word,
      xxxCompletes_of_form and_eq_nword,
      xxxCompletes_of_form or_eq_nword,
      xxxCompletes_of_form xor_eq_nword,
      xxxCompletes_of_form andn_eq_nword,
      xxxCompletes_of_form orn_eq_nword,
      xxxCompletes_of_form fun a b => shiftLeft_eq_nword a (shamt b),
      xxxCompletes_of_form fun a b => shiftRight_eq_nword a (shamt b),
      xxxCompletes_of_form fun a b => sshiftRight_eq_word a (shamt b),
      xxxCompletes_of_form fun a b => rotl64_eq_rotl a (shamt_lt b),
      xxxCompletes_of_form min_eq_word,
      xxxCompletes_of_form max_eq_word,
      xxxCompletes_of_form minn_eq_nword,
      xxxCompletes_of_form maxn_eq_nword,
      xxxCompletes_of_form absDiff_eq_nword⟩,
     xxxCompletes_of_form mul_eq_nword,
     xxxCompletes_of_form mulHigh_eq_word,
     xxxCompletes_of_form mulHighN_eq_nword,
     xxxCompletes_of_form divS_eq,
     xxxCompletes_of_form divU_eq,
     xxxCompletes_of_form remS_eq,
     xxxCompletes_of_form remU_eq,
     fun _ hw h => decodeAny_xalu_xmul_none hw h⟩

/-! ### XBIT, bit fields, immediates and constants (R80 to R83) -/

/-- EXTR takes the field at bit `pos` of `len` + 1 bits (R43, R81). -/
theorem exec_extr {f : FieldOp} {s s1 t : State} {v : Word} (hg : valP s f.g = true) (hr : s.readX f.i f.a = some (v, s1))
    (hw : s1.writeX f.i f.d (nword (v.toNat / 2 ^ f.pos.toNat % 2 ^ (f.len.toNat + 1))) 1 = some t) : exec (.extr f) s = .next t := by
  refine exec_of_body rfl rfl hg ?_
  rw [formXx_of_read hr, zeroExt_shiftRight, hw]

/-- EXTRS extends the sign of the field (R81). -/
theorem exec_extrs {f : FieldOp} {s s1 t : State} {v : Word} (hg : valP s f.g = true) (hr : s.readX f.i f.a = some (v, s1))
    (hw : s1.writeX f.i f.d (word (snum (f.len.toNat + 1) (v.toNat / 2 ^ f.pos.toNat % 2 ^ (f.len.toNat + 1)))) 1 = some t) :
    exec (.extrs f) s = .next t := by
  refine exec_of_body rfl rfl hg ?_
  rw [formXx_of_read hr, signExt_shiftRight _ _ (Nat.succ_pos _), hw]

/-- INSR reads x[a] and then x[d], as both are at issue (R47, R81). -/
theorem exec_insr {f : FieldOp} {s s1 s2 t : State} {v d : Word} (hg : valP s f.g = true) (hr : s.readX f.i f.a = some (v, s1))
    (hd : s1.readX f.i f.d = some (d, s2))
    (hw : s2.writeX f.i f.d (nword (d.toNat / 2 ^ (f.pos.toNat + (f.len.toNat + 1)) * 2 ^ (f.pos.toNat + (f.len.toNat + 1)) +
      v.toNat % 2 ^ (f.len.toNat + 1) * 2 ^ f.pos.toNat + d.toNat % 2 ^ f.pos.toNat)) 1 = some t) : exec (.insr f) s = .next t := by
  refine exec_of_body rfl rfl hg ?_
  rw [← insertField_eq_nword] at hw
  simp [hr, hd, hw]

theorem exec_movi {f : Const16} {s t : State} (hg : valP s f.g = true)
    (hw : s.writeX f.i f.d (word (snum 16 f.imm.toNat)) 1 = some t) : exec (.movi f) s = .next t := by
  refine exec_of_body rfl rfl hg ?_
  rw [signExtend_eq_word (by decide), hw]

theorem exec_movsh {f : Const16} {s s1 t : State} {d : Word} (hg : valP s f.g = true) (hr : s.readX f.i f.d = some (d, s1))
    (hw : s1.writeX f.i f.d (nword (d.toNat * 2 ^ 16 % 2 ^ 64 + f.imm.toNat)) 1 = some t) : exec (.movsh f) s = .next t := by
  refine exec_of_body rfl rfl hg ?_
  rw [← shiftLeft_or_setWidth] at hw
  simp [hr, hw]

/-- A field past bit 63 breaks the limit of EXTR, EXTRS and INSR (R43, R81). -/
theorem decodeAny_field_none {w : Nat} (hop : 0x06 ≤ opOf w ∧ opOf w ≤ 0x08) (h : 64 < w / 2 ^ 5 % 64 + w % 32 + 1) :
    decodeAny w = none := by
  have hfits : (fieldOp w).fits = false := by
    simp only [FieldOp.fits, fieldOp, BitVec.toNat_ofNat, decide_eq_false_iff_not]
    omega
  have hraw : decodeRaw w = decX w := decodeRaw_of_xSlot (by omega)
  have hcase : opOf w = 0x06 ∨ opOf w = 0x07 ∨ opOf w = 0x08 := by omega
  rcases hcase with h6 | h7 | h8
  · exact decodeAny_of_illFormed (i := .extr (fieldOp w)) (by omega) (by rw [hraw]; simp only [decX, h6]) hfits
  · exact decodeAny_of_illFormed (i := .extrs (fieldOp w)) (by omega) (by rw [hraw]; simp only [decX, h7]) hfits
  · exact decodeAny_of_illFormed (i := .insr (fieldOp w)) (by omega) (by rw [hraw]; simp only [decX, h8]) hfits

/-- What R80, R81 and R82 call illegal is refused. -/
theorem decodeAny_bit_field_shift_none {w : Nat} (hw : w < 2 ^ 32)
    (h : (w / 2 ^ 26 = 0x05 ∧ (w / 2 ^ 6 % 32 ≠ 0 ∨ 9 ≤ w % 64)) ∨
      (0x06 ≤ w / 2 ^ 26 ∧ w / 2 ^ 26 ≤ 0x08 ∧ 64 < w / 2 ^ 5 % 64 + w % 32 + 1) ∨ (w / 2 ^ 26 = 0x0D ∧ w / 2 ^ 6 % 8 ≠ 0)) :
    decodeAny w = none := by
  rw [← opOf_eq_div hw] at h
  rcases h with ⟨hop, hb⟩ | ⟨hlo, hhi, hf⟩ | ⟨hop, hi⟩
  · exact decodeAny_of_decX_none (by omega) (by simp only [decX, hop, decXbit_none hb])
  · exact decodeAny_field_none ⟨hlo, hhi⟩ hf
  · have himm : bits w 10 6 % 8 ≠ 0 := by simp only [bits]; omega
    exact decodeAny_of_decX_none (by omega) (by simp only [decX, hop, decShi_none himm])

/-- Settles O14: each body of R80 to R83 is its rule in numbers; a field past bit 63 is no well-formed term. -/
theorem bitAndImmediateResults : Obligations.BitAndImmediateResults := by
  unfold Obligations.BitAndImmediateResults
  refine
    ⟨⟨xxCompletes_of_form fun _ a => congrArg nword (leadingZeros_eq_findIdx a.toNat 64),
      xxCompletes_of_form fun _ a => congrArg nword (trailingZeros_eq_findIdx a.toNat 64),
      xxCompletes_of_form fun _ a => congrArg nword (popcount_eq_countP a.toNat 64),
      xxCompletes_of_form fun _ a => congrArg nword (reverseBits_eq_sumTo a.toNat 64),
      xxCompletes_of_form fun _ a => swapBytes_eq_nword a,
      xxCompletes_of_form fun _ a => signExt_eq_word (by decide) a,
      xxCompletes_of_form fun _ a => signExt_eq_word (by decide) a,
      xxCompletes_of_form fun _ a => signExt_eq_word (by decide) a,
      xxCompletes_of_form fun _ a => zeroExt_eq_nword a 32⟩,
     ⟨fun f s s1 t v hg _ hr => ⟨exec_extr hg hr, exec_extrs hg hr⟩,
      fun f s s1 s2 t v d hg _ hr hd => exec_insr hg hr hd⟩,
     xxCompletes_of_form fun f a => add_signExtend (by decide) a f.imm,
     xxCompletes_of_form fun f a => and_signExtend (by decide) a f.imm,
     xxCompletes_of_form fun f a => or_signExtend (by decide) a f.imm,
     xxCompletes_of_form fun f a => xor_signExtend (by decide) a f.imm,
     xxCompletes_of_form fun f a => shiftLeft_eq_nword a f.amt.toNat,
     xxCompletes_of_form fun f a => shiftRight_eq_nword a f.amt.toNat,
     xxCompletes_of_form fun f a => sshiftRight_eq_word_nword a f.amt.toNat,
     xxCompletes_of_form fun f a => rotl64_eq_rotl a f.amt.isLt,
     fun f s t hg => exec_movi hg,
     fun f s s1 t d hg hr => exec_movsh hg hr,
     fun w hw h => decodeAny_bit_field_shift_none hw h, ?_, ?_, ?_⟩
  · decide
  · decide
  · decide

/-! ### Compares, predicate logic and SEL (R84 to R86) -/

theorem exec_cmp {f : CmpReg} {s s1 s2 : State} {a b : Word} (hg : valP s f.g = true) (ha : s.readX f.i f.a = some (a, s1))
    (hb : s1.readX f.i f.b = some (b, s2)) :
    exec (.cmp f) s = .next (landed s2 (.p ⟨f.d.toNat, f.d.isLt⟩ (condTrue f.cc a b)) 1) := by
  refine exec_of_body rfl rfl hg ?_
  simp [ha, hb, formPred_eq_landed, cond_holds_eq]

/-- The source field of CMPI is never rebased (R84). -/
theorem exec_cmpi {f : CmpImm} {s s1 : State} {a : Word} (hg : valP s f.g = true) (ha : s.readX false f.a = some (a, s1)) :
    exec (.cmpi f) s = .next (landed s1 (.p ⟨f.d.toNat, f.d.isLt⟩ (condTrue f.cc a (word (snum 9 f.imm.toNat)))) 1) := by
  refine exec_of_body rfl rfl hg ?_
  simp [ha, formPred_eq_landed, cond_holds_eq, signExtend_eq_word]

/-- SEL reads both sources, and the predicate that chooses is the one at issue (R86). -/
theorem exec_sel {f : SelOp} {s s1 s2 t : State} {a b : Word} (hg : valP s f.g = true) (ha : s.readX f.i f.a = some (a, s1))
    (hb : s1.readX f.i f.b = some (b, s2)) (hw : s2.writeX f.i f.d (if valP s f.p then a else b) 1 = some t) :
    exec (.sel f) s = .next t := by
  refine exec_of_body rfl rfl hg ?_
  rw [← valP_of_readX ha, ← valP_of_readX hb, ← getP_eq_valP] at hw
  simp [ha, hb, hw]

/-- Conditions without a number, nonzero bits that R84 to R86 reserve, and codes past the last of PLOG are refused. -/
theorem decodeAny_predicate_none {w : Nat} (hw : w < 2 ^ 32)
    (h : (w / 2 ^ 26 = 0x10 ∧ (7 ≤ w % 64 ∨ 16 ≤ w / 2 ^ 16 % 32)) ∨ (w / 2 ^ 26 = 0x11 ∧ 7 ≤ w / 2 ^ 14 % 16) ∨
      (w / 2 ^ 26 = 0x12 ∧ (6 ≤ w % 64 ∨ w / 2 ^ 25 % 2 = 1 ∨ 16 ≤ w / 2 ^ 16 % 32 ∨ 16 ≤ w / 2 ^ 11 % 32 ∨ 16 ≤ w / 2 ^ 6 % 32 ∨
        (4 ≤ w % 64 ∧ w / 2 ^ 6 % 32 ≠ 0))) ∨
      (w / 2 ^ 26 = 0x13 ∧ w / 2 ^ 4 % 4 ≠ 0)) : decodeAny w = none := by
  rw [← opOf_eq_div hw] at h
  refine decodeAny_of_decX_none (by omega) ?_
  rcases h with ⟨hop, hf⟩ | ⟨hop, hc⟩ | ⟨hop, hf⟩ | ⟨hop, hf⟩
  · simp only [decX, hop]
    exact decCmp_none (by simp only [bits, fA]; omega)
  · simp only [decX, hop]
    exact decCmpi_none hc
  · simp only [decX, hop]
    exact decPlog_none (by simp only [iOf, bits, fA, beq_iff_eq]; omega)
  · have hb : (bits w 5 4 == 0) = false := beq_false_of_ne hf
    simp only [decX, hop, only, hb, Bool.false_eq_true, if_false]

/-- Settles O15: the words of R84 to R86 read their operands at issue and write what the rules say; p0 stays. -/
theorem predicateResults : Obligations.PredicateResults := by
  unfold Obligations.PredicateResults
  refine ⟨fun f s s1 s2 a b hg ha hb => exec_cmp hg ha hb, fun f s s1 a hg ha => exec_cmpi hg ha, ?_, ?_,
    fun f s s1 s2 t a b hg ha hb hw => exec_sel hg ha hb hw, fun w hw h => decodeAny_predicate_none hw h, fun _ _ => rfl⟩
  · intro f s hg
    refine ⟨exec_of_formPred rfl rfl hg ?_, exec_of_formPred rfl rfl hg ?_, exec_of_formPred rfl rfl hg ?_, exec_of_formPred rfl rfl hg ?_⟩
    all_goals simp only [getP_eq_valP]
  · intro f s hg
    refine ⟨exec_of_formPred rfl rfl hg ?_, exec_of_formPred rfl rfl hg ?_⟩
    all_goals simp only [getP_eq_valP]

end Sys2Proof.IntegerControl
end
